-- ==== Sys2Proof/Word.lean ====
section
/-! DEFINITION. The plain value types of the OSKALA SB6: bytes, tags and the small number ranges the data book names. -/

namespace Sys2Proof

/-- One payload byte of a frame, or one byte of the configuration record (R144, R158). -/
abbrev Byte := BitVec 8

/-- A plan id or an UNPIN reference number, 0..65535 (chapter 6, the plan table). -/
abbrev PlanId := BitVec 16

/-- A 32-bit build tag; 0 is a present value like any other (definitions of the opening file). -/
abbrev BuildTag := BitVec 32

/-- A local slot number 0..5 (R2). -/
abbrev SlotNo := Fin 6

/-- A hub lane number 0..3 (chapter 7). -/
abbrev LaneNo := Fin 4

/-- The source address 0..15 that a frame carries (R144). -/
abbrev Source := Fin 16

/-- A shelf station address 0..7 (R160). -/
abbrev Station := Fin 8

end Sys2Proof
end

