-- ==== Sys2Proof/Syntax.lean ====
section
/-! DEFINITION. The commands of the SB6: one constructor of Instr for each row of spec/opcode_table.json, with the data the
outside world brings with the event as its operands. -/

namespace Sys2Proof

/-- The two levels of a filtered input line (R3, R131). -/
inductive Level
  | asserted
  | released
  deriving DecidableEq, Repr

/-- The two readings of a bolt-sense input (R4). -/
inductive BoltReading
  | thrown
  | withdrawn
  deriving DecidableEq, Repr

/-- How an address strap is tied; an open strap reads 1 through its pull-up (R160). -/
inductive Strap
  | high
  | low
  | leftOpen
  deriving DecidableEq, Repr

/-- The three ways in which the configuration memory is found missing (R161). -/
inductive MemoryFailure
  | noAddressAck
  | noDataAck
  | notCompleteIn50ms
  deriving DecidableEq, Repr

/-- The commands, in the order of spec/opcode_table.json. A received frame is carried as it stands on the line: its source
address and its payload bytes (R144, R158). A timer event names its slot, lane, peer or record. -/
inductive Instr
  /-- POWER_ON (R159). -/
  | powerOn
  /-- PIN_RESET (R159): the time the reset pin was held low, in µs. -/
  | pinReset (lowMicros : Nat)
  /-- RESET_RELEASE (R160): the three address straps. -/
  | resetRelease (strap2 strap1 strap0 : Strap)
  /-- CONFIG_READ_TIMEOUT (R161). -/
  | configReadTimeout (how : MemoryFailure)
  /-- END_OF_RESET (R164): the bytes 0..53 read from the configuration memory. -/
  | endOfReset (bytes : List Byte)
  /-- FILTERED_PRESENT_CHANGE (R3): the level the raw present input has held. -/
  | filteredPresentChange (slot : SlotNo) (level : Level)
  /-- FILTERED_BOLT_SENSE_CHANGE (R4): the reading the raw bolt-sense input has held. -/
  | filteredBoltSenseChange (slot : SlotNo) (reading : BoltReading)
  /-- INSERTION (R6): the code resistance at the cable-code input in Ω; none for an open input (R7). -/
  | insertion (slot : SlotNo) (code : Option Nat)
  /-- EXTRACTION (R10). -/
  | extraction (slot : SlotNo)
  /-- MEASUREMENT_PUBLICATION (R12): the sums of the ten clamped voltage (mV) and current (mA) samples of the 10 ms. -/
  | measurementPublication (slot : SlotNo) (voltageSum currentSum : Nat)
  /-- OVER_CURRENT_CHECK (R34). -/
  | overCurrentCheck (slot : SlotNo)
  /-- INTEGRATION_PERIOD_END (R14): the sum of the period's 1000 clamped current samples in mA. -/
  | integrationPeriodEnd (slot : SlotNo) (currentSum : Nat)
  /-- DETECT_TIMER_EXPIRY (R22). -/
  | detectTimerExpiry (slot : SlotNo)
  /-- TAPER_DWELL (R25). -/
  | taperDwell (slot : SlotNo)
  /-- TOPPED_DWELL (R26). -/
  | toppedDwell (slot : SlotNo)
  /-- TAPER_TO_BULK_DWELL (R26). -/
  | taperToBulkDwell (slot : SlotNo)
  /-- TOPPED_TO_BULK_DWELL (R27). -/
  | toppedToBulkDwell (slot : SlotNo)
  /-- RESTART_HOLD_EXPIRY (R33). -/
  | restartHoldExpiry (slot : SlotNo)
  /-- RETRY_WAIT_EXPIRY (R36). -/
  | retryWaitExpiry (slot : SlotNo)
  /-- DUE_UNTIL_PASSES (R24). -/
  | dueUntilPasses (slot : SlotNo)
  /-- REPORT_TIMER_EXPIRY (R48). -/
  | reportTimerExpiry
  /-- EARLY_NEED_SPACING (R49). -/
  | earlyNeedSpacing
  /-- SILENCE_TIMER_EXPIRY (R43). -/
  | silenceTimerExpiry
  /-- PEER_AGING (R52): the peer whose entry ages. -/
  | peerAging (peer : Station)
  /-- CEILING_RECORD_EXPIRY (R57): the source of the record. -/
  | ceilingRecordExpiry (source : Source)
  /-- NEED (R51): a good class-2 frame. -/
  | need (source : Source) (payload : List Byte)
  /-- LEAVE (R53): a good class-2 frame. -/
  | leave (source : Source) (payload : List Byte)
  /-- CEILING (R55): a good class-1 frame. -/
  | ceiling (source : Source) (payload : List Byte)
  /-- OTHER_FRAME (R147): a good frame of any class. -/
  | otherFrame (cls : Fin 8) (source : Source) (payload : List Byte)
  /-- CLAIM (R80): a good class-0 frame that this station did not send. -/
  | claim (source : Source) (payload : List Byte)
  /-- CLAIM_EXPIRY (R79): the earliest expiry among the admitted claims. -/
  | claimExpiry
  /-- WITHDRAW_PULSE_END (R70). -/
  | withdrawPulseEnd (slot : SlotNo)
  /-- THROW_PULSE_END (R71). -/
  | throwPulseEnd (slot : SlotNo)
  /-- CLAIM_WAIT_TIMEOUT (R72). -/
  | claimWaitTimeout (slot : SlotNo)
  /-- OPEN_TIMER_EXPIRY (R73). -/
  | openTimerExpiry (slot : SlotNo)
  /-- PERMIT_OPEN (R94): a good class-3 frame. -/
  | permitOpen (source : Source) (payload : List Byte)
  /-- PERMIT_RETURN (R92): a good class-3 frame. -/
  | permitReturn (source : Source) (payload : List Byte)
  /-- PERMIT_DUE (R96): a good class-3 frame. -/
  | permitDue (source : Source) (payload : List Byte)
  /-- PERMIT_HOLD (R97): a good class-3 frame. -/
  | permitHold (source : Source) (payload : List Byte)
  /-- PERMIT_LIFT (R98): a good class-3 frame. -/
  | permitLift (source : Source) (payload : List Byte)
  /-- PERMIT_RESTART (R99): a good class-3 frame. -/
  | permitRestart (source : Source) (payload : List Byte)
  /-- PERMIT_UNKNOWN_KIND (R91): a good class-3 frame. -/
  | permitUnknownKind (source : Source) (payload : List Byte)
  /-- STATION_RESTART (R165). -/
  | stationRestart
  /-- PLAN (R108): a good class-5 frame. -/
  | plan (source : Source) (payload : List Byte)
  /-- GO (R117): a good class-5 frame. -/
  | go (source : Source) (payload : List Byte)
  /-- CANCEL (R124): a good class-5 frame. -/
  | cancel (source : Source) (payload : List Byte)
  /-- BUILD (R128): a good class-5 frame. -/
  | build (source : Source) (payload : List Byte)
  /-- UNPIN (R138): a good class-5 frame. -/
  | unpin (source : Source) (payload : List Byte)
  /-- ENUMERATION_TIMEOUT (R115). -/
  | enumerationTimeout (slot : SlotNo)
  /-- AWAIT_TIMEOUT (R117). -/
  | awaitTimeout (slot : SlotNo)
  /-- PAUSE_EXPIRY (R116). -/
  | pauseExpiry (slot : SlotNo)
  /-- REENUM_GRACE_EXPIRY (R118). -/
  | reenumGraceExpiry (slot : SlotNo)
  /-- ENUMERATED_CHANGE (R131): the new filtered level of the lane's enumerated line. -/
  | enumeratedChange (lane : LaneNo) (level : Level)
  /-- LANE_FAULT (R139): the lane's filtered fault line becomes ASSERTED. -/
  | laneFault (lane : LaneNo)
  /-- FAULT_LINE_RELEASED (R140). -/
  | faultLineReleased (lane : LaneNo)
  /-- FAULT_CLEAR_EXPIRY (R140). -/
  | faultClearExpiry (lane : LaneNo)
  /-- WAKE_TIMER_EXPIRY (R133): the earliest wake expiry among the WAKING lanes. -/
  | wakeTimerExpiry
  /-- IDLE_TIMER_EXPIRY (R135). -/
  | idleTimerExpiry (lane : LaneNo)
  /-- SCRUB_TIMER_EXPIRY (R136). -/
  | scrubTimerExpiry (lane : LaneNo)
  /-- QUERY_STATION (R154): a good class-6 frame. -/
  | queryStation (source : Source) (payload : List Byte)
  /-- QUERY_SLOT (R154): a good class-6 frame. -/
  | querySlot (source : Source) (payload : List Byte)
  /-- FRAME_ABANDONED (R145). -/
  | frameAbandoned
  /-- CRC_ERROR (R145). -/
  | crcError
  /-- LINE_IDLE (R143). -/
  | lineIdle
  /-- TRANSMIT_ATTEMPT (R150). -/
  | transmitAttempt
  /-- ARBITRATION_LOST (R150). -/
  | arbitrationLost
  /-- BIT_ERROR (R151). -/
  | bitError
  /-- TRANSMIT_COMPLETE (R152). -/
  | transmitComplete
  /-- LAMP_BLINK_TICK (R167). -/
  | lampBlinkTick
  deriving DecidableEq, Repr

end Sys2Proof
end

