-- ==== Sys2Proof/Decode.lean ====
section
/-! DEFINITION. The SB6 has no instruction words: no row of spec/opcode_table.json gives bits, so no word spells a command. -/

namespace Sys2Proof

/-- The command that a word spells by the bits of spec/opcode_table.json. No row gives any bits (every row's "fields" is
empty), so the answer is none for every word (notes/assumptions/2.md). -/
def decodeTableWord (_nbits _w : Nat) : Option Instr := none

end Sys2Proof
end

