-- ==== Sys2Proof/Config.lean ====
section
/-! DEFINITION. The free values: constants with no body, for the values that the data book leaves unstated while the part
goes on. Nothing can be proved of them, so a claim holds whatever they are. -/

namespace Sys2Proof.Config

/-- DESIGN CHOICE (notes/assumptions/9.md). The content of STATUS bytes whose presence byte says absent (the chain plan id
of a slot with progress NONE, an absent build tag, the plan id and step of a slot with no run): R158 gives these bytes
no value. The first argument is the state's free-value counter, the second the field. -/
opaque freeWord : Nat → Nat → BitVec 32

/-- DESIGN CHOICE (notes/assumptions/10.md). Whether the working voltage is 9 V (else 5 V) after a lane detach from a slot
whose cable class is INVALID: R32 sets it to the class voltage, and R18 gives that class none. -/
opaque freeNineVolts : Nat → Bool

end Sys2Proof.Config
end

