-- ==== Sys2Proof/Machine/State.lean ====
section
/-! DEFINITION. The state of the SB6, block by block as the data book divides it, with the value each field takes at power-on
and pin reset as its default. Every moment (the clock, the expiry of a timer, a line position) is a number of bit times of the
Cart Line (4 µs; 250 of them make 1 ms); the durations of the record are in the units of the record. -/

namespace Sys2Proof.Machine

/-! ## Faults and refusals -/

/-- Why a command could stop the part. The data book gives every command of the table an effect and names no stop, so this
type has no constructor: no command faults (notes/assumptions/3.md). -/
inductive Fault
  deriving DecidableEq, Repr

/-- Why a command has no meaning. -/
inductive Refusal
  /-- Raised by an arm of exec whose command has no meaning yet; safe: nothing is claimed of it. No arm raises it. -/
  | notModelled (mnemonic : String)
  deriving DecidableEq, Repr

/-! ## Start-up Loader (chapter 9) -/

/-- The configuration record after checking and clamping (R162). The defaults are the default record. -/
structure Record where
  /-- cart ceiling C_cfg, 400..16000 qW -/
  cartCeiling : Nat := 1600
  /-- guard band G, 0..400 qW -/
  guard : Nat := 40
  /-- shelf station count M, 1..8 -/
  stations : Nat := 4
  /-- report period T_rep, 100..2000 ms -/
  reportPeriod : Nat := 500
  /-- report delta, 4..64 qW -/
  reportDelta : Nat := 16
  /-- ramp step K, 4..96 qW -/
  rampStep : Nat := 24
  /-- entry allowance E, 0..96 qW -/
  entryAllowance : Nat := 24
  /-- pulse allowance, 24..480 qW -/
  pulseAllowance : Nat := 96
  /-- withdraw amount, 8..60 qW -/
  withdrawAmount : Nat := 24
  /-- throw amount, 8..60 qW -/
  throwAmount : Nat := 24
  /-- pulse duration, 100..1000 ms -/
  pulseDuration : Nat := 300
  /-- fitted slot mask, bit n for local slot n -/
  fittedMask : BitVec 6 := 63
  /-- lane count L, 0..4 -/
  laneCount : Nat := 3
  /-- lane ceiling, 500..3000 mA -/
  laneCeiling : Nat := 1500
  /-- maintenance set-point, 100..500 mA, a multiple of 25 -/
  maintenance : Nat := 100
  /-- urgent charge threshold, 0..5000 mAh -/
  urgentCharge : Nat := 500
  /-- checkout charge, 0..10000 mAh -/
  checkoutCharge : Nat := 1500
  /-- open window, 2..60 s -/
  openWindow : Nat := 10
  /-- empty-open time, 10..600 s -/
  emptyOpen : Nat := 120
  /-- insert settle, 1..10 s -/
  insertSettle : Nat := 2
  /-- insertion debounce, 100..2000 ms -/
  insertDebounce : Nat := 500
  /-- extraction debounce, 100..2000 ms -/
  extractDebounce : Nat := 200
  /-- input glitch width, 0..15 ms -/
  glitchWidth : Nat := 4
  /-- restart hold, 50..1000 ms -/
  restartHold : Nat := 200
  /-- scrub time, 100..2000 ms -/
  scrubTime : Nat := 300
  /-- lane idle time, 1..60 s -/
  laneIdle : Nat := 5
  /-- enumeration timeout, 1..60 s -/
  enumTimeout : Nat := 10
  /-- re-enumeration grace, 5..120 s -/
  reenumGrace : Nat := 30
  /-- permit source levels of addresses 8..15, 0..3 each -/
  sourceLevels : Vector Nat 8 := #v[3, 2, 2, 2, 0, 0, 0, 0]
  /-- notice mask: bit (kind code − 1) set for a reported kind -/
  noticeMask : BitVec 12 := 4095
  deriving DecidableEq, Repr

/-- Where the part stands between power-on and running (R159 to R164). -/
inductive Mode
  /-- held in reset, waiting for the reset pin to return high or the supply to settle -/
  | heldInReset
  /-- the configuration memory is being read; the read began at this moment -/
  | loading (began : Nat)
  /-- every block runs (after the end of reset) -/
  | running
  deriving DecidableEq, Repr

/-! ## Slot Monitor (chapter 1) -/

/-- A filtered two-level input: UNKNOWN until the filter takes its first value (R3, R131). -/
inductive Filtered
  | unknown
  | asserted
  | released
  deriving DecidableEq, Repr

/-- The filtered bolt sense (R4). -/
inductive BoltSense
  | unknown
  | thrown
  | withdrawn
  deriving DecidableEq, Repr

/-- The cable class read at insertion (R7); absent is the data book's NONE. -/
inductive CableClass
  | absent
  | classA
  | classB
  | classC
  | invalid
  deriving DecidableEq, Repr

/-- Presence (R5 to R10) with the debounce that runs in it. -/
inductive Presence
  | empty
  /-- the insertion debounce runs to this time; whether the SETTLING is marked found (R5) -/
  | settling (until_ : Nat) (found : Bool)
  /-- a tablet is in the slot; the extraction debounce, when it runs, with its expiry (R9) -/
  | present (leaving : Option Nat)
  deriving DecidableEq, Repr

/-- The count of a glitch filter: the level last sampled and the number of samples in a row that showed it (R3). -/
structure GlitchRun where
  level : Bool := false
  run : Nat := 0
  deriving DecidableEq, Repr

/-- The Slot Monitor's fields of one slot, with the slot's input pins. Defaults: the values of R16 for a fitted slot. -/
structure MonitorSlot where
  /-- input pin: raw present input, active -/
  presentPin : Bool := false
  /-- input pin: raw bolt-sense input, active (reads THROWN) -/
  boltPin : Bool := true
  /-- input pin: code resistance in Ω, none for an open input -/
  codePin : Option Nat := none
  /-- input pin: voltage sense in mV -/
  voltPin : Int := 0
  /-- input pin: current sense in mA -/
  currPin : Int := 0
  fitted : Bool := true
  presence : Presence := .empty
  cable : CableClass := .absent
  presentIn : Filtered := .unknown
  presentRun : GlitchRun := {}
  boltIn : BoltSense := .unknown
  boltRun : GlitchRun := {}
  startSettled : Bool := false
  /-- measured voltage, 0..12000 mV -/
  volts : Nat := 0
  /-- measured current, 0..4000 mA -/
  amps : Nat := 0
  /-- samples taken since the last publication, and their sums (R12) -/
  samples : Nat := 0
  voltSum : Nat := 0
  ampSum : Nat := 0
  /-- accumulated charge Q in mAh -/
  q : Nat := 0
  /-- remainder in mA·s -/
  remainder : Nat := 0
  /-- end of the running integration period, and the sum of its current samples so far (R14) -/
  periodEnd : Option Nat := none
  periodSum : Nat := 0
  deriving DecidableEq, Repr

/-! ## Charge Controller (chapter 2) -/

/-- The three phases that charge: BULK, TAPER and TOPPED; also the values of the return phase. -/
inductive ChargePhase
  | bulk
  | taper
  | topped
  deriving DecidableEq, Repr

/-- A demand, or a sum of demands, in its three tiers (R28, R47). -/
structure Demand where
  floor : Nat := 0
  urgent : Nat := 0
  normal : Nat := 0
  deriving DecidableEq, Repr

/-- The cause of a FAULTED phase. -/
inductive FaultKind
  | overCurrent
  | overVoltage
  | invalidCable
  deriving DecidableEq, Repr

/-- The charge phase with what belongs to it alone: the DETECT timer, the return phase, the restart hold and the held demand,
the fault kind and the retry wait. -/
inductive Phase
  | off
  /-- DETECT; the expiry of the DETECT timer while the output is on (R21) -/
  | detect (timer : Option Nat)
  /-- BULK, TAPER or TOPPED -/
  | charging (phase : ChargePhase)
  /-- DEFERRED with its return phase (R30) -/
  | deferred (back : ChargePhase)
  /-- RESTART with its return phase, the expiry of the restart hold and the held demand (R32) -/
  | restart (back : ChargePhase) (holdUntil : Nat) (held : Demand)
  /-- FAULTED with its fault kind and, where it runs, the expiry of the retry wait (R36) -/
  | faulted (kind : FaultKind) (retryAt : Option Nat)
  deriving DecidableEq, Repr

/-- The power path of a slot (R18): its cable (CLASS) or an attached data lane (LANE). -/
inductive Path
  | cable
  | lane
  deriving DecidableEq, Repr

/-- The two working voltages. -/
inductive Volts
  | five
  | nine
  deriving DecidableEq, Repr

/-- The Charge Controller's fields of one slot. Defaults: R38. The output voltage is 0 while the output is off and the
working voltage while it is on. -/
structure ChargeSlot where
  phase : Phase := .off
  path : Path := .cable
  working : Volts := .five
  outputOn : Bool := false
  /-- set-point in mA -/
  setPoint : Nat := 0
  /-- the demand last handed to the Share Unit -/
  demand : Demand := {}
  /-- held measured power in qW -/
  heldPower : Nat := 0
  retries : Nat := 0
  ready : Bool := false
  /-- start of the dwell toward TAPER (in BULK) or TOPPED (in TAPER) -/
  downSince : Option Nat := none
  /-- start of the dwell back to BULK (in TAPER and TOPPED) -/
  upSince : Option Nat := none
  /-- start of the over-current check (R34) -/
  overSince : Option Nat := none
  deriving DecidableEq, Repr

/-! ## Share Unit (chapter 3) -/

/-- The share state. -/
inductive ShareState
  | listen
  | joined
  | isolated
  | clashed
  deriving DecidableEq, Repr

/-- One entry of the peer table. -/
structure Peer where
  demand : Demand
  reported : ShareState
  /-- time last heard -/
  heardAt : Nat
  /-- LIVE (else STALE) -/
  live : Bool
  deriving DecidableEq, Repr

/-- One ceiling record; a standing record has no expiry. -/
structure CeilingRecord where
  source : Source
  ceiling : Nat
  expires : Option Nat
  deriving DecidableEq, Repr

/-- The Share Unit. Defaults: R65 with the report timer of the default record. -/
structure Share where
  state : ShareState := .listen
  peerHeard : Bool := false
  /-- expiry of the silence timer while it runs -/
  silenceAt : Option Nat := none
  /-- next expiry of the report timer -/
  reportAt : Nat := 125000
  listenCount : Nat := 0
  /-- the peer table, one place for each station address -/
  peers : Vector (Option Peer) 8 := #v[none, none, none, none, none, none, none, none]
  ceilings : List CeilingRecord := []
  /-- own sums F, U, N -/
  own : Demand := {}
  lastSum : Nat := 0
  lastNeed : Option Nat := none
  earlyDue : Bool := false
  /-- reserved power R as last reported -/
  reserve : Nat := 0
  /-- the capped target -/
  target : Nat := 0
  /-- station allocation -/
  alloc : Nat := 0
  floorShort : Bool := false
  /-- slot allocations -/
  slotAlloc : Vector Nat 6 := #v[0, 0, 0, 0, 0, 0]
  deriving DecidableEq, Repr

/-! ## Latch Driver and Claim Unit (chapter 4) -/

/-- The three OPEN timers (R73). -/
inductive OpenTimer
  | window
  | emptyOpen
  | insertSettle
  deriving DecidableEq, Repr

/-- The latch state with its timer; unlearned is the absent latch state. -/
inductive LatchState
  | unlearned
  | locked
  /-- the claim wait timer runs to this time -/
  | withdrawWait (until_ : Nat)
  /-- a withdraw pulse is driven to this time -/
  | withdrawing (until_ : Nat)
  /-- OPEN with its running OPEN timer -/
  | opened (timer : OpenTimer) (until_ : Nat)
  | throwWait
  /-- a throw pulse is driven to this time -/
  | throwing (until_ : Nat)
  | jammed
  deriving DecidableEq, Repr

/-- The Latch Driver's fields of one slot. Defaults: R85. The bolt drive follows the latch state. -/
structure LatchSlot where
  state : LatchState := .unlearned
  /-- latch attempt, 1 or 2 -/
  attempt : Nat := 1
  /-- presence moved -/
  moved : Bool := false
  learnAtEnd : Bool := false
  deriving DecidableEq, Repr

/-- The operation of a request or claim. -/
inductive LatchOp
  | withdraw
  | throw_
  deriving DecidableEq, Repr

/-- A latch request (R77). -/
structure Request where
  slot : SlotNo
  op : LatchOp
  attempt : Nat
  claimed : Bool
  deriving DecidableEq, Repr

/-- An own claim record (R78). -/
structure OwnClaim where
  tag : Nat
  slot : SlotNo
  op : LatchOp
  amount : Nat
  duration : Nat
  /-- the claim still belongs to a latch request (R72) -/
  hasRequest : Bool
  /-- its expiry once admitted -/
  expires : Option Nat
  deriving DecidableEq, Repr

/-- An entry of the claim list, with the fields as the frame carried them (R79, R158). -/
structure ClaimEntry where
  owner : Source
  tag : Nat
  slot : Nat
  op : LatchOp
  amount : Nat
  /-- in units of 10 ms -/
  duration : Nat
  /-- line position -/
  position : Nat
  admitted : Bool
  deriving DecidableEq, Repr

/-- The Claim Unit. Defaults: R85. -/
structure Claims where
  requests : List Request := []
  own : List OwnClaim := []
  tagCounter : Nat := 0
  entries : List ClaimEntry := []
  /-- end of the retry hold -/
  retryHold : Option Nat := none
  deriving DecidableEq, Repr

/-! ## Custody Unit (chapter 5) -/

/-- The reason of a hold. -/
inductive HoldReason
  | admin
  | tamper
  | jammed
  deriving DecidableEq, Repr

/-- A hold record. -/
structure Hold where
  level : Nat
  reason : HoldReason
  deriving DecidableEq, Repr

/-- The Custody Unit's fields of one slot. -/
structure CustodySlot where
  hold : Option Hold := none
  /-- due-until -/
  dueUntil : Option Nat := none
  /-- MODEL's own: the passing of the mark has been taken, so that it is taken once -/
  duePassed : Bool := false
  deriving DecidableEq, Repr

/-- The outcomes of permits, plans and runs (R100, R127). -/
inductive Answer
  | granted | applied | source | badPermit | level | unfitted | notLocked | held | empty | occupied | busy
  | staleBuild | notReady
  | accepted | duplicate | tableFull | badSlots | badPlan | done | noTablet | outOfSequence | noLanes | noEnum
  | awaitTimeout | extracted | forced | cancelled | laneFault | restarted
  deriving DecidableEq, Repr

/-- The Custody Unit. Defaults: R105. -/
structure Custody where
  slots : Vector CustodySlot 6 := #v[{}, {}, {}, {}, {}, {}]
  /-- the verdict under construction -/
  verdict : List Answer := []
  /-- PERMIT frames received from the end of a RESTART permit's judgement on, in line order (R99) -/
  waiting : List (Source × List Byte) := []
  /-- a RESTART permit has been judged and its restart is not yet complete -/
  restartDue : Bool := false
  deriving DecidableEq, Repr

/-! ## Plan Engine (chapter 6) -/

/-- The place of a plan in a chain. -/
inductive PlanPhase
  | single
  | initial
  | continued
  | final
  deriving DecidableEq, Repr

/-- The kind of a plan step. -/
inductive StepKind
  | nothing
  | attach
  | floor
  | await
  | settle
  | detach
  | mark
  deriving DecidableEq, Repr

/-- A plan step with its argument. -/
structure PlanStep where
  kind : StepKind
  arg : Nat
  deriving DecidableEq, Repr

/-- A record of the plan table. -/
structure PlanRecord where
  id : PlanId
  source : Source
  mask : List SlotNo
  phase : PlanPhase
  pinned : Bool
  tag : BuildTag
  steps : List PlanStep
  runsOpen : Nat
  deriving DecidableEq, Repr

/-- The state a run in REENUM_WAIT came from, with the bit times left of its timer (R118). -/
inductive HeldWait
  | goWait (left : Option Nat)
  | pause (left : Nat)
  deriving DecidableEq, Repr

/-- The state of a run, with the expiry of its timer. A FINISHED run is not kept (R110). -/
inductive RunState
  | queued
  | laneWait
  | enumWait (until_ : Nat)
  | goWait (until_ : Option Nat)
  | pause (until_ : Nat)
  | reenumWait (held : HeldWait) (grace : Nat)
  deriving DecidableEq, Repr

/-- A run: its plan, its state, the step it stands at and whether it uses the slot's lane. -/
structure Run where
  plan : PlanId
  state : RunState
  step : Nat
  usingLane : Bool
  deriving DecidableEq, Repr

/-- The Plan Engine's fields of one slot. Defaults: R129. -/
structure PlanSlot where
  /-- the run queue; its first is the head run -/
  runs : List Run := []
  /-- progress: IN_PROGRESS with its chain plan id, or NONE -/
  progress : Option PlanId := none
  buildTag : Option BuildTag := none
  /-- plan floor in qW -/
  floor : Nat := 0
  deriving DecidableEq, Repr

/-- The Plan Engine. Defaults: R129. -/
structure Plans where
  slots : Vector PlanSlot 6 := #v[{}, {}, {}, {}, {}, {}]
  table : List PlanRecord := []
  required : Option BuildTag := none
  deriving DecidableEq, Repr

/-! ## Lane Switch (chapter 7) -/

/-- The state of a lane, with its slot, pin and timer. -/
inductive LaneState
  | dormant
  | waking (until_ : Nat)
  /-- READY; the expiry of the idle timer while it runs -/
  | ready (idleAt : Option Nat)
  | attached (slot : SlotNo) (pinned : Bool)
  | scrubbing (until_ : Nat)
  /-- FAULTED; the expiry of the fault clear timer while it runs -/
  | faulted (clearAt : Option Nat)
  | retired
  deriving DecidableEq, Repr

/-- One lane of the lane table, with its sideband pins. Defaults: R141. -/
structure Lane where
  /-- input pin: raw enumerated line, active -/
  enumPin : Bool := false
  /-- input pin: raw fault line, active -/
  faultPin : Bool := false
  state : LaneState := .dormant
  faults : Nat := 0
  enumIn : Filtered := .unknown
  enumRun : GlitchRun := {}
  faultIn : Filtered := .unknown
  faultRun : GlitchRun := {}
  /-- the moment at which the sampling of its sideband lines last started (R131) -/
  sampledFrom : Nat := 0
  deriving DecidableEq, Repr

/-- The Lane Switch. The lane of a slot is read from the lane table, of which the slot record's lane is the mirror. -/
structure Lanes where
  table : Vector Lane 4 := #v[{}, {}, {}, {}]
  /-- the lane wait list with the requests' pinned values -/
  waitList : List (SlotNo × Bool) := []
  deriving DecidableEq, Repr

/-! ## Line Interface (chapter 8) -/

/-- The kinds of notice (chapter 10). -/
inductive NoticeKind
  | inserted | extracted | tamper | chargeFault | ready | latchJammed | latchTimeout | laneFault | laneRetired
  | floorShort | shareState | configDefaulted
  deriving DecidableEq, Repr

/-- A frame the SB6 sends (R158). -/
inductive TxFrame
  | claim (tag : Nat) (op : LatchOp) (slot : SlotNo) (amount duration : Nat)
  | need (state : ShareState) (sums : Demand)
  | leave
  | verdict (number : Byte) (source : Source) (first : Nat) (outcomes : List Answer)
  | result (addressee : Source) (id : PlanId) (slot : Byte) (outcome : Answer) (step : Nat)
  | notice (kind : NoticeKind) (slot : Option SlotNo) (detail : Nat)
  | status (payload : List Byte)
  deriving DecidableEq, Repr

/-- An entry of the transmit queue (R148). -/
structure TxEntry where
  frame : TxFrame
  /-- enqueue order -/
  order : Nat
  /-- failed attempts, 0..7 -/
  failed : Nat := 0
  /-- being sent (else waiting) -/
  sending : Bool := false
  /-- a CLAIM entry being sent whose withdrawal is due as soon as it waits again (R83) -/
  withdraw : Bool := false
  deriving DecidableEq, Repr

/-- The line as the station takes it. -/
inductive LinePhase
  /-- after a reset, an abandoned frame or a bit error: the recessive bit times in a row still to be read before the line is
  idle (R143, R156) -/
  | busy (left : Nat)
  /-- a frame has ended; the bit times still to pass before the line is idle (R143) -/
  | ended (left : Nat)
  | idle
  /-- an own attempt is on the line; the bit time at which its end field ends, and the bits read since its start bit -/
  | sending (until_ : Nat) (read : List Bool)
  /-- a frame of another station is being received; the bits read so far, from its start bit (R145, R150) -/
  | receiving (read : List Bool)
  /-- a bit error: the dominant bits that the station still drives (R151) -/
  | breaking (left : Nat)
  deriving DecidableEq, Repr

/-- The Line Interface. Defaults: R156. -/
structure Line where
  queue : List TxEntry := []
  errors : Nat := 0
  lost : Nat := 0
  /-- the enqueue order that the next entry takes -/
  nextOrder : Nat := 0
  phase : LinePhase := .busy 10
  deriving DecidableEq, Repr

/-- The lamp time base (R167): its position in eighths of a slow blink, and the time of its next change. -/
structure LampBase where
  position : Nat := 0
  nextAt : Nat := 31250
  deriving DecidableEq, Repr

/-! ## The machine -/

/-- The state of the SB6. -/
structure State where
  /-- bit times of the Cart Line since the model's start -/
  clock : Nat := 0
  /-- the moment the 1 ms time base began: the end of reset (R11, R164) -/
  baseAt : Nat := 0
  mode : Mode := .running
  address : Station := 7
  cfg : Record := {}
  /-- the defaulted flag -/
  defaulted : Bool := true
  monitor : Vector MonitorSlot 6 := #v[{}, {}, {}, {}, {}, {}]
  charge : Vector ChargeSlot 6 := #v[{}, {}, {}, {}, {}, {}]
  share : Share := {}
  latch : Vector LatchSlot 6 := #v[{}, {}, {}, {}, {}, {}]
  claims : Claims := {}
  custody : Custody := {}
  plans : Plans := {}
  lanes : Lanes := {}
  line : Line := {}
  lamps : LampBase := {}
  /-- input: the level that the other stations put on the Cart Line in each coming bit time, true where none of them drives
  it; recessive once the list has ended (notes/assumptions/22.md) -/
  wire : List Bool := []
  /-- MODEL's own: the counter that the free values are applied to -/
  free : Nat := 0
  /-- the commands that wait, first in, first out -/
  pending : List Instr := []
  deriving DecidableEq, Repr

/-- The machine right after reset (R164) with nothing connected to the loader's ports: open straps read 7 (R160), a memory
that does not acknowledge gives the default record and the defaulted flag (R161), and the CONFIG_DEFAULTED notice waits in
the transmit queue (R163). Every other field has the value its chapter gives for power-on and pin reset. -/
def State.reset : State :=
  { line := { queue := [{ frame := .notice .configDefaulted none 0, order := 0 }], nextOrder := 1 } }

end Sys2Proof.Machine
end

