-- ==== Sys2Proof/Machine/Constants.lean ====
section
/-! DEFINITION. The fixed times and amounts of the data book. -/

namespace Sys2Proof.Machine

/-- Bit times of 4 µs in one step of the 1 ms time base (R143). -/
def bitsPerMs : Nat := 250

/-- The moment, in bit times, that lies a number of ms after another (notes/assumptions/32.md). -/
def momentAfter (now ms : Nat) : Nat := now + ms * bitsPerMs
/-- DETECT time (R21). -/
def detectMs : Nat := 1000
/-- DETECT demand in qW and current in mA (R21). -/
def detectFloor : Nat := 10
def detectCurrent : Nat := 500
/-- Taper dwell (R25), topped dwell and TAPER to BULK dwell (R26), TOPPED to BULK dwell (R27). -/
def taperDwellMs : Nat := 60000
def toppedDwellMs : Nat := 300000
def taperToBulkMs : Nat := 60000
def toppedToBulkMs : Nat := 600000
/-- Over-current check (R34) and retry wait (R36). -/
def overCurrentMs : Nat := 50
def retryWaitMs : Nat := 10000
def maxRetries : Nat := 3
/-- Integration period (R14) and one mAh in mA·s. -/
def integrationMs : Nat := 1000
def mAhInMas : Nat := 3600
def maxCharge : Nat := 65535
/-- Spacing of an early NEED (R49). -/
def needSpacingMs : Nat := 50
/-- Claim wait (R72), and the life of a claim beyond its pulse (R79). -/
def claimWaitMs : Nat := 30000
def claimTailMs : Nat := 100
/-- Limits of claims (R78, R80). -/
def ownClaimLimit : Nat := 2
def liveClaimLimit : Nat := 16
/-- Places of the tables and queues (R55, R108, R148). -/
def ceilingPlaces : Nat := 4
def planPlaces : Nat := 8
def generalPlaces : Nat := 10
def failedLimit : Nat := 8
def maxCount : Nat := 65535
/-- Lane wake time (R133), fault clear time (R140), faults before retirement (R139) and the sideband filter (R131). -/
def laneWakeMs : Nat := 50
def faultClearMs : Nat := 2000
def faultLimit : Nat := 3
def sidebandGlitch : Nat := 4
/-- Configuration read limit (R161). -/
def configReadMs : Nat := 50
/-- Recessive bit times that make the line idle (R143, R156). -/
def idleAfterFrame : Nat := 2
def idleAfterBreak : Nat := 10
/-- Dominant bits that a sender drives at a bit error (R151). -/
def breakBits : Nat := 6
/-- Bits of the end field (R144). -/
def endFieldBits : Nat := 8
/-- Half period of a fast blink (R167). -/
def blinkMs : Nat := 125
/-- Shortest pin reset in µs (R159). -/
def pinResetMicros : Nat := 10

/-- The six local slots in ascending order. -/
def allSlots : List SlotNo := [0, 1, 2, 3, 4, 5]
/-- The four lanes in ascending order. -/
def allLanes : List LaneNo := [0, 1, 2, 3]
/-- The eight station addresses in ascending order. -/
def allStations : List Station := [0, 1, 2, 3, 4, 5, 6, 7]

/-- The vector that holds f k for each local slot k. -/
def sixOf {α : Type} (f : SlotNo → α) : Vector α 6 := #v[f 0, f 1, f 2, f 3, f 4, f 5]

/-- The vector with x put in place i. -/
def setAt {α : Type} {n : Nat} (v : Vector α n) (i : Fin n) (x : α) : Vector α n := v.set i.val x i.isLt

/-- The sum over the six slots. -/
def sumSix (f : SlotNo → Nat) : Nat := f 0 + f 1 + f 2 + f 3 + f 4 + f 5

end Sys2Proof.Machine
end

