-- ==== Sys2Proof/Machine/Operands.lean ====
section
/-! DEFINITION. The operand forms: byte order, the code tables, and the payload layouts of the frames the SB6 takes (R158),
with the check of a frame's form (R146). -/

namespace Sys2Proof.Machine

/-! ## Byte order: multi-byte values are sent most significant byte first (R158) -/

/-- Byte k of a payload, 0 beyond its end. -/
def byteAt (p : List Byte) (k : Nat) : Nat := (p.getD k 0).toNat
/-- The 16-bit value at bytes k, k+1. -/
def wordAt (p : List Byte) (k : Nat) : Nat := byteAt p k * 256 + byteAt p (k + 1)
/-- The 32-bit value at bytes k..k+3. -/
def longAt (p : List Byte) (k : Nat) : Nat := wordAt p k * 65536 + wordAt p (k + 2)
/-- One byte that holds v. -/
def byteOf (v : Nat) : Byte := BitVec.ofNat 8 v
/-- Two bytes that hold v. -/
def wordOf (v : Nat) : List Byte := [byteOf (v / 256), byteOf v]
/-- Four bytes that hold v. -/
def longOf (v : Nat) : List Byte := wordOf (v / 65536) ++ wordOf v
/-- A yes/no byte (R158). -/
def yesNo (b : Bool) : Nat := if b then 1 else 0

/-! ## Code tables (R158) -/

def shareCode : ShareState → Nat
  | .listen => 0
  | .joined => 1
  | .isolated => 2
  | .clashed => 3

def shareOf : Nat → Option ShareState
  | 0 => some .listen
  | 1 => some .joined
  | 2 => some .isolated
  | 3 => some .clashed
  | _ => none

def opCode : LatchOp → Nat
  | .withdraw => 0
  | .throw_ => 1

def answerCode : Answer → Nat
  | .granted => 1
  | .applied => 2
  | .source => 3
  | .badPermit => 4
  | .level => 5
  | .unfitted => 6
  | .notLocked => 7
  | .held => 8
  | .empty => 9
  | .occupied => 10
  | .busy => 11
  | .staleBuild => 12
  | .notReady => 13
  | .accepted => 20
  | .duplicate => 21
  | .tableFull => 22
  | .badSlots => 23
  | .badPlan => 24
  | .done => 25
  | .noTablet => 26
  | .outOfSequence => 27
  | .noLanes => 28
  | .noEnum => 29
  | .awaitTimeout => 30
  | .extracted => 31
  | .forced => 32
  | .cancelled => 33
  | .laneFault => 34
  | .restarted => 35

def noticeCode : NoticeKind → Nat
  | .inserted => 1
  | .extracted => 2
  | .tamper => 3
  | .chargeFault => 4
  | .ready => 5
  | .latchJammed => 6
  | .latchTimeout => 7
  | .laneFault => 8
  | .laneRetired => 9
  | .floorShort => 10
  | .shareState => 11
  | .configDefaulted => 12

def cableCode : CableClass → Nat
  | .absent => 0
  | .classA => 1
  | .classB => 2
  | .classC => 3
  | .invalid => 4

def presenceCode : Presence → Nat
  | .empty => 0
  | .settling _ _ => 1
  | .present _ => 2

def phaseCode : Phase → Nat
  | .off => 0
  | .detect _ => 1
  | .charging .bulk => 2
  | .charging .taper => 3
  | .charging .topped => 4
  | .deferred _ => 5
  | .restart _ _ _ => 6
  | .faulted _ _ => 7

def latchCode : LatchState → Nat
  | .unlearned => 0
  | .locked => 1
  | .withdrawWait _ => 2
  | .withdrawing _ => 3
  | .opened _ _ => 4
  | .throwWait => 5
  | .throwing _ => 6
  | .jammed => 7

def reasonCode : HoldReason → Nat
  | .admin => 0
  | .tamper => 1
  | .jammed => 2

/-- Hold byte: 0 none; otherwise bits 1..0 level, bits 5..4 reason. -/
def holdCode : Option Hold → Nat
  | none => 0
  | some h => h.level % 4 + 16 * reasonCode h.reason

/-- Lane-of-slot byte: 255 none; otherwise bits 1..0 lane, bit 4 pinned. -/
def slotLaneCode : Option (LaneNo × Bool) → Nat
  | none => 255
  | some (l, pinned) => l.val + 16 * yesNo pinned

/-- Lane state byte; an unconfigured lane is ABSENT. -/
def laneCode (configured : Bool) : LaneState → Nat
  | .dormant => if configured then 1 else 0
  | .waking _ => if configured then 2 else 0
  | .ready _ => if configured then 3 else 0
  | .attached _ _ => if configured then 4 else 0
  | .scrubbing _ => if configured then 5 else 0
  | .faulted _ => if configured then 6 else 0
  | .retired => if configured then 7 else 0

def faultDetail : FaultKind → Nat
  | .overCurrent => 1
  | .overVoltage => 2
  | .invalidCable => 0

def stepKindOf : Nat → Option StepKind
  | 0 => some .nothing
  | 1 => some .attach
  | 2 => some .floor
  | 3 => some .await
  | 4 => some .settle
  | 5 => some .detach
  | 6 => some .mark
  | _ => none

def planPhaseOf : Nat → Option PlanPhase
  | 0 => some .single
  | 1 => some .initial
  | 2 => some .continued
  | 3 => some .final
  | _ => none

/-! ## The form of a received frame (R146) -/

/-- The number of step bytes a PLAN payload announces: three for each step. -/
def planLength (p : List Byte) : Nat := 12 + 3 * byteAt p 11

/-- Whether a good frame of this class is malformed. Classes 4 and 7 are not consumed and are not checked. -/
def malformed (cls : Nat) (p : List Byte) : Bool :=
  match cls with
  | 0 => p.length != 4
  | 1 => p.length != 4
  | 2 =>
    if p.length = 0 then true
    else if byteAt p 0 = 0 then p.length != 8 || (shareOf (byteAt p 1)).isNone
    else if byteAt p 0 = 1 then p.length != 1
    else true
  | 3 => p.length != 6
  | 5 =>
    if p.length = 0 then true
    else if byteAt p 0 = 0 then p.length < 12 || p.length != planLength p
    else if byteAt p 0 = 1 then p.length != 5
    else if byteAt p 0 = 2 then p.length != 5
    else if byteAt p 0 = 3 then p.length != 5
    else if byteAt p 0 = 4 then p.length != 7
    else true
  | 6 => p.length != 3
  | _ => false

/-! ## Fields of the frames -/

/-- The operation, slot, amount and duration of a CLAIM payload, entered as carried. -/
def claimOf (owner : Source) (p : List Byte) (position : Nat) : ClaimEntry :=
  { owner := owner
    tag := byteAt p 0
    op := if byteAt p 1 < 128 then .withdraw else .throw_
    slot := byteAt p 1 % 8
    amount := byteAt p 2
    duration := byteAt p 3
    position := position
    admitted := false }

/-- A received NEED sum above 1023 is taken as 1023. -/
def needSum (p : List Byte) (k : Nat) : Nat := min (wordAt p k) 1023

def needSums (p : List Byte) : Demand :=
  { floor := needSum p 2, urgent := needSum p 4, normal := needSum p 6 }

/-- The six kinds of permit. -/
inductive PermitKind
  | openSlot
  | return_
  | due
  | hold
  | lift
  | restart
  deriving DecidableEq, Repr

def permitKindOf : Nat → Option PermitKind
  | 1 => some .openSlot
  | 2 => some .return_
  | 3 => some .due
  | 4 => some .hold
  | 5 => some .lift
  | 6 => some .restart
  | _ => none

/-- The fields of a PERMIT, with the scope limit and the argument clamped (R88). -/
structure Permit where
  source : Source
  number : Byte
  kind : Option PermitKind
  level : Nat
  force : Bool
  base : Nat
  limit : Nat
  minutes : Nat
  deriving DecidableEq, Repr

def permitOf (source : Source) (p : List Byte) : Permit :=
  { source := source
    number := p.getD 0 0
    kind := permitKindOf (byteAt p 1)
    level := byteAt p 2 % 4
    force := 128 ≤ byteAt p 2
    base := byteAt p 3
    limit := min (byteAt p 4) 47
    minutes := max (byteAt p 5) 1 }

/-- The local slots of a slot mask byte, ascending; bits 7..6 are reserved. -/
def maskSlots (mask : Nat) : List SlotNo := allSlots.filter (fun k => mask.testBit k.val)

/-- A plan id or reference number. -/
def planIdAt (p : List Byte) (k : Nat) : PlanId := BitVec.ofNat 16 (wordAt p k)

/-- A build tag. -/
def tagAt (p : List Byte) (k : Nat) : BuildTag := BitVec.ofNat 32 (longAt p k)

/-- The steps of a PLAN payload as carried: n steps of a kind byte and a two-byte argument, from byte k. -/
def rawSteps (p : List Byte) : Nat → Nat → List (Nat × Nat)
  | _, 0 => []
  | k, n + 1 => (byteAt p k, wordAt p (k + 1)) :: rawSteps p (k + 3) n

/-- The steps when every step kind is known. -/
def knownSteps : List (Nat × Nat) → Option (List PlanStep)
  | [] => some []
  | (kind, arg) :: rest =>
    match stepKindOf kind, knownSteps rest with
    | some k, some more => some ({ kind := k, arg := arg } :: more)
    | _, _ => none

/-- A local slot byte 0..5. -/
def slotOfByte (b : Nat) : Option SlotNo := if h : b < 6 then some ⟨b, h⟩ else none

/-! ## Payloads of the frames the SB6 sends (R158) -/

/-- The slot byte of a notice: 255 means no slot. -/
def slotByte : Option SlotNo → Nat
  | none => 255
  | some k => k.val

def TxFrame.payload : TxFrame → List Byte
  | .claim tag op slot amount duration =>
      [byteOf tag, byteOf (128 * opCode op + slot.val), byteOf amount, byteOf duration]
  | .need st sums => byteOf 0 :: byteOf (shareCode st) :: (wordOf sums.floor ++ wordOf sums.urgent ++ wordOf sums.normal)
  | .leave => [byteOf 1]
  | .verdict number source first outcomes =>
      byteOf 0 :: number :: byteOf source.val :: byteOf first :: byteOf outcomes.length
        :: outcomes.map (fun o => byteOf (answerCode o))
  | .result addressee id slot outcome step =>
      byteOf 1 :: byteOf addressee.val :: (wordOf id.toNat ++ [slot, byteOf (answerCode outcome), byteOf step])
  | .notice kind slot detail =>
      byteOf 2 :: byteOf (noticeCode kind) :: byteOf (slotByte slot) :: wordOf detail
  | .status payload => payload

/-- The class of a frame the SB6 sends. -/
def TxFrame.cls : TxFrame → Nat
  | .claim _ _ _ _ _ => 0
  | .need _ _ => 2
  | .leave => 2
  | .verdict _ _ _ _ => 4
  | .result _ _ _ _ _ => 4
  | .notice _ _ _ => 4
  | .status _ => 7

def TxFrame.isClaim : TxFrame → Bool
  | .claim _ _ _ _ _ => true
  | _ => false

def TxFrame.isNeed : TxFrame → Bool
  | .need _ _ => true
  | _ => false

end Sys2Proof.Machine
end

