-- ==== Sys2Proof/Machine/Bits.lean ====
section
/-! DEFINITION. A frame on the Cart Line, bit by bit: fields, CRC, fill bits and end field (R143, R144), and the reading of
one from the bits on the line (R145). A dominant bit is 0 (false), a recessive bit 1 (true). -/

namespace Sys2Proof.Machine

/-- The n bits of v, most significant first. -/
def bitsOf : Nat → Nat → List Bool
  | 0, _ => []
  | n + 1, v => v.testBit n :: bitsOf n v

/-- The value of a list of bits, most significant first. -/
def valueOf (bits : List Bool) : Nat := bits.foldl (fun v b => 2 * v + yesNo b) 0

/-- One step of the CRC register with generator x^16 + x^12 + x^5 + 1. -/
def crcStep (r : BitVec 16) (b : Bool) : BitVec 16 :=
  if r.msb != b then (r <<< 1) ^^^ 0x1021#16 else r <<< 1

/-- The CRC of a list of bits, the register preset to all ones (R144). -/
def crcOf (bits : List Bool) : Nat := (bits.foldl crcStep 0xFFFF#16).toNat

/-- The bits that the CRC covers: arbitration word, length and payload. -/
def coveredBits (cls source : Nat) (p : List Byte) : List Bool :=
  bitsOf 3 cls ++ bitsOf 4 source ++ bitsOf 6 p.length ++ p.flatMap (fun b => bitsOf 8 b.toNat)

/-- The bits of a frame from the start bit to the last CRC bit, without fill bits. -/
def frameBits (cls source : Nat) (p : List Byte) : List Bool :=
  false :: (coveredBits cls source p ++ bitsOf 16 (crcOf (coveredBits cls source p)))

/-- The bits with a fill bit of the other level after every run of five equal bits, earlier fill bits counted; last and run
are the level and length of the run before them (R143). -/
def fillFrom : Bool → Nat → List Bool → List Bool
  | _, _, [] => []
  | last, run, b :: bs =>
    if b = last then
      if run = 4 then b :: (!b) :: fillFrom (!b) 1 bs else b :: fillFrom last (run + 1) bs
    else b :: fillFrom b 1 bs

/-- The bits with their fill bits, the first of them beginning the first run. -/
def fill : List Bool → List Bool
  | [] => []
  | b :: bs => b :: fillFrom b 1 bs

/-- A whole frame as it stands on the line. -/
def lineBits (cls source : Nat) (p : List Byte) : List Bool :=
  fill (frameBits cls source p) ++ List.replicate endFieldBits true

/-- What ends the reading of a frame before its last bit. -/
inductive Stop
  /-- the line has given no more bits yet -/
  | short
  /-- six equal bits in a row have been read -/
  | six
  deriving DecidableEq, Repr

/-- Read n bits off the line, removing fill bits; last and run describe the run before. Answers the bits, the run that they
end with and the rest of the line. -/
def readBits : List Bool → Nat → Bool → Nat → Except Stop (List Bool × Bool × Nat × List Bool)
  | raw, 0, last, run => .ok ([], last, run, raw)
  | [], _ + 1, _, _ => .error .short
  | b :: raw, n + 1, last, run =>
    if run = 5 then
      if b = last then .error .six else readBits raw (n + 1) b 1
    else
      match readBits raw n b (if b = last then run + 1 else 1) with
      | .error e => .error e
      | .ok (bits, l, r, rest) => .ok (b :: bits, l, r, rest)

/-- What the receiver makes of the bits it has read (R145). -/
inductive Reception
  /-- the frame goes on -/
  | unfinished
  | abandoned
  | badCrc
  | good (cls source : Nat) (payload : List Byte)
  deriving DecidableEq, Repr

/-- A reading that has stopped: for now, or for good. -/
def Stop.reception : Stop → Reception
  | .short => .unfinished
  | .six => .abandoned

/-- The bytes of a list of bits, eight bits each. -/
def bytesOfBits : Nat → List Bool → List Byte
  | 0, _ => []
  | n + 1, bits => byteOf (valueOf (bits.take 8)) :: bytesOfBits n (bits.drop 8)

/-- The end field has passed, and the fill bit before it where the last CRC bit ended a run of five
(notes/assumptions/13.md). -/
def endPassed (run : Nat) (rest : List Bool) : Bool :=
  decide ((if run = 5 then endFieldBits + 1 else endFieldBits) ≤ rest.length)

/-- Read one frame from the bits on the line, the first of them its start bit. It completes at the last bit of its end field
(R144). -/
def receive : List Bool → Reception
  | [] => .unfinished
  | start :: raw =>
    match readBits raw 13 start 1 with
    | .error e => e.reception
    | .ok (head, last, run, rest) =>
      let len := valueOf (head.drop 7)
      if 40 < len then .abandoned
      else
        match readBits rest (8 * len + 16) last run with
        | .error e => e.reception
        | .ok (body, _, run, rest) =>
          if endPassed run rest = false then .unfinished
          else if valueOf (body.drop (8 * len)) = crcOf (head ++ body.take (8 * len)) then
            .good (valueOf (head.take 3)) (valueOf ((head.drop 3).take 4)) (bytesOfBits len body)
          else .badCrc

/-- How many bits stand on the line up to the n-th bit of a frame and with it, the fill bits before it counted. -/
def bitsThrough (n : Nat) (bits : List Bool) : Nat := (fill (bits.take (n - 1))).length + 1

/-- How the bits that a sender reads go with those it sends. -/
inductive Comparison
  | agrees
  /-- a mismatch in the arbitration word (R150) -/
  | lost
  /-- a mismatch after it, up to the last CRC bit (R151) -/
  | bitError
  deriving DecidableEq, Repr

/-- The comparison at the bit read last, from the arbitration word, which is bits 2 to 8 of the frame, to the last CRC bit; the
end field is not compared (R144, R150, R151). DEDUCED (notes/assumptions/35.md): a mismatch at a fill bit that stands between the
last bit of the arbitration word and the first length bit, as in a NEED from address 0, comes after the word and is a bit error,
and one at a fill bit between two bits of the word is a loss. -/
def compareLast (cls source : Nat) (p : List Byte) (read : List Bool) : Comparison :=
  let n := read.length
  let bits := frameBits cls source p
  if n = 0 ∨ bitsThrough bits.length bits < n ∨ read[n - 1]? = (lineBits cls source p)[n - 1]? then .agrees
  else if n ≤ bitsThrough 8 bits then .lost
  else .bitError

/-- How many bit times an attempt of the frame takes from its start bit to the end of its end field. -/
def bitLength (station : Station) (f : TxFrame) : Nat := (lineBits f.cls station.val f.payload).length

end Sys2Proof.Machine
end

