-- ==== Sys2Proof/Machine/Ops.lean ====
section
/-! DEFINITION. The operations every block uses: the clock and timers, the transmit queue, notices, and the reading of one
slot's or lane's record. -/

namespace Sys2Proof.Machine

/-! ## Time -/

/-- A timer expires at its moment: the clock stands at least there (notes/assumptions/4.md). -/
def State.reach (t : Nat) (s : State) : State := { s with clock := max s.clock t }

/-- A command that acts on a running part; while the part is held in reset or loads its record no block runs (R159). -/
def whileRunning (s : State) (f : State → State) : Host.Outcome State Fault Refusal :=
  .next (if s.mode = .running then f s else s)

/-! ## Records of one slot or lane -/

def State.setMonitor (i : SlotNo) (m : MonitorSlot) (s : State) : State := { s with monitor := setAt s.monitor i m }
def State.setCharge (i : SlotNo) (c : ChargeSlot) (s : State) : State := { s with charge := setAt s.charge i c }
def State.setLatch (i : SlotNo) (l : LatchSlot) (s : State) : State := { s with latch := setAt s.latch i l }
def State.setCustody (i : SlotNo) (c : CustodySlot) (s : State) : State :=
  { s with custody := { s.custody with slots := setAt s.custody.slots i c } }
def State.setPlan (i : SlotNo) (p : PlanSlot) (s : State) : State :=
  { s with plans := { s.plans with slots := setAt s.plans.slots i p } }
def State.setLane (l : LaneNo) (x : Lane) (s : State) : State :=
  { s with lanes := { s.lanes with table := setAt s.lanes.table l x } }

def State.fitted (s : State) (i : SlotNo) : Bool := (s.monitor.get i).fitted

/-- Presence is PRESENT; SETTLING does not count as PRESENT (R6). -/
def Presence.isPresent : Presence → Bool
  | .present _ => true
  | _ => false

def Presence.isEmpty : Presence → Bool
  | .empty => true
  | _ => false

def State.isPresent (s : State) (i : SlotNo) : Bool := (s.monitor.get i).presence.isPresent

/-- The lane attached to a slot, with its pinned value: the slot record's lane (chapter 7). -/
def State.laneOf (s : State) (i : SlotNo) : Option (LaneNo × Bool) :=
  allLanes.findSome? (fun l =>
    match (s.lanes.table.get l).state with
    | .attached k pinned => if k = i then some (l, pinned) else none
    | _ => none)

/-- Lanes 0..L − 1 are configured (R130). -/
def State.configured (s : State) (l : LaneNo) : Bool := l.val < s.cfg.laneCount

/-- The crosspoint point of a slot's row and a lane's column is closed exactly while the lane is ATTACHED to it (R130). -/
def State.crosspoint (s : State) (i : SlotNo) (l : LaneNo) : Bool :=
  match (s.lanes.table.get l).state with
  | .attached k _ => k = i
  | _ => false

/-- The hub lane power: off in DORMANT and RETIRED and for an unconfigured lane (chapter 7). -/
def State.lanePower (s : State) (l : LaneNo) : Bool :=
  s.configured l &&
    match (s.lanes.table.get l).state with
    | .dormant => false
    | .retired => false
    | _ => true

/-- What a bolt driver drives now (R69): toward withdrawn, toward thrown, or idle. -/
def State.boltDrive (s : State) (i : SlotNo) : Option LatchOp :=
  match (s.latch.get i).state with
  | .withdrawing _ => some .withdraw
  | .throwing _ => some .throw_
  | _ => none

/-! ## Counts -/

/-- The line error count and the lost-frame count stay at 65535 once there (R155). -/
def bump (n : Nat) : Nat := min (n + 1) maxCount

def Line.countError (l : Line) : Line := { l with errors := bump l.errors }
def Line.countLost (l : Line) : Line := { l with lost := bump l.lost }

/-! ## The transmit queue (R148, R149) -/

/-- The general places in use: every entry but the CLAIM entries. -/
def Line.generalUsed (l : Line) : Nat := (l.queue.filter (fun e => !e.frame.isClaim)).length

/-- The entry put after every entry of its own class or a lower one, which keeps class order and enqueue order. -/
def insertEntry (e : TxEntry) : List TxEntry → List TxEntry
  | [] => [e]
  | x :: xs => if x.frame.cls ≤ e.frame.cls then x :: insertEntry e xs else e :: x :: xs

/-- Enter a frame in the queue. -/
def Line.enter (f : TxFrame) (l : Line) : Line :=
  { l with queue := insertEntry { frame := f, order := l.nextOrder } l.queue, nextOrder := l.nextOrder + 1 }

/-- Hand a frame to the Line Interface: a frame other than CLAIM that finds the ten general places in use is dropped and
counted; a CLAIM always finds a place (R148, notes/assumptions/12.md). -/
def Line.hand (f : TxFrame) (l : Line) : Line :=
  if !f.isClaim && generalPlaces ≤ l.generalUsed then l.countLost else l.enter f

/-- A NEED of this station waits in the queue. -/
def Line.needWaits (l : Line) : Bool := l.queue.any (fun e => e.frame.isNeed && !e.sending)

/-- The first waiting NEED takes the given content in place. -/
def refreshNeed (f : TxFrame) : List TxEntry → List TxEntry
  | [] => []
  | e :: es => if e.frame.isNeed && !e.sending then { e with frame := f } :: es else e :: refreshNeed f es

/-- Hand a NEED: merged into a waiting NEED where there is one (R149). -/
def Line.handNeed (f : TxFrame) (l : Line) : Line :=
  if l.needWaits then { l with queue := refreshNeed f l.queue } else l.hand f

def State.hand (f : TxFrame) (s : State) : State := { s with line := s.line.hand f }

/-- Raise a notice: handed to the Line Interface where the notice mask reports its kind (R169). -/
def State.notice (kind : NoticeKind) (slot : Option SlotNo) (detail : Nat) (s : State) : State :=
  if s.cfg.noticeMask.getLsbD (noticeCode kind - 1) then s.hand (.notice kind slot detail) else s

/-- The end of a frame on the line: idle after two more bit times (R143). -/
def Line.frameEnds (l : Line) : Line := { l with phase := .ended idleAfterFrame }

/-- The recessive bits in a row with which the bits read so far end. -/
def trailingRecessive (read : List Bool) : Nat := (read.reverse.takeWhile (fun b => b)).length

/-- The recessive bit times in a row that the station has read up to now in a frame that it receives. Where FRAME_ABANDONED comes
as a command in place of the bits, in another phase, none are known (notes/assumptions/22.md). -/
def LinePhase.recessiveRun : LinePhase → Nat
  | .receiving read => trailingRecessive read
  | .busy _ => 0
  | .ended _ => 0
  | .idle => 0
  | .sending _ _ => 0
  | .breaking _ => 0

/-- A frame broken off: the line is idle once it has been recessive for 10 bit times in a row, those that the station has just
read counted (R143). -/
def Line.frameBreaks (l : Line) : Line := { l with phase := .busy (idleAfterBreak - l.phase.recessiveRun) }

/-- The station can take a frame of another station: it receives one, or the line has been idle since the last one, so that
the frame has begun on an idle line. While it waits for 10 recessive bits it takes no frame, and while its own attempt is on the
line no other frame completes (R145, R156; notes/assumptions/22.md). -/
def LinePhase.receives : LinePhase → Bool
  | .ended _ => true
  | .idle => true
  | .receiving _ => true
  | .busy _ => false
  | .sending _ _ => false
  | .breaking _ => false

/-- Keep applying f to the slots of a list, in order. -/
def forSlots (ks : List SlotNo) (f : SlotNo → State → State) (s : State) : State :=
  ks.foldl (fun t k => f k t) s

end Sys2Proof.Machine
end

