-- ==== Sys2Proof/Machine/Power.lean ====
section
/-! DEFINITION. Charging power: a slot's limits, demand and set-point (chapter 2), and the Share Unit's computation, ramp and
distribution (chapter 3). -/

namespace Sys2Proof.Machine

/-! ## Limits (R18) -/

def Volts.value : Volts → Nat
  | .five => 5
  | .nine => 9

/-- The voltage of a cable class; INVALID and NONE have none. -/
def classVolts : CableClass → Option Volts
  | .classA => some .five
  | .classB => some .five
  | .classC => some .nine
  | .absent => none
  | .invalid => none

/-- Current ceiling in mA. R18 has no row for NONE and INVALID on the CLASS path; such a slot never charges, and the 0 here
is never asked for (notes/assumptions/19.md). -/
def currentCeiling (cfg : Record) : Path → CableClass → Nat
  | .lane, _ => cfg.laneCeiling
  | .cable, .classA => 2000
  | .cable, .classB => 3000
  | .cable, .classC => 2000
  | .cable, .absent => 0
  | .cable, .invalid => 0

/-- Maximum power in qW. -/
def maxPower (cfg : Record) : Path → CableClass → Nat
  | .lane, _ => 5 * cfg.laneCeiling / 250
  | .cable, .classA => 40
  | .cable, .classB => 60
  | .cable, .classC => 72
  | .cable, .absent => 0
  | .cable, .invalid => 0

/-- Minimum usable floor in qW. -/
def minFloor : Path → CableClass → Nat
  | .cable, .classC => 4
  | _, _ => 2

/-- Maintenance floor: working voltage × maintenance set-point ÷ 250, rounded up. -/
def maintenanceFloor (cfg : Record) (v : Volts) : Nat := (v.value * cfg.maintenance + 249) / 250

/-- Output voltage: 0 while the output is off, the working voltage while it is on. -/
def ChargeSlot.outputVolts (c : ChargeSlot) : Nat := if c.outputOn then c.working.value else 0

/-- Measured power in qW: nominal output voltage × measured current ÷ 250 (R13). -/
def measuredPower (m : MonitorSlot) (c : ChargeSlot) : Nat := c.outputVolts * m.amps / 250

/-! ## Set-point conversion (R29, R30) -/

/-- The set-point of an allocation P: 25 × (10 × P ÷ V), limited to the ceiling taken down to a multiple of 25 mA. -/
def convert (cfg : Record) (cable : CableClass) (c : ChargeSlot) (p : Nat) : Nat :=
  min (25 * (10 * p / c.working.value)) (currentCeiling cfg c.path cable / 25 * 25)

/-- The phase minimum: the maintenance set-point in TOPPED, 100 mA in BULK and TAPER (R30). -/
def phaseMinimum (cfg : Record) : ChargePhase → Nat
  | .topped => cfg.maintenance
  | _ => 100

/-! ## Moves of one slot's charge record -/

/-- The output goes off. The measured power of that moment is held (R30, R32). -/
def ChargeSlot.turnOff (m : MonitorSlot) (c : ChargeSlot) : ChargeSlot :=
  { c with outputOn := false, setPoint := 0, heldPower := if c.outputOn then measuredPower m c else c.heldPower }

/-- Every dwell is cancelled (R23). -/
def ChargeSlot.noDwells (c : ChargeSlot) : ChargeSlot := { c with downSince := none, upSince := none }

/-- Enter BULK, TAPER or TOPPED with the conversion of the allocation then held, or DEFERRED where it falls short (R29, R30).
TAPER and TOPPED set charge-ready (R37). -/
def ChargeSlot.enter (cfg : Record) (m : MonitorSlot) (p : Nat) (dest : ChargePhase) (c : ChargeSlot) : ChargeSlot :=
  if phaseMinimum cfg dest ≤ convert cfg m.cable c p then
    { c.noDwells with
      phase := .charging dest, outputOn := true, setPoint := convert cfg m.cable c p
      ready := c.ready || dest != .bulk }
  else
    { (c.turnOff m).noDwells with phase := .deferred dest }

/-- Enter DETECT (R21): 5 V, with the output on at once where the allocation held is at least 10 qW. -/
def ChargeSlot.enterDetect (now p : Nat) (c : ChargeSlot) : ChargeSlot :=
  let c := { c.noDwells with working := .five }
  if detectFloor ≤ p then
    { c with phase := .detect (some (momentAfter now detectMs)), outputOn := true, setPoint := detectCurrent }
  else { c with phase := .detect none, outputOn := false, setPoint := 0 }

/-- The Charge Controller's answer to a change of the slot allocation, phase by phase (phase summary of chapter 2). -/
def ChargeSlot.onAllocation (cfg : Record) (now : Nat) (m : MonitorSlot) (p : Nat) (c : ChargeSlot) : ChargeSlot :=
  match c.phase with
  | .off => c
  | .detect _ =>
    if detectFloor ≤ p then
      if c.outputOn then c
      else { c with phase := .detect (some (momentAfter now detectMs)), outputOn := true, setPoint := detectCurrent }
    else if c.outputOn then { c.turnOff m with phase := .detect none }
    else c
  | .charging ph =>
    if phaseMinimum cfg ph ≤ convert cfg m.cable c p then { c with setPoint := convert cfg m.cable c p }
    else { (c.turnOff m).noDwells with phase := .deferred ph }
  | .deferred back =>
    if phaseMinimum cfg back ≤ convert cfg m.cable c p then c.enter cfg m p back else c
  | .restart _ _ _ => c
  | .faulted _ _ => c

/-- Enter RESTART, or start its hold again, on a new path and working voltage (R32, R33). -/
def ChargeSlot.enterRestart (cfg : Record) (now : Nat) (m : MonitorSlot) (path : Path) (v : Volts) (back : ChargePhase)
    (held : Demand) (c : ChargeSlot) : ChargeSlot :=
  { (c.turnOff m).noDwells with
    phase := .restart back (momentAfter now cfg.restartHold) held, path := path, working := v }

/-- A lane attach or detach event taken by the Charge Controller (R20, R22, R32, R33). -/
def ChargeSlot.onLane (cfg : Record) (now : Nat) (m : MonitorSlot) (path : Path) (v : Volts) (c : ChargeSlot) : ChargeSlot :=
  match c.phase with
  | .off => { c with path := path }
  | .detect _ => c.enterRestart cfg now m path v .bulk c.demand
  | .charging ph => c.enterRestart cfg now m path v ph c.demand
  | .deferred back => c.enterRestart cfg now m path v back c.demand
  | .restart back _ held => c.enterRestart cfg now m path v back held
  | .faulted _ _ => { c with path := path, working := v }

/-- Enter FAULTED (R36). -/
def ChargeSlot.enterFaulted (now : Nat) (m : MonitorSlot) (kind : FaultKind) (c : ChargeSlot) : ChargeSlot :=
  { (c.turnOff m).noDwells with
    overSince := none
    phase := .faulted kind (if kind = .overCurrent ∧ c.retries < maxRetries then some (momentAfter now retryWaitMs) else none) }

/-! ## Demand of a slot (R24, R26 to R28) -/

/-- BULK is urgent below the urgent charge threshold, or while the due mark lies in the future (R24). -/
def isUrgent (cfg : Record) (now : Nat) (m : MonitorSlot) (due : Option Nat) : Bool :=
  m.q < cfg.urgentCharge || due.any (fun t => now < t)

/-- The demand in a charging phase (or a return phase) with the measured power that counts for TAPER. -/
def phaseDemand (cfg : Record) (now : Nat) (m : MonitorSlot) (due : Option Nat) (planFloor power : Nat) (c : ChargeSlot)
    (ph : ChargePhase) : Demand :=
  let most := maxPower cfg c.path m.cable
  let phaseFloor := match ph with
    | .topped => maintenanceFloor cfg c.working
    | _ => minFloor c.path m.cable
  let floor := min (max phaseFloor planFloor) most
  let urgent := match ph with
    | .bulk => if isUrgent cfg now m due then most - phaseFloor else 0
    | _ => 0
  let normal := match ph with
    | .bulk => if isUrgent cfg now m due then 0 else most - phaseFloor
    | .taper => min most ((5 * power + 3) / 4) - floor
    | .topped => 0
  let excess := floor + urgent + normal - most
  { floor := floor, urgent := urgent - (excess - normal), normal := normal - excess }

/-- The demand of a slot from its phase and plan floor (table of R28). -/
def slotDemand (cfg : Record) (now : Nat) (m : MonitorSlot) (due : Option Nat) (planFloor : Nat) (c : ChargeSlot) : Demand :=
  match c.phase with
  | .off => {}
  | .detect _ => { floor := detectFloor }
  | .charging ph => phaseDemand cfg now m due planFloor (measuredPower m c) c ph
  | .deferred back => phaseDemand cfg now m due planFloor c.heldPower c back
  | .restart _ _ held => held
  | .faulted _ _ => {}

def State.demandNow (s : State) (i : SlotNo) : Demand :=
  slotDemand s.cfg s.clock (s.monitor.get i) (s.custody.slots.get i).dueUntil (s.plans.slots.get i).floor (s.charge.get i)

/-- A slot's charge record changes; a READY notice follows where charge-ready becomes yes (R37). -/
def State.updateCharge (i : SlotNo) (f : ChargeSlot → ChargeSlot) (s : State) : State :=
  let c := s.charge.get i
  let c' := f c
  let t := s.setCharge i c'
  if c'.ready && !c.ready then t.notice .ready (some i) (s.monitor.get i).q else t

/-! ## The Share Unit's quantities (R40, R54, R57 to R61) -/

/-- Effective ceiling C_eff: the lowest of C_cfg and all records (R57). -/
def State.ceff (s : State) : Nat := s.share.ceilings.foldl (fun low r => min low r.ceiling) s.cfg.cartCeiling

/-- Isolated allowance I_iso (R40). -/
def State.isoAllowance (s : State) : Nat := (s.ceff - s.cfg.guard) / s.cfg.stations

/-- Aging time T_age (R40). -/
def State.agingMs (s : State) : Nat := 3 * s.cfg.reportPeriod

/-- Available budget A (R59). -/
def State.available (s : State) : Nat := s.ceff - s.cfg.guard - s.share.reserve

/-- How a peer entry counts in T_F, T_U and T_N (R54). -/
def Peer.counted (iso : Nat) (p : Peer) : Demand :=
  if p.live ∧ p.reported ≠ .clashed then p.demand else { floor := iso }

def Demand.plus (a b : Demand) : Demand :=
  { floor := a.floor + b.floor, urgent := a.urgent + b.urgent, normal := a.normal + b.normal }

def Demand.total (d : Demand) : Nat := d.floor + d.urgent + d.normal

/-- The totals T_F, T_U and T_N (R59, R60). -/
def State.totals (s : State) : Demand :=
  allStations.foldl (fun sum a =>
    match s.share.peers.get a with
    | none => sum
    | some p => sum.plus (p.counted s.isoAllowance)) s.share.own

/-- What a tier of which total is asked pays on an own demand, out of what is left. -/
def tierGrant (own total left : Nat) : Nat := if total ≤ left then own else own * left / total

def State.isFloorShort (s : State) : Bool := decide (s.available ≤ s.totals.floor)

/-- The uncapped target (R59, R60). -/
def State.uncappedTarget (s : State) : Nat :=
  let t := s.totals
  let a := s.available
  if a ≤ t.floor then s.share.own.floor * a / t.floor
  else
    let e1 := a - t.floor
    let e2 := e1 - t.urgent
    s.share.own.floor + tierGrant s.share.own.urgent t.urgent e1 + tierGrant s.share.own.normal t.normal e2

/-- The cap of the share state on the target (R61). -/
def State.cappedTarget (s : State) : Nat :=
  match s.share.state with
  | .listen => min s.uncappedTarget s.cfg.entryAllowance
  | .joined => s.uncappedTarget
  | .isolated => min s.uncappedTarget s.isoAllowance
  | .clashed => min s.uncappedTarget s.cfg.entryAllowance

/-- The ramp: a fall at once, a rise of at most K at a report timer expiry (R62). -/
def rampTo (atReport : Bool) (step target alloc : Nat) : Nat :=
  if target < alloc then target else if atReport then min target (alloc + step) else alloc

/-! ## Distribution over the slots (R63, R64) -/

/-- The allocation of slot k out of the station allocation, by tiers. -/
def slotShare (alloc : Nat) (d : SlotNo → Demand) (k : SlotNo) : Nat :=
  let sumF := sumSix (fun i => (d i).floor)
  let sumU := sumSix (fun i => (d i).urgent)
  let sumN := sumSix (fun i => (d i).normal)
  if alloc ≤ sumF then (d k).floor * alloc / sumF
  else
    let rest := alloc - sumF
    (d k).floor + tierGrant (d k).urgent sumU rest + tierGrant (d k).normal sumN (rest - sumU)

/-- Hand slot k its new allocation where it differs from the one last handed (R64). -/
def handAllocation (k : SlotNo) (p : Nat) (s : State) : State :=
  if s.share.slotAlloc.get k = p then s
  else
    ({ s with share := { s.share with slotAlloc := setAt s.share.slotAlloc k p } } : State).updateCharge k
      (ChargeSlot.onAllocation s.cfg s.clock (s.monitor.get k) p)

/-- Divide the station allocation over the slots and hand the changed shares. -/
def State.distribute (s : State) : State :=
  let demands := fun k => (s.charge.get k).demand
  forSlots allSlots (fun k t => handAllocation k (slotShare s.share.alloc demands k) t) s

/-- The FLOOR_SHORT flag and its notice (R59). -/
def State.judgeFloorShort (s : State) : State :=
  if s.isFloorShort then
    if s.share.floorShort then s
    else ({ s with share := { s.share with floorShort := true } } : State).notice .floorShort none s.available
  else { s with share := { s.share with floorShort := false } }

/-- One computation: floor-short flag, target, ramp and distribution (R58). -/
def State.computeOnce (atReport : Bool) (s : State) : State :=
  let s := s.judgeFloorShort
  let target := s.cappedTarget
  ({ s with share := { s.share with
      target := target, alloc := rampTo atReport s.cfg.rampStep target s.share.alloc } } : State).distribute

/-! ## NEED reporting and changes of demand (R47, R49, R58) -/

/-- Hand a NEED: the last sent sum and the last NEED time are set, and an early NEED is satisfied (R47, R49). -/
def State.handNeed (s : State) : State :=
  { s with
    line := s.line.handNeed (.need s.share.state s.share.own)
    share := { s.share with lastSum := s.share.own.total, lastNeed := some s.clock, earlyDue := false } }

/-- The own sums differ from the last sent sum by more than the report delta, in either direction (R49). -/
def State.needDiffers (s : State) : Bool :=
  decide (s.share.lastSum + s.cfg.reportDelta < s.share.own.total ∨ s.share.own.total + s.cfg.reportDelta < s.share.lastSum)

/-- 50 ms have passed since the last NEED time, or none has been handed (R49). -/
def State.needSpaced (s : State) : Bool :=
  match s.share.lastNeed with
  | none => true
  | some t => momentAfter t needSpacingMs ≤ s.clock

/-- The judgement of an early NEED at a change of the own sums (R49). -/
def State.judgeEarlyNeed (s : State) : State :=
  if s.needDiffers then
    if s.needSpaced then s.handNeed else { s with share := { s.share with earlyDue := true } }
  else s

/-- The own sums over the slots' demands last handed (R47). -/
def State.sums (s : State) : Demand :=
  { floor := sumSix (fun k => (s.charge.get k).demand.floor)
    urgent := sumSix (fun k => (s.charge.get k).demand.urgent)
    normal := sumSix (fun k => (s.charge.get k).demand.normal) }

/-- Every slot whose demand has changed hands it over. -/
def State.takeDemands (s : State) : State :=
  { s with charge := sixOf (fun k => { s.charge.get k with demand := s.demandNow k }) }

/-- Some slot's demand differs from the one it last handed. -/
def State.demandsMoved (s : State) : Bool :=
  allSlots.any (fun k => decide ((s.charge.get k).demand ≠ s.demandNow k))

/-- Take the changed demands into the sums: an early NEED is judged and a computation made where the sums change; where only
their split over the slots changes, a distribution (R49, R58, R63). The demands of several slots that one event changes are
taken together, with one comparison and one computation: the model's choice (notes/assumptions/31.md). -/
def State.demandRound (s : State) : State :=
  let t := s.takeDemands
  if t.sums = t.share.own then t.distribute
  else (({ t with share := { t.share with own := t.sums } } : State).judgeEarlyNeed).computeOnce false

/-- Demand and allocation act on each other until no slot's demand moves; see notes/assumptions/11.md for the bound. -/
def settle : Nat → State → State
  | 0, s => s
  | n + 1, s => if s.demandsMoved then settle n s.demandRound else s

/-- The bound on the rounds of one settling. -/
def settleRounds : Nat := 8

/-- Changes of demand take effect at once (R28). -/
def State.settled (s : State) : State := settle settleRounds s

/-- A computation, with the demand changes that follow from it. -/
def State.compute (atReport : Bool) (s : State) : State := (s.computeOnce atReport).settled

/-- A slot's charge record changes and its demand is recomputed at once. -/
def State.chargeEvent (i : SlotNo) (f : ChargeSlot → ChargeSlot) (s : State) : State := (s.updateCharge i f).settled

end Sys2Proof.Machine
end

