-- ==== Sys2Proof/Machine/Latch.lean ====
section
/-! DEFINITION. The Latch Driver and the Claim Unit (chapter 4), with the holds that their reports set (R101, R102). -/

namespace Sys2Proof.Machine

/-! ## Reports to the Custody Unit -/

/-- The cause of a TAMPER report, as the detail of its notice (R101, R158). -/
inductive TamperCause
  | insertion
  | extraction
  | moved
  deriving DecidableEq, Repr

def TamperCause.detail : TamperCause → Nat
  | .insertion => 0
  | .extraction => 1
  | .moved => 2

/-- The hold after a TAMPER report (R101). -/
def tamperHold : Option Hold → Option Hold
  | some { level := l, reason := .tamper } => some { level := l, reason := .tamper }
  | some { level := l, reason := .jammed } => some { level := l, reason := .jammed }
  | _ => some { level := 3, reason := .tamper }

def State.setHold (i : SlotNo) (h : Option Hold) (s : State) : State :=
  s.setCustody i { s.custody.slots.get i with hold := h }

/-- A TAMPER report; one with found yes is disregarded (R101). -/
def State.tamperReport (i : SlotNo) (cause : TamperCause) (found : Bool) (s : State) : State :=
  if found then s
  else (s.setHold i (tamperHold (s.custody.slots.get i).hold)).notice .tamper (some i) cause.detail

/-- A jam report (R102). -/
def State.jamReport (i : SlotNo) (s : State) : State := s.setHold i (some { level := 3, reason := .jammed })

/-! ## Claims on the line: admission in line order (R79, R80) -/

/-- Expiry of a claim: line position + duration × 10 ms + 100 ms, in bit times. -/
def ClaimEntry.expiry (e : ClaimEntry) : Nat := momentAfter e.position (e.duration * 10 + claimTailMs)

/-- The admitted entries whose expiry lies after a moment. -/
def liveClaims (at_ : Nat) (es : List ClaimEntry) : List ClaimEntry :=
  es.filter (fun e => e.admitted && at_ < e.expiry)

def sumAmounts (es : List ClaimEntry) : Nat := (es.map (·.amount)).sum

/-- The decision on a claim against the earlier entries (R80). -/
def admits (allowance : Nat) (es : List ClaimEntry) (e : ClaimEntry) : Bool :=
  let live := liveClaims e.position es
  decide ((live.filter (fun x => x.owner = e.owner)).length < ownClaimLimit)
    && decide (sumAmounts live + e.amount ≤ allowance)
    && decide (live.length < liveClaimLimit)

/-- The Claim Unit reports R, the sum over the admitted live entries, and a computation follows (R82). -/
def State.reportReserve (s : State) : State :=
  ({ s with share := { s.share with reserve := sumAmounts (liveClaims s.clock s.claims.entries) } } : State).compute false

/-- An admitted claim joins the claim list; one not admitted leaves it at once. -/
def State.enterClaim (e : ClaimEntry) (s : State) : State :=
  ({ s with claims := { s.claims with entries := s.claims.entries ++ [{ e with admitted := true }] } } : State).reportReserve

/-! ## The latch request queue (R77) -/

def claimRequest (i : SlotNo) (rs : List Request) : List Request :=
  rs.map (fun r => if r.slot = i then { r with claimed := true } else r)

def unclaimRequest (i : SlotNo) (rs : List Request) : List Request :=
  rs.map (fun r => if r.slot = i then { r with claimed := false } else r)

def dropRequest (i : SlotNo) (rs : List Request) : List Request := rs.filter (fun r => r.slot ≠ i)

/-- The slot's request becomes unclaimed and moves to the front. -/
def requestToFront (i : SlotNo) (rs : List Request) : List Request :=
  unclaimRequest i (rs.filter (fun r => r.slot = i)) ++ dropRequest i rs

def State.setRequests (rs : List Request) (s : State) : State := { s with claims := { s.claims with requests := rs } }

/-! ## Handing CLAIM frames (R78) -/

/-- A retry hold is in force (R81). -/
def State.retryHeld (s : State) : Bool := s.claims.retryHold.any (fun t => s.clock < t)

/-- The amount of an own claim: the configured one, or the pulse allowance if that is smaller. -/
def claimAmount (cfg : Record) : LatchOp → Nat
  | .withdraw => min cfg.withdrawAmount cfg.pulseAllowance
  | .throw_ => min cfg.throwAmount cfg.pulseAllowance

/-- The duration field: pulse duration ÷ 10, rounded up. -/
def claimDuration (cfg : Record) : Nat := (cfg.pulseDuration + 9) / 10

/-- Hand one CLAIM frame for the oldest unclaimed request where the four conditions hold. -/
def State.handClaim (s : State) : State :=
  if s.claims.own.length < ownClaimLimit ∧ s.share.state ≠ .clashed ∧ s.retryHeld = false then
    match s.claims.requests.find? (fun r => !r.claimed) with
    | none => s
    | some r =>
      let c : OwnClaim :=
        { tag := s.claims.tagCounter, slot := r.slot, op := r.op, amount := claimAmount s.cfg r.op
          duration := claimDuration s.cfg, hasRequest := true, expires := none }
      { s with
        line := s.line.hand (.claim c.tag c.op c.slot c.amount c.duration)
        claims := { s.claims with
          requests := claimRequest r.slot s.claims.requests
          own := s.claims.own ++ [c]
          tagCounter := (s.claims.tagCounter + 1) % 256 } }
  else s

/-- Hand CLAIM frames until a condition fails: at most two can be outstanding. -/
def State.handClaims (s : State) : State := s.handClaim.handClaim

/-- A request handed by the Latch Driver joins the tail, unclaimed (R77). -/
def State.addRequest (i : SlotNo) (op : LatchOp) (attempt : Nat) (s : State) : State :=
  (s.setRequests (s.claims.requests ++ [{ slot := i, op := op, attempt := attempt, claimed := false }])).handClaims

/-! ## The end of own claims without a decision (R83) -/

/-- A queue entry is the CLAIM frame of an own claim record. -/
def OwnClaim.isFrame (c : OwnClaim) : TxFrame → Bool
  | .claim tag op slot _ _ => decide (tag = c.tag ∧ op = c.op ∧ slot = c.slot)
  | _ => false

/-- The record of an own CLAIM frame that is not yet decided, matched by tag, slot and operation (R81). -/
def OwnClaim.matches (tag : Nat) (op : LatchOp) (slot : SlotNo) (c : OwnClaim) : Bool :=
  decide (c.tag = tag ∧ c.op = op ∧ c.slot = slot ∧ c.expires = none)

def OwnClaim.waits (c : OwnClaim) (q : List TxEntry) : Bool := q.any (fun e => c.isFrame e.frame && !e.sending)

/-- Withdraw the waiting CLAIM entries; an entry being sent is withdrawn when it waits again. -/
def withdrawWaiting (q : List TxEntry) : List TxEntry :=
  (q.filter (fun e => !(e.frame.isClaim && !e.sending))).map
    (fun e => if e.frame.isClaim then { e with withdraw := true } else e)

/-- Entry to CLASHED withdraws the waiting claims; their records end and their requests become unclaimed (R84). -/
def State.withdrawClaims (s : State) : State :=
  let gone := s.claims.own.filter (fun c => decide (c.expires = none) && c.waits s.line.queue)
  { s with
    line := { s.line with queue := withdrawWaiting s.line.queue }
    claims := { s.claims with
      own := s.claims.own.filter (fun c => !(decide (c.expires = none) && c.waits s.line.queue))
      requests := gone.foldl (fun rs c => if c.hasRequest then unclaimRequest c.slot rs else rs) s.claims.requests } }

/-- A claim of the slot that is outstanding when WITHDRAW_WAIT times out no longer belongs to a request: a waiting entry is
withdrawn and its record ends, an entry being sent is withdrawn when it waits again (R72). -/
def State.disownClaim (i : SlotNo) (s : State) : State :=
  match s.claims.own.find? (fun c => decide (c.slot = i ∧ c.hasRequest = true ∧ c.expires = none)) with
  | none => s
  | some c =>
    if c.waits s.line.queue then
      { s with
        line := { s.line with queue := s.line.queue.filter (fun e => !(c.isFrame e.frame && !e.sending)) }
        claims := { s.claims with own := s.claims.own.filter (fun x => x ≠ c) } }
    else
      { s with
        line := { s.line with
          queue := s.line.queue.map (fun e => if c.isFrame e.frame then { e with withdraw := true } else e) }
        claims := { s.claims with own := s.claims.own.map (fun x => if x = c then { x with hasRequest := false } else x) } }

/-- The record of a CLAIM frame that left the queue undecided ends; its request, if it still has one, becomes unclaimed and,
after a line drop, moves to the front (R83). -/
def State.endOwnClaim (toFront : Bool) (tag : Nat) (op : LatchOp) (slot : SlotNo) (s : State) : State :=
  match s.claims.own.find? (OwnClaim.matches tag op slot) with
  | none => s
  | some c =>
    let rs := s.claims.requests
    { s with claims := { s.claims with
        own := s.claims.own.filter (fun x => !OwnClaim.matches tag op slot x)
        requests := if c.hasRequest then (if toFront then requestToFront slot rs else unclaimRequest slot rs) else rs } }

/-! ## The bolt (R67 to R73) -/

/-- The duration of an OPEN timer in ms. -/
def openTimerMs (cfg : Record) : OpenTimer → Nat
  | .window => cfg.openWindow * 1000
  | .emptyOpen => cfg.emptyOpen * 1000
  | .insertSettle => cfg.insertSettle * 1000

def State.setLatchState (i : SlotNo) (x : LatchState) (s : State) : State :=
  s.setLatch i { s.latch.get i with state := x }

/-- OPEN with this OPEN timer, which takes the place of any other. -/
def State.startOpenTimer (i : SlotNo) (t : OpenTimer) (s : State) : State :=
  s.setLatchState i (.opened t (momentAfter s.clock (openTimerMs s.cfg t)))

/-- Enter OPEN: the open window with a tablet PRESENT, the empty-open timer otherwise (R73). -/
def State.openLatch (i : SlotNo) (s : State) : State :=
  s.startOpenTimer i (if s.isPresent i then .window else .emptyOpen)

/-- Learn the latch from the filtered bolt sense with latch attempt 1 (R67, R76, R86). A reading still UNKNOWN leaves the slot
unlearned; it cannot be UNKNOWN where the data book learns (notes/assumptions/17.md). -/
def State.learnLatch (i : SlotNo) (s : State) : State :=
  let s := s.setLatch i { s.latch.get i with attempt := 1 }
  match (s.monitor.get i).boltIn with
  | .thrown => s.setLatchState i .locked
  | .withdrawn => s.openLatch i
  | .unknown => s.setLatchState i .unlearned

/-- Learning at start: once the slot's first bolt-sense value and its start-settled event are both held (R67). -/
def State.learnAtStart (i : SlotNo) (s : State) : State :=
  let m := s.monitor.get i
  if (s.latch.get i).state = .unlearned ∧ m.fitted = true ∧ m.boltIn ≠ .unknown ∧ m.startSettled = true then s.learnLatch i
  else s

/-- A re-learn request acts on a JAMMED slot alone (R76). -/
def State.relearn (i : SlotNo) (s : State) : State :=
  if (s.latch.get i).state = .jammed then s.learnLatch i else s

/-- A GRANTED outcome: LOCKED to WITHDRAW_WAIT with a withdraw request (R68). -/
def State.grantRelease (i : SlotNo) (s : State) : State :=
  (s.setLatch i { s.latch.get i with
    state := .withdrawWait (momentAfter s.clock claimWaitMs), attempt := 1 }).addRequest i .withdraw 1

/-- The admission of the own claim for a slot's present request drives its bolt (R69). -/
def State.drivePulse (i : SlotNo) (op : LatchOp) (duration : Nat) (s : State) : State :=
  let l := s.latch.get i
  match op, l.state with
  | .withdraw, .withdrawWait _ =>
    s.setLatch i { l with state := .withdrawing (momentAfter s.clock (duration * 10)), moved := false }
  | .throw_, .throwWait => s.setLatch i { l with state := .throwing (momentAfter s.clock (duration * 10)) }
  | _, _ => s

/-- JAMMED: jam report and LATCH_JAMMED notice (R70, R71). -/
def State.jam (i : SlotNo) (op : LatchOp) (s : State) : State :=
  ((s.setLatchState i .jammed).notice .latchJammed (some i) (opCode op)).jamReport i

/-- THROW_WAIT with a throw request (R71, R73). -/
def State.throwWait (i : SlotNo) (attempt : Nat) (s : State) : State :=
  (s.setLatch i { s.latch.get i with state := .throwWait, attempt := attempt }).addRequest i .throw_ attempt

/-- The end of a withdraw pulse that is no learning (R70). A slot that enters OPEN keeps its latch attempt until its OPEN timer
expires: the model's choice (notes/assumptions/33.md). -/
def State.withdrawEnded (i : SlotNo) (attempt : Nat) (s : State) : State :=
  match (s.monitor.get i).boltIn with
  | .withdrawn => s.openLatch i
  | .thrown =>
    if attempt = 1 then
      (s.setLatch i { s.latch.get i with
        state := .withdrawWait (momentAfter s.clock claimWaitMs), attempt := 2 }).addRequest i .withdraw 2
    else s.jam i .withdraw
  | .unknown => s.setLatchState i .unlearned

/-- A withdraw pulse ends (R70, R86). -/
def State.endWithdraw (i : SlotNo) (s : State) : State :=
  let l := s.latch.get i
  let s := s.setLatch i { l with moved := false, learnAtEnd := false }
  let t := if l.learnAtEnd then s.learnLatch i else s.withdrawEnded i l.attempt
  if l.moved = true ∧ (s.monitor.get i).boltIn = .thrown then t.tamperReport i .moved false else t

/-- A throw pulse ends (R71, R86). -/
def State.endThrow (i : SlotNo) (s : State) : State :=
  let l := s.latch.get i
  let s := s.setLatch i { l with moved := false, learnAtEnd := false }
  if l.learnAtEnd then s.learnLatch i
  else
    match (s.monitor.get i).boltIn with
    | .thrown => s.setLatch i { s.latch.get i with state := .locked, attempt := 1 }
    | .withdrawn => if l.attempt = 1 then s.throwWait i 2 else s.jam i .throw_
    | .unknown => s.setLatchState i .unlearned

/-- An insertion taken by the Latch Driver (R73 to R75). -/
def State.latchInsertion (i : SlotNo) (found : Bool) (s : State) : State :=
  let l := s.latch.get i
  match l.state with
  | .locked => s.tamperReport i .insertion found
  | .withdrawWait _ => s.tamperReport i .insertion found
  | .withdrawing _ => s.setLatch i { l with moved := true }
  | .opened _ _ => s.startOpenTimer i .insertSettle
  | _ => s

/-- An extraction taken by the Latch Driver (R73 to R75). -/
def State.latchExtraction (i : SlotNo) (s : State) : State :=
  let l := s.latch.get i
  match l.state with
  | .locked => s.tamperReport i .extraction false
  | .withdrawWait _ => s.tamperReport i .extraction false
  | .withdrawing _ => s.setLatch i { l with moved := true }
  | .opened _ _ => s.startOpenTimer i .emptyOpen
  | _ => s

/-! ## A CLAIM frame at its line position (R79 to R83) -/

/-- A CLAIM frame that belongs to no own claim record: another station's, or an orphan (R83). -/
def State.takeClaim (e : ClaimEntry) (s : State) : State :=
  if admits s.cfg.pulseAllowance s.claims.entries e then s.enterClaim e else s

/-- The earliest of a list of times. -/
def earliest : List Nat → Option Nat
  | [] => none
  | t :: ts => match earliest ts with
    | none => some t
    | some u => some (min t u)

/-- An own claim admitted (R81). -/
def State.ownAdmitted (c : OwnClaim) (e : ClaimEntry) (s : State) : State :=
  let own := s.claims.own.map (fun x => if OwnClaim.matches c.tag c.op c.slot x then { x with expires := some e.expiry } else x)
  let s := ({ s with claims := { s.claims with own := own } } : State).enterClaim e
  if c.hasRequest then (s.setRequests (dropRequest c.slot s.claims.requests)).drivePulse c.slot c.op e.duration else s

/-- An own claim not admitted (R81). -/
def State.ownRefused (c : OwnClaim) (s : State) : State :=
  let own := s.claims.own.filter (fun x => !OwnClaim.matches c.tag c.op c.slot x)
  let held := earliest ((liveClaims s.clock s.claims.entries).map ClaimEntry.expiry)
  let s : State :=
    if c.hasRequest then
      { s with claims := { s.claims with
          own := own, requests := requestToFront c.slot s.claims.requests, retryHold := held } }
    else { s with claims := { s.claims with own := own } }
  s.handClaims

/-- The station's own CLAIM frame completes: decided at this line position and matched to its own claim record. -/
def State.completeOwnClaim (tag : Nat) (op : LatchOp) (slot : SlotNo) (amount duration : Nat) (s : State) : State :=
  let e : ClaimEntry :=
    { owner := ⟨s.address.val, by omega⟩, tag := tag, slot := slot.val, op := op, amount := amount, duration := duration
      position := s.clock, admitted := false }
  match s.claims.own.find? (OwnClaim.matches tag op slot) with
  | none => s.takeClaim e
  | some c => if admits s.cfg.pulseAllowance s.claims.entries e then s.ownAdmitted c e else s.ownRefused c

/-- The next expiry among the claim list and the kept own claim records. -/
def State.nextClaimExpiry (s : State) : Option Nat :=
  earliest ((s.claims.entries.map ClaimEntry.expiry) ++ s.claims.own.filterMap (·.expires))

/-- Expired claims leave the list, their own records end, a retry hold ending here ends, R is reported and claims may be
handed (R79, R81, R82). -/
def State.expireClaims (s : State) : State :=
  let kept := liveClaims s.clock s.claims.entries
  let own := s.claims.own.filter (fun c => c.expires.all (fun t => s.clock < t))
  let held := s.claims.retryHold.filter (fun t => s.clock < t)
  (({ s with claims := { s.claims with entries := kept, own := own, retryHold := held } } : State).reportReserve).handClaims

/-! ## The rows -/

/-- CLAIM_EXPIRY (R79). -/
def execClaimExpiry (s : State) : Host.Outcome State Fault Refusal :=
  whileRunning s fun s =>
    match s.nextClaimExpiry with
    | none => s
    | some t => (s.reach t).expireClaims

/-- WITHDRAW_PULSE_END (R70). -/
def execWithdrawPulseEnd (i : SlotNo) (s : State) : Host.Outcome State Fault Refusal :=
  whileRunning s fun s =>
    match (s.latch.get i).state with
    | .withdrawing t => (s.reach t).endWithdraw i
    | _ => s

/-- THROW_PULSE_END (R71). -/
def execThrowPulseEnd (i : SlotNo) (s : State) : Host.Outcome State Fault Refusal :=
  whileRunning s fun s =>
    match (s.latch.get i).state with
    | .throwing t => (s.reach t).endThrow i
    | _ => s

/-- The four steps of R72 at a WITHDRAW_WAIT timeout. -/
def State.timeOutRelease (i : SlotNo) (s : State) : State :=
  let attempt := (s.latch.get i).attempt
  let s := s.setLatch i { s.latch.get i with state := .locked, attempt := 1 }
  let s := (s.setRequests (dropRequest i s.claims.requests)).notice .latchTimeout (some i) attempt
  (s.disownClaim i).handClaims

/-- CLAIM_WAIT_TIMEOUT (R72). -/
def execClaimWaitTimeout (i : SlotNo) (s : State) : Host.Outcome State Fault Refusal :=
  whileRunning s fun s =>
    match (s.latch.get i).state with
    | .withdrawWait t => (s.reach t).timeOutRelease i
    | _ => s

/-- OPEN_TIMER_EXPIRY (R73). -/
def execOpenTimerExpiry (i : SlotNo) (s : State) : Host.Outcome State Fault Refusal :=
  whileRunning s fun s =>
    match (s.latch.get i).state with
    | .opened _ t => (s.reach t).throwWait i 1
    | _ => s

end Sys2Proof.Machine
end

