-- ==== Sys2Proof/Machine/Provision.lean ====
section
/-! DEFINITION. The Plan Engine and the Lane Switch (chapters 6 and 7). Both work inside one event: a run that starts, a step
that completes and a grant each make the next piece of work, and the event ends when none is left. -/

namespace Sys2Proof.Machine

/-! ## Lanes: detach, attach, waking (R131 to R137) -/

/-- The lane takes a new state now. Entry to DORMANT or RETIRED ends the sampling of its sideband lines; entry to WAKING starts
it, and so does entry to SCRUBBING from RETIRED (R131, notes/assumptions/34.md). -/
def Lane.move (now : Nat) (x : LaneState) (l : Lane) : Lane :=
  match x with
  | .dormant => { l with state := x, enumIn := .unknown, enumRun := {}, faultIn := .unknown, faultRun := {} }
  | .retired => { l with state := x, enumIn := .unknown, enumRun := {}, faultIn := .unknown, faultRun := {} }
  | .waking _ => { l with state := x, sampledFrom := now }
  | .scrubbing _ => { l with state := x, sampledFrom := if l.state = .retired then now else l.sampledFrom }
  | _ => { l with state := x }

def State.moveLane (l : LaneNo) (x : LaneState) (s : State) : State := s.setLane l ((s.lanes.table.get l).move s.clock x)

/-- The sideband lines of a lane are sampled: it is configured and neither DORMANT nor RETIRED (R130, R131). -/
def State.laneSampled (s : State) (l : LaneNo) : Bool :=
  s.configured l &&
    match (s.lanes.table.get l).state with
    | .dormant => false
    | .retired => false
    | _ => true

/-- The class voltage that a lane detach sets; a free value where the class has none (notes/assumptions/10.md). -/
def State.detachVolts (i : SlotNo) (s : State) : Volts :=
  match classVolts (s.monitor.get i).cable with
  | some v => v
  | none => if Config.freeNineVolts s.free then .nine else .five

/-- The lane detach event taken by the Charge Controller (R32). -/
def State.laneDetached (i : SlotNo) (s : State) : State :=
  ({ s with free := s.free + 1 } : State).chargeEvent i
    (ChargeSlot.onLane s.cfg s.clock (s.monitor.get i) .cable (s.detachVolts i))

/-- The lane attach event taken by the Charge Controller (R32). -/
def State.laneAttached (i : SlotNo) (s : State) : State :=
  s.chargeEvent i (ChargeSlot.onLane s.cfg s.clock (s.monitor.get i) .lane .five)

/-- Detach a lane from its slot: the point opens, the lane scrubs, the Charge Controller takes the detach (R136). -/
def State.detachLane (l : LaneNo) (i : SlotNo) (s : State) : State :=
  (s.moveLane l (.scrubbing (momentAfter s.clock s.cfg.scrubTime))).laneDetached i

/-- A release detaches the slot's lane if it is not pinned (R136). -/
def State.releaseLane (i : SlotNo) (s : State) : State :=
  match s.laneOf i with
  | some (l, false) => s.detachLane l i
  | _ => s

/-- A forced release or forced detach, an extraction and an UNPIN detach it pinned or not (R136 to R138). -/
def State.forceRelease (i : SlotNo) (s : State) : State :=
  match s.laneOf i with
  | some (l, _) => s.detachLane l i
  | none => s

def LaneState.isReady : LaneState → Bool
  | .ready _ => true
  | _ => false

def LaneState.isWaking : LaneState → Bool
  | .waking _ => true
  | _ => false

def LaneState.isDormant : LaneState → Bool
  | .dormant => true
  | _ => false

/-- The lowest-numbered configured lane with a property of its state. -/
def State.firstLane (s : State) (f : LaneState → Bool) : Option LaneNo :=
  allLanes.find? (fun l => s.configured l && f (s.lanes.table.get l).state)

/-- The number of lanes in READY or WAKING. -/
def State.servingLanes (s : State) : Nat :=
  (allLanes.filter (fun l =>
    s.configured l && ((s.lanes.table.get l).state.isReady || (s.lanes.table.get l).state.isWaking))).length

/-- Wake one DORMANT lane while fewer lanes serve than slots wait (R133). -/
def State.wakeOne (s : State) : State :=
  if s.servingLanes < s.lanes.waitList.length then
    match s.firstLane LaneState.isDormant with
    | some l => s.moveLane l (.waking (momentAfter s.clock laneWakeMs))
    | none => s
  else s

/-- The comparison is repeated for as many lanes as there are. -/
def State.wakeLanes (s : State) : State := s.wakeOne.wakeOne.wakeOne.wakeOne

/-- Lanes that stand READY with no idle timer start it: the wait list is then empty (R135). -/
def State.startIdle (s : State) : State :=
  if s.lanes.waitList.isEmpty then
    allLanes.foldl (fun t l =>
      match (t.lanes.table.get l).state with
      | .ready none => t.moveLane l (.ready (some (momentAfter t.clock (t.cfg.laneIdle * 1000))))
      | _ => t) s
  else s

/-! ## Runs (R109 to R113) -/

def State.planOf (s : State) (id : PlanId) : Option PlanRecord := s.plans.table.find? (fun r => r.id = id)

def State.headRun (s : State) (i : SlotNo) : Option Run := (s.plans.slots.get i).runs.head?

/-- The state of the slot's head run. -/
def State.headState (s : State) (i : SlotNo) : Option RunState := (s.headRun i).map Run.state

/-- A RESULT frame (R127). -/
def State.result (addressee : Source) (id : PlanId) (slot : Byte) (outcome : Answer) (step : Nat) (s : State) : State :=
  s.hand (.result addressee id slot outcome step)

/-- One run of a plan has finished: runs open falls, and the record is freed at 0 (R110). -/
def closeRun (id : PlanId) : List PlanRecord → List PlanRecord
  | [] => []
  | r :: rs =>
    if r.id = id then
      if r.runsOpen ≤ 1 then rs else { r with runsOpen := r.runsOpen - 1 } :: rs
    else r :: closeRun id rs

/-- A run of slot i finishes: its RESULT is handed to the plan's source and its place in the table is given up. -/
def State.reportRun (i : SlotNo) (r : Run) (outcome : Answer) (step : Nat) (s : State) : State :=
  match s.planOf r.plan with
  | none => s
  | some p =>
    let t := s.result p.source r.plan (byteOf i.val) outcome step
    { t with plans := { t.plans with table := closeRun r.plan t.plans.table } }

/-- The head run leaves the queue with its outcome (R110). -/
def State.endRun (i : SlotNo) (outcome : Answer) (step : Nat) (s : State) : State :=
  match (s.plans.slots.get i).runs with
  | [] => s
  | r :: rest => (s.reportRun i r outcome step).setPlan i { s.plans.slots.get i with runs := rest }

def State.setFloor (i : SlotNo) (q : Nat) (s : State) : State :=
  (s.setPlan i { s.plans.slots.get i with floor := q }).settled

/-- The head run takes a new state, step and use of the lane. -/
def State.setRun (i : SlotNo) (r : Run) (s : State) : State :=
  s.setPlan i { s.plans.slots.get i with runs := r :: (s.plans.slots.get i).runs.tail }

def State.leaveWaitList (i : SlotNo) (s : State) : State :=
  { s with lanes := { s.lanes with waitList := s.lanes.waitList.filter (fun w => w.1 ≠ i) } }

/-- What the end of a run does with the slot's lane (table of aborts). -/
inductive LaneSide
  /-- a lane that is not pinned is released -/
  | release
  /-- the lane is detached and its pin dropped -/
  | force
  /-- nothing is handed for it -/
  | keep
  deriving DecidableEq, Repr

def State.laneSide (i : SlotNo) : LaneSide → State → State
  | .release, s => s.releaseLane i
  | .force, s => s.forceRelease i
  | .keep, s => s

/-- A started head run finishes: plan floor 0, off the lane wait list, its lane's side, its RESULT (R110, R121 to R125). -/
def State.finishHead (i : SlotNo) (outcome : Answer) (side : LaneSide) (s : State) : State :=
  match s.headRun i with
  | none => s
  | some r => (((s.setFloor i 0).leaveWaitList i).laneSide i side).endRun i outcome r.step

/-- The outcome of the first start check that fails (R111). -/
def State.startCheck (i : SlotNo) (phase : PlanPhase) (s : State) : Option Answer :=
  if s.isPresent i = false then some .noTablet
  else if (s.latch.get i).state ≠ .locked then some .notLocked
  else if (s.custody.slots.get i).hold.any (fun h => h.reason = .tamper) then some .held
  else if (phase = .continued ∨ phase = .final) ∧ (s.plans.slots.get i).progress = none then some .outOfSequence
  else none

/-- Progress and build tag at the start of a run (R112). -/
def PlanSlot.begin_ (id : PlanId) (phase : PlanPhase) (p : PlanSlot) : PlanSlot :=
  match phase with
  | .single => { p with buildTag := none, progress := some id }
  | .initial => { p with buildTag := none, progress := some id }
  | .continued => p
  | .final => p

/-- The enumerated line of the slot's lane reads ASSERTED; UNKNOWN counts as RELEASED (R131). -/
def State.enumerated (s : State) (i : SlotNo) : Bool :=
  match s.laneOf i with
  | some (l, _) => (s.lanes.table.get l).enumIn = .asserted
  | none => false

/-- The state in which a run waits: a run that uses its lane and finds the line released goes to REENUM_WAIT (R118). -/
def State.waitState (s : State) (i : SlotNo) (usingLane : Bool) (held : HeldWait) : RunState :=
  if usingLane && !s.enumerated i then .reenumWait held (momentAfter s.clock (s.cfg.reenumGrace * 1000))
  else match held with
    | .goWait left => .goWait (left.map (fun t => s.clock + t))
    | .pause left => .pause (s.clock + left)

/-- A piece of work within an event. -/
inductive Work
  /-- the slot's head run, if it is QUEUED, is started -/
  | start (i : SlotNo)
  /-- the step the head run stands at is executed -/
  | perform (i : SlotNo)
  /-- the step has completed: the next one, or the end of the run -/
  | advance (i : SlotNo)
  /-- the lane wait list is judged for grants and for waking -/
  | grant
  deriving DecidableEq, Repr

/-- Start the head run (R111, R112). -/
def State.startRun (i : SlotNo) (s : State) : State × List Work :=
  match s.headRun i with
  | none => (s, [])
  | some r =>
    match s.planOf r.plan with
    | none => (s, [])
    | some p =>
      if r.state ≠ .queued then (s, [])
      else
        match s.startCheck i p.phase with
        | some outcome => (s.endRun i outcome 0, [.start i])
        | none => (s.setPlan i ((s.plans.slots.get i).begin_ p.id p.phase), [.perform i])

/-- ATTACH (R114). -/
def State.attachStep (i : SlotNo) (r : Run) (p : PlanRecord) (s : State) : State × List Work :=
  if (s.laneOf i).isSome then (s.setRun i { r with usingLane := true }, [.advance i])
  else if s.cfg.laneCount = 0 then (s.finishHead i .noLanes .keep, [.start i])
  else
    let t := s.setRun i { r with state := .laneWait }
    ({ t with lanes := { t.lanes with waitList := t.lanes.waitList ++ [(i, p.pinned)] } }, [.grant])

/-- The plan floor that a FLOOR step sets (R116): clamped to the maximum power; a slot of class INVALID takes 0. -/
def State.floorStep (i : SlotNo) (arg : Nat) (s : State) : Nat :=
  let m := s.monitor.get i
  if m.cable = .invalid then 0 else min arg (maxPower s.cfg (s.charge.get i).path m.cable)

/-- Execute one step of the head run (R113 to R120). -/
def State.performStep (i : SlotNo) (s : State) : State × List Work :=
  match s.headRun i with
  | none => (s, [])
  | some r =>
    match s.planOf r.plan with
    | none => (s, [])
    | some p =>
      match p.steps[r.step - 1]? with
      | none => (s, [])
      | some st =>
        match st.kind with
        | .nothing => (s, [.advance i])
        | .attach => s.attachStep i r p
        | .floor => (s.setFloor i (s.floorStep i st.arg), [.advance i])
        | .await =>
          let left := if st.arg = 0 then none else some (st.arg * 1000 * bitsPerMs)
          (s.setRun i { r with state := s.waitState i r.usingLane (.goWait left) }, [])
        | .settle =>
          if st.arg = 0 then (s, [.advance i])
          else (s.setRun i { r with state := s.waitState i r.usingLane (.pause (st.arg * 10 * bitsPerMs)) }, [])
        | .detach => ((s.releaseLane i).setRun i { r with usingLane := false }, [.advance i])
        | .mark =>
          (s.setPlan i { s.plans.slots.get i with buildTag := some p.tag, progress := none }, [.advance i])

/-- The step the head run stands at has completed (R113, R121). -/
def State.advanceRun (i : SlotNo) (s : State) : State × List Work :=
  match s.headRun i with
  | none => (s, [])
  | some r =>
    match s.planOf r.plan with
    | none => (s, [])
    | some p =>
      if r.step < p.steps.length then (s.setRun i { r with step := r.step + 1 }, [.perform i])
      else (s.finishHead i .done .release, [.start i])

/-- The enumeration timeout of the ATTACH step a run stands at, in ms (R114). -/
def State.enumTimeoutMs (s : State) (r : Run) : Nat :=
  match s.planOf r.plan with
  | none => s.cfg.enumTimeout * 1000
  | some p =>
    match p.steps[r.step - 1]? with
    | some st => if st.arg = 0 then s.cfg.enumTimeout * 1000 else st.arg * 100
    | none => s.cfg.enumTimeout * 1000

/-- The Plan Engine takes a grant (R115). -/
def State.takeGrant (i : SlotNo) (s : State) : State × List Work :=
  match s.headRun i with
  | none => (s, [])
  | some r =>
    if r.state = .laneWait then
      (s.setRun i { r with usingLane := true, state := .enumWait (momentAfter s.clock (s.enumTimeoutMs r)) },
        if s.enumerated i then [.advance i] else [])
    else (s, [])

/-- Grant the lowest READY lane to the oldest waiting slot (R134); with nothing to grant, lanes wake and idle timers start. -/
def State.grantStep (s : State) : State × List Work :=
  match s.lanes.waitList, s.firstLane LaneState.isReady with
  | (i, pinned) :: rest, some l =>
    let t : State := { s with lanes := { s.lanes with waitList := rest } }
    let t := (t.moveLane l (.attached i pinned)).laneAttached i
    let (t, more) := t.takeGrant i
    (t, more ++ [.grant])
  | _, _ => (s.wakeLanes.startIdle, [])

def State.workStep : Work → State → State × List Work
  | .start i, s => s.startRun i
  | .perform i, s => s.performStep i
  | .advance i, s => s.advanceRun i
  | .grant, s => s.grantStep

/-- Do pieces of work, each one's own consequences before the next (R107); see notes/assumptions/11.md for the bound. -/
def runWork : Nat → List Work → State → State
  | 0, _, s => s
  | _ + 1, [], s => s
  | n + 1, w :: ws, s => runWork n ((s.workStep w).2 ++ ws) (s.workStep w).1

/-- The bound on the pieces of work in one event. -/
def workRounds : Nat := 4096

def State.work (ws : List Work) (s : State) : State := runWork workRounds ws s

/-- The head run finishes and the next run, if any, is started in the same event (R110). -/
def State.finishAndStart (i : SlotNo) (outcome : Answer) (side : LaneSide) (s : State) : State :=
  (s.finishHead i outcome side).work [.start i]

/-! ## Frames of class 5 (R107 to R109, R117, R124, R128, R138) -/

/-- The provisioning nodes' addresses (R107). -/
def isProvisioner (source : Source) : Bool := source.val = 12 || source.val = 13

/-- The plan's fields, where the acceptance check 4 of R108 passes. -/
def planFields (source : Source) (p : List Byte) : Option PlanRecord :=
  let count := byteAt p 11
  if count = 0 ∨ 8 < count then none
  else
    match knownSteps (rawSteps p 12 count), planPhaseOf (byteAt p 5) with
    | some steps, some phase =>
      if 1 < byteAt p 6 then none
      else if (phase = .initial ∨ phase = .continued) ∧ steps.any (fun st => st.kind = .mark) = true then none
      else some
        { id := planIdAt p 2, source := source, mask := maskSlots (byteAt p 4), phase := phase
          pinned := byteAt p 6 = 1, tag := tagAt p 7, steps := steps, runsOpen := (maskSlots (byteAt p 4)).length }
    | _, _ => none

/-- The acceptance checks of a PLAN frame (R108): the refusal, or the record to take. -/
def State.judgePlan (source : Source) (p : List Byte) (s : State) : Answer ⊕ PlanRecord :=
  let slots := maskSlots (byteAt p 4)
  if (s.planOf (planIdAt p 2)).isSome then .inl .duplicate
  else if planPlaces ≤ s.plans.table.length then .inl .tableFull
  else if slots.isEmpty ∨ slots.any (fun i => !s.fitted i) = true then .inl .badSlots
  else
    match planFields source p with
    | none => .inl .badPlan
    | some r => .inr r

/-- One run of the plan at the tail of a slot's queue. -/
def State.appendRun (id : PlanId) (i : SlotNo) (s : State) : State :=
  s.setPlan i { s.plans.slots.get i with
    runs := (s.plans.slots.get i).runs ++ [{ plan := id, state := .queued, step := 1, usingLane := false }] }

/-- A PLAN frame for the own station (R108, R109). -/
def State.takePlan (source : Source) (p : List Byte) (s : State) : State :=
  match s.judgePlan source p with
  | .inl answer => s.result source (planIdAt p 2) 255 answer 0
  | .inr r =>
    let t := ({ s with plans := { s.plans with table := s.plans.table ++ [r] } } : State).result source r.id 255 .accepted 0
    let heads := r.mask.filter (fun i => (s.plans.slots.get i).runs.isEmpty)
    (forSlots r.mask (State.appendRun r.id) t).work (heads.map Work.start)

/-- A GO frame for the own station (R117). -/
def State.takeGo (p : List Byte) (s : State) : State :=
  match slotOfByte (byteAt p 4) with
  | none => s
  | some i =>
    match s.headRun i with
    | none => s
    | some r =>
      match r.state with
      | .goWait _ => if r.plan = planIdAt p 2 then s.work [.advance i] else s
      | _ => s

/-- CANCEL on one slot (R124). -/
def State.cancelSlot (id : PlanId) (i : SlotNo) (s : State) : State :=
  match (s.plans.slots.get i).runs with
  | [] => s
  | r :: rest =>
    if r.plan = id then s.finishAndStart i .cancelled .release
    else
      match rest.find? (fun x => x.plan = id) with
      | none => s
      | some x => (s.reportRun i x .cancelled 0).setPlan i
          { s.plans.slots.get i with runs := r :: rest.filter (fun y => y.plan ≠ id) }

/-- A CANCEL frame for the own station (R124). -/
def State.takeCancel (p : List Byte) (s : State) : State :=
  if (s.planOf (planIdAt p 2)).isSome then forSlots (maskSlots (byteAt p 4)) (State.cancelSlot (planIdAt p 2)) s else s

/-- A BUILD frame (R128). -/
def State.takeBuild (p : List Byte) (s : State) : State :=
  { s with plans := { s.plans with required := if byteAt p 2 ≠ 0 then some (tagAt p 3) else none } }

/-- The run that has asked for, or is using, the slot's lane (R138). -/
def Run.holdsLane (r : Run) : Bool :=
  r.usingLane || match r.state with
    | .laneWait => true
    | .enumWait _ => true
    | _ => false

/-- An UNPIN frame for the own station (R138). -/
def State.takeUnpin (source : Source) (p : List Byte) (s : State) : State :=
  let ref := planIdAt p 2
  let slot := p.getD 4 0
  match slotOfByte (byteAt p 4) with
  | none => s.result source ref slot .badSlots 0
  | some i =>
    if (s.headRun i).any Run.holdsLane then s.result source ref slot .busy 0
    else (s.forceRelease i).result source ref slot .done 0

/-- A well-formed frame of class 5, handed by its kind to the Plan Engine or the Lane Switch (R107, R147). -/
def State.takeClass5 (source : Source) (p : List Byte) (s : State) : State :=
  if isProvisioner source = false then s
  else if byteAt p 0 = 4 then
    if byteAt p 1 = s.address.val ∨ byteAt p 1 = 15 then s.takeBuild p else s
  else if byteAt p 1 ≠ s.address.val then s
  else if byteAt p 0 = 0 then s.takePlan source p
  else if byteAt p 0 = 1 then s.takeGo p
  else if byteAt p 0 = 2 then s.takeCancel p
  else s.takeUnpin source p

/-! ## The rows of the Plan Engine's own timers -/

/-- ENUMERATION_TIMEOUT (R115). -/
def execEnumerationTimeout (i : SlotNo) (s : State) : Host.Outcome State Fault Refusal :=
  whileRunning s fun s =>
    match s.headState i with
    | some (.enumWait t) => (s.reach t).finishAndStart i .noEnum .release
    | _ => s

/-- AWAIT_TIMEOUT (R117). -/
def execAwaitTimeout (i : SlotNo) (s : State) : Host.Outcome State Fault Refusal :=
  whileRunning s fun s =>
    match s.headState i with
    | some (.goWait (some t)) => (s.reach t).finishAndStart i .awaitTimeout .release
    | _ => s

/-- PAUSE_EXPIRY (R116). -/
def execPauseExpiry (i : SlotNo) (s : State) : Host.Outcome State Fault Refusal :=
  whileRunning s fun s =>
    match s.headState i with
    | some (.pause t) => (s.reach t).work [.advance i]
    | _ => s

/-- REENUM_GRACE_EXPIRY (R118). -/
def execReenumGraceExpiry (i : SlotNo) (s : State) : Host.Outcome State Fault Refusal :=
  whileRunning s fun s =>
    match s.headState i with
    | some (.reenumWait _ t) => (s.reach t).finishAndStart i .noEnum .release
    | _ => s

/-! ## The rows of the Lane Switch -/

/-- An enumerated-asserted event for the attached slot (R115, R118). -/
def State.enumAsserted (i : SlotNo) (s : State) : State :=
  match s.headRun i with
  | none => s
  | some r =>
    match r.state with
    | .enumWait _ => s.work [.advance i]
    | .reenumWait (.goWait left) _ => s.setRun i { r with state := .goWait (left.map (fun t => s.clock + t)) }
    | .reenumWait (.pause left) _ => s.setRun i { r with state := .pause (s.clock + left) }
    | _ => s

/-- An enumerated-released event for the attached slot (R118). -/
def State.enumReleased (i : SlotNo) (s : State) : State :=
  match s.headRun i with
  | none => s
  | some r =>
    if r.usingLane then
      match r.state with
      | .goWait u =>
        s.setRun i { r with
          state := .reenumWait (.goWait (u.map (fun t => t - s.clock))) (momentAfter s.clock (s.cfg.reenumGrace * 1000)) }
      | .pause u =>
        s.setRun i { r with
          state := .reenumWait (.pause (u - s.clock)) (momentAfter s.clock (s.cfg.reenumGrace * 1000)) }
      | _ => s
    else s

def filteredOf : Level → Filtered
  | .asserted => .asserted
  | .released => .released

def levelActive : Level → Bool
  | .asserted => true
  | .released => false

/-- The filtered enumerated line takes a new value; in ATTACHED the Plan Engine is told (R131). -/
def State.changeEnumerated (l : LaneNo) (level : Level) (s : State) : State :=
  let x := s.lanes.table.get l
  let t := s.setLane l { x with enumIn := filteredOf level, enumPin := levelActive level, enumRun := {} }
  match x.state, level with
  | .attached i _, .asserted => t.enumAsserted i
  | .attached i _, .released => t.enumReleased i
  | _, _ => t

/-- ENUMERATED_CHANGE (R131). -/
def execEnumeratedChange (l : LaneNo) (level : Level) (s : State) : Host.Outcome State Fault Refusal :=
  whileRunning s fun s =>
    if s.laneSampled l = true ∧ (s.lanes.table.get l).enumIn ≠ filteredOf level then s.changeEnumerated l level else s

/-- The Plan Engine takes the fault of the slot's lane (R125). -/
def State.planLaneFault (i : SlotNo) (s : State) : State :=
  if (s.headRun i).any (fun r => r.usingLane) then s.finishAndStart i .laneFault .keep else s

/-- The slot that a lane in this state is attached to. -/
def LaneState.slot : LaneState → Option SlotNo
  | .attached i _ => some i
  | _ => none

/-- A lane in service faults (R139). -/
def State.faultLane (l : LaneNo) (s : State) : State :=
  let x := s.lanes.table.get l
  let retired : Bool := decide (faultLimit ≤ x.faults + 1)
  let t := s.setLane l
    ({ x with faults := x.faults + 1, faultIn := .asserted, faultPin := true, faultRun := {} }.move s.clock
      (if retired then .retired else .faulted none))
  let t := match x.state.slot with
    | some i => (t.laneDetached i).planLaneFault i
    | none => t
  let t := t.notice (if retired then .laneRetired else .laneFault) x.state.slot l.val
  if x.state.isReady || x.state.isWaking then t.wakeLanes else t

/-- LANE_FAULT (R139); in FAULTED a return to ASSERTED stops the fault clear timer and is no new fault (R140). -/
def execLaneFault (l : LaneNo) (s : State) : Host.Outcome State Fault Refusal :=
  whileRunning s fun s =>
    let x := s.lanes.table.get l
    if s.laneSampled l = true ∧ x.faultIn ≠ .asserted then
      match x.state with
      | .faulted _ => s.setLane l { x with state := .faulted none, faultIn := .asserted, faultPin := true, faultRun := {} }
      | _ => s.faultLane l
    else s

/-- FAULT_LINE_RELEASED (R140). -/
def execFaultLineReleased (l : LaneNo) (s : State) : Host.Outcome State Fault Refusal :=
  whileRunning s fun s =>
    let x := s.lanes.table.get l
    if s.laneSampled l = true ∧ x.faultIn ≠ .released then
      let y := { x with faultIn := .released, faultPin := false, faultRun := {} }
      match x.state with
      | .faulted _ => s.setLane l { y with state := .faulted (some (momentAfter s.clock faultClearMs)) }
      | _ => s.setLane l y
    else s

/-- FAULT_CLEAR_EXPIRY (R140). -/
def execFaultClearExpiry (l : LaneNo) (s : State) : Host.Outcome State Fault Refusal :=
  whileRunning s fun s =>
    match (s.lanes.table.get l).state with
    | .faulted (some t) => (s.reach t).moveLane l (.scrubbing (momentAfter (s.reach t).clock s.cfg.scrubTime))
    | _ => s

/-- The earliest wake expiry. -/
def State.nextWake (s : State) : Option Nat :=
  earliest (allLanes.filterMap (fun l =>
    match (s.lanes.table.get l).state with
    | .waking t => some t
    | _ => none))

/-- The lanes whose wake time ends at t enter READY together (R133). -/
def State.endWake (t : Nat) (s : State) : State :=
  allLanes.foldl (fun u l =>
    match (u.lanes.table.get l).state with
    | .waking t' => if t' = t then u.moveLane l (.ready none) else u
    | _ => u) s

/-- WAKE_TIMER_EXPIRY (R133). -/
def execWakeTimerExpiry (s : State) : Host.Outcome State Fault Refusal :=
  whileRunning s fun s =>
    match s.nextWake with
    | none => s
    | some t => ((s.reach t).endWake t).work [.grant]

/-- IDLE_TIMER_EXPIRY (R135). -/
def execIdleTimerExpiry (l : LaneNo) (s : State) : Host.Outcome State Fault Refusal :=
  whileRunning s fun s =>
    match (s.lanes.table.get l).state with
    | .ready (some t) => ((s.reach t).moveLane l .dormant).wakeLanes
    | _ => s

/-- SCRUB_TIMER_EXPIRY (R136). -/
def execScrubTimerExpiry (l : LaneNo) (s : State) : Host.Outcome State Fault Refusal :=
  whileRunning s fun s =>
    match (s.lanes.table.get l).state with
    | .scrubbing t => ((s.reach t).moveLane l (.ready none)).work [.grant]
    | _ => s

end Sys2Proof.Machine
end

