-- ==== Sys2Proof/Machine/Charge.lean ====
section
/-! DEFINITION. The Slot Monitor and the Charge Controller's own events (chapters 1 and 2): filtered inputs, insertion and
extraction, publications, integration and the timers of the charge phases. -/

namespace Sys2Proof.Machine

/-! ## The present input (R3, R5, R6, R9, R11) -/

/-- The start-settled event: the flag becomes yes and the Latch Driver learns where it holds a bolt value (R11, R67). -/
def State.settleStart (i : SlotNo) (s : State) : State :=
  (s.setMonitor i { s.monitor.get i with startSettled := true }).learnAtStart i

/-- The presence debounce's answer to a filtered-present event (R5, R6, R9): the new presence, and whether the event settles
the slot's start (R11). first tells the first filtered value after reset. -/
def presenceOn (cfg : Record) (now : Nat) (first : Bool) : Level → Presence → Presence × Bool
  | .asserted, .empty => (.settling (momentAfter now cfg.insertDebounce) first, false)
  | .released, .empty => (.empty, first)
  | .asserted, .settling t found => (.settling t found, false)
  | .released, .settling _ found => (.empty, found)
  | .asserted, .present _ => (.present none, false)
  | .released, .present none => (.present (some (momentAfter now cfg.extractDebounce)), false)
  | .released, .present (some t) => (.present (some t), false)

/-- The filtered present input takes a new value. -/
def State.changePresent (i : SlotNo) (level : Level) (s : State) : State :=
  let m := s.monitor.get i
  let answer := presenceOn s.cfg s.clock (decide (m.presentIn = .unknown)) level m.presence
  let t := s.setMonitor i
    { m with presentIn := filteredOf level, presentPin := levelActive level, presentRun := {}, presence := answer.1 }
  if answer.2 then t.settleStart i else t

/-- FILTERED_PRESENT_CHANGE (R3). -/
def execFilteredPresentChange (i : SlotNo) (level : Level) (s : State) : Host.Outcome State Fault Refusal :=
  whileRunning s fun s =>
    if s.fitted i = true ∧ (s.monitor.get i).presentIn ≠ filteredOf level then s.changePresent i level else s

/-! ## The bolt-sense input (R4) -/

def boltSenseOf : BoltReading → BoltSense
  | .thrown => .thrown
  | .withdrawn => .withdrawn

def boltActive : BoltReading → Bool
  | .thrown => true
  | .withdrawn => false

/-- The filtered bolt sense takes a new value; its first value is reported to the Latch Driver (R4, R67). -/
def State.changeBolt (i : SlotNo) (reading : BoltReading) (s : State) : State :=
  let m := s.monitor.get i
  let t := s.setMonitor i { m with boltIn := boltSenseOf reading, boltPin := boltActive reading, boltRun := {} }
  if m.boltIn = .unknown then t.learnAtStart i else t

/-- FILTERED_BOLT_SENSE_CHANGE (R4). -/
def execFilteredBoltSenseChange (i : SlotNo) (reading : BoltReading) (s : State) : Host.Outcome State Fault Refusal :=
  whileRunning s fun s =>
    if s.fitted i = true ∧ (s.monitor.get i).boltIn ≠ boltSenseOf reading then s.changeBolt i reading else s

/-! ## Insertion (R6 to R8, R19) -/

/-- The class of a code resistance in Ω; an open input has none (R7). -/
def cableClassOf : Option Nat → CableClass
  | none => .invalid
  | some r =>
    if 900 ≤ r ∧ r ≤ 1100 then .classA
    else if 2700 ≤ r ∧ r ≤ 3300 then .classB
    else if 8200 ≤ r ∧ r ≤ 9800 then .classC
    else .invalid

/-- Charge-ready is set once Q has reached the checkout charge (R37). -/
def readyByCharge (cfg : Record) (q : Nat) (c : ChargeSlot) : ChargeSlot :=
  { c with ready := c.ready || decide (cfg.checkoutCharge ≤ q) }

/-- The Charge Controller starts an inserted slot (R19, R37). -/
def ChargeSlot.insert (cfg : Record) (now p : Nat) (cable : CableClass) (c : ChargeSlot) : ChargeSlot :=
  let c := readyByCharge cfg 0 { c.noDwells with path := .cable, retries := 0, ready := false, overSince := none }
  if cable = .invalid then
    { c with phase := .faulted .invalidCable none, retries := maxRetries, outputOn := false, setPoint := 0 }
  else c.enterDetect now p

/-- The insertion event at every block that takes it (R8). -/
def State.insert (i : SlotNo) (code : Option Nat) (found : Bool) (s : State) : State :=
  let cable := cableClassOf code
  let s := s.setMonitor i { s.monitor.get i with
    codePin := code, cable := cable, presence := .present none, q := 0, remainder := 0
    periodEnd := some (momentAfter s.clock integrationMs), periodSum := 0 }
  let s := s.notice .inserted (some i) (cableCode cable)
  let s := s.chargeEvent i (ChargeSlot.insert s.cfg s.clock (s.share.slotAlloc.get i) cable)
  let s := s.latchInsertion i found
  if found then s.settleStart i else s

/-- INSERTION (R6). -/
def execInsertion (i : SlotNo) (code : Option Nat) (s : State) : Host.Outcome State Fault Refusal :=
  whileRunning s fun s =>
    match (s.monitor.get i).presence with
    | .settling t found => (s.reach t).insert i code found
    | _ => s

/-! ## Extraction (R10, R20, R104, R122, R137) -/

/-- The Slot Monitor's steps 2 to 4 of R10. -/
def MonitorSlot.clear (m : MonitorSlot) : MonitorSlot :=
  { m with periodEnd := none, periodSum := 0, q := 0, remainder := 0, cable := .absent, presence := .empty }

/-- The Charge Controller goes to OFF from any phase; the power path is left (R20). -/
def ChargeSlot.extract (c : ChargeSlot) : ChargeSlot :=
  { c.noDwells with
    phase := .off, outputOn := false, setPoint := 0, heldPower := 0, retries := 0, ready := false, overSince := none }

/-- The runs behind the head run fail their first start check, one after another (R122). -/
def State.failQueued (i : SlotNo) (s : State) : State :=
  let p := s.plans.slots.get i
  (p.runs.foldl (fun t r => t.reportRun i r .noTablet 0) s).setPlan i { p with runs := [] }

/-- The Plan Engine clears progress and build tag and ends the slot's runs (R122). -/
def State.planExtraction (i : SlotNo) (s : State) : State :=
  ((s.setPlan i { s.plans.slots.get i with progress := none, buildTag := none }).finishHead i .extracted .keep).failQueued i

/-- The extraction event at every block that takes it. -/
def State.extract (i : SlotNo) (s : State) : State :=
  let q := (s.monitor.get i).q
  let s := (s.setMonitor i (s.monitor.get i).clear).notice .extracted (some i) q
  let s := s.chargeEvent i ChargeSlot.extract
  let s := s.latchExtraction i
  let s := s.setCustody i { s.custody.slots.get i with dueUntil := none, duePassed := false }
  let s := s.planExtraction i
  (s.leaveWaitList i).forceRelease i

/-- EXTRACTION (R10). -/
def execExtraction (i : SlotNo) (s : State) : Host.Outcome State Fault Refusal :=
  whileRunning s fun s =>
    match (s.monitor.get i).presence with
    | .present (some t) => (s.reach t).extract i
    | _ => s

/-! ## Publications (R12, R23, R34, R35) -/

/-- Over-voltage: the output is on in a phase that judges it, and the voltage is above nominal + 10 % (R35). -/
def overVoltage (volts : Nat) (c : ChargeSlot) : Bool :=
  c.outputOn &&
    (match c.phase with
      | .detect _ => true
      | .charging _ => true
      | _ => false) &&
    decide (1100 * c.working.value < volts)

/-- The phases in which over-current is judged (R34). -/
def Phase.judgesCurrent : Phase → Bool
  | .off => false
  | .faulted _ _ => false
  | _ => true

/-- Over-current: the current exceeds the set-point by more than the larger of 20 % of it and 100 mA (R34). -/
def overCurrent (amps : Nat) (c : ChargeSlot) : Bool :=
  c.phase.judgesCurrent &&
  decide (100 * c.setPoint + max (20 * c.setPoint) 10000 < 100 * amps)

/-- The condition of the dwell away from BULK or TAPER downward (R25, R26). -/
def dwellDown (amps : Nat) (c : ChargeSlot) : Bool :=
  match c.phase with
  | .charging .bulk => decide (300 ≤ c.setPoint) && decide (100 * amps < 70 * c.setPoint)
  | .charging .taper => decide (amps < 100)
  | _ => false

/-- The condition of the dwell back to BULK (R26, R27). -/
def dwellUp (cfg : Record) (amps : Nat) (c : ChargeSlot) : Bool :=
  match c.phase with
  | .charging .taper => decide (90 * c.setPoint ≤ 100 * amps)
  | .charging .topped => decide (90 * cfg.maintenance ≤ 100 * amps)
  | _ => false

/-- A dwell or check runs from the first publication that meets its condition, and ends at one that fails it (R23, R34). -/
def judged (now : Nat) (holds : Bool) (since : Option Nat) : Option Nat :=
  if holds then (match since with | some t => some t | none => some now) else none

/-- The judgements of one publication that shows no over-voltage. -/
def ChargeSlot.publish (cfg : Record) (now amps : Nat) (c : ChargeSlot) : ChargeSlot :=
  { c with
    downSince := judged now (dwellDown amps c) c.downSince
    upSince := judged now (dwellUp cfg amps c) c.upSince
    overSince := judged now (overCurrent amps c) c.overSince }

/-- A fault shown on a slot: FAULTED with its notice (R36). -/
def State.faultSlot (i : SlotNo) (kind : FaultKind) (f : ChargeSlot → ChargeSlot) (s : State) : State :=
  (s.notice .chargeFault (some i) (faultDetail kind)).chargeEvent i
    (fun c => (f c).enterFaulted s.clock (s.monitor.get i) kind)

/-- The new means are held, and the Charge Controller judges them. -/
def State.publish (i : SlotNo) (volts amps : Nat) (s : State) : State :=
  let s := s.setMonitor i { s.monitor.get i with volts := volts, amps := amps, samples := 0, voltSum := 0, ampSum := 0 }
  if overVoltage volts (s.charge.get i) then
    s.faultSlot i .overVoltage (fun c => { c with retries := maxRetries })
  else s.chargeEvent i (ChargeSlot.publish s.cfg s.clock amps)

/-- MEASUREMENT_PUBLICATION (R12): each mean is rounded down, within the range of a sample. -/
def execMeasurementPublication (i : SlotNo) (voltageSum currentSum : Nat) (s : State) : Host.Outcome State Fault Refusal :=
  whileRunning s fun s =>
    if s.fitted i = true then s.publish i (min (voltageSum / 10) 12000) (min (currentSum / 10) 4000) else s

/-- OVER_CURRENT_CHECK (R34): 50 ms after the first publication that showed over-current. -/
def execOverCurrentCheck (i : SlotNo) (s : State) : Host.Outcome State Fault Refusal :=
  whileRunning s fun s =>
    match (s.charge.get i).overSince with
    | some t =>
      if (s.charge.get i).phase.judgesCurrent then (s.reach (momentAfter t overCurrentMs)).faultSlot i .overCurrent id else s
    | none => s

/-! ## Integration (R14, R15, R37) -/

/-- A period's mean goes into the remainder, and whole mAh out of it into Q, which stays at 65535. -/
def MonitorSlot.integrate (mean ends : Nat) (m : MonitorSlot) : MonitorSlot :=
  { m with
    q := min (m.q + (m.remainder + mean) / mAhInMas) maxCharge
    remainder := (m.remainder + mean) % mAhInMas
    periodEnd := some (momentAfter ends integrationMs)
    periodSum := 0 }

def State.integrate (i : SlotNo) (mean ends : Nat) (s : State) : State :=
  let s := s.setMonitor i ((s.monitor.get i).integrate mean ends)
  s.chargeEvent i (readyByCharge s.cfg (s.monitor.get i).q)

/-- INTEGRATION_PERIOD_END (R14). -/
def execIntegrationPeriodEnd (i : SlotNo) (currentSum : Nat) (s : State) : Host.Outcome State Fault Refusal :=
  whileRunning s fun s =>
    match (s.monitor.get i).periodEnd with
    | some t => (s.reach t).integrate i (min (currentSum / 1000) 4000) t
    | none => s

/-! ## The timers of the charge phases -/

/-- The slot enters a charging phase with the allocation then held (R29, R30). -/
def State.enterPhase (i : SlotNo) (dest : ChargePhase) (s : State) : State :=
  s.chargeEvent i (ChargeSlot.enter s.cfg (s.monitor.get i) (s.share.slotAlloc.get i) dest)

/-- The end of DETECT by path and class (R22). -/
def State.endDetect (i : SlotNo) (s : State) : State :=
  if (s.monitor.get i).cable = .classC ∧ (s.charge.get i).path = .cable then
    s.chargeEvent i (fun c => c.enterRestart s.cfg s.clock (s.monitor.get i) .cable .nine .bulk c.demand)
  else s.enterPhase i .bulk

/-- DETECT_TIMER_EXPIRY (R22). -/
def execDetectTimerExpiry (i : SlotNo) (s : State) : Host.Outcome State Fault Refusal :=
  whileRunning s fun s =>
    match (s.charge.get i).phase with
    | .detect (some t) => (s.reach t).endDetect i
    | _ => s

/-- TAPER_DWELL (R25). -/
def execTaperDwell (i : SlotNo) (s : State) : Host.Outcome State Fault Refusal :=
  whileRunning s fun s =>
    match (s.charge.get i).phase, (s.charge.get i).downSince with
    | .charging .bulk, some t => (s.reach (momentAfter t taperDwellMs)).enterPhase i .taper
    | _, _ => s

/-- TOPPED_DWELL (R26). -/
def execToppedDwell (i : SlotNo) (s : State) : Host.Outcome State Fault Refusal :=
  whileRunning s fun s =>
    match (s.charge.get i).phase, (s.charge.get i).downSince with
    | .charging .taper, some t => (s.reach (momentAfter t toppedDwellMs)).enterPhase i .topped
    | _, _ => s

/-- TAPER_TO_BULK_DWELL (R26). -/
def execTaperToBulkDwell (i : SlotNo) (s : State) : Host.Outcome State Fault Refusal :=
  whileRunning s fun s =>
    match (s.charge.get i).phase, (s.charge.get i).upSince with
    | .charging .taper, some t => (s.reach (momentAfter t taperToBulkMs)).enterPhase i .bulk
    | _, _ => s

/-- TOPPED_TO_BULK_DWELL (R27). -/
def execToppedToBulkDwell (i : SlotNo) (s : State) : Host.Outcome State Fault Refusal :=
  whileRunning s fun s =>
    match (s.charge.get i).phase, (s.charge.get i).upSince with
    | .charging .topped, some t => (s.reach (momentAfter t toppedToBulkMs)).enterPhase i .bulk
    | _, _ => s

/-- RESTART_HOLD_EXPIRY (R33). -/
def execRestartHoldExpiry (i : SlotNo) (s : State) : Host.Outcome State Fault Refusal :=
  whileRunning s fun s =>
    match (s.charge.get i).phase with
    | .restart back t _ => (s.reach t).enterPhase i back
    | _ => s

/-- RETRY_WAIT_EXPIRY (R36). -/
def execRetryWaitExpiry (i : SlotNo) (s : State) : Host.Outcome State Fault Refusal :=
  whileRunning s fun s =>
    match (s.charge.get i).phase with
    | .faulted _ (some t) =>
      (s.reach t).chargeEvent i
        (fun c => { c with retries := c.retries + 1 }.enterDetect (s.reach t).clock ((s.reach t).share.slotAlloc.get i))
    | _ => s

/-- DUE_UNTIL_PASSES (R24): the mark stands; it counts no more. -/
def State.passDue (i : SlotNo) (s : State) : State :=
  (s.setCustody i { s.custody.slots.get i with duePassed := true }).settled

/-- DUE_UNTIL_PASSES (R24). -/
def execDueUntilPasses (i : SlotNo) (s : State) : Host.Outcome State Fault Refusal :=
  whileRunning s fun s =>
    match (s.custody.slots.get i).dueUntil with
    | some t => if (s.custody.slots.get i).duePassed = true then s else (s.reach t).passDue i
    | none => s

end Sys2Proof.Machine
end

