-- ==== Sys2Proof/Machine/Share.lean ====
section
/-! DEFINITION. The Share Unit's events (chapter 3): its timers, the peer table, the ceiling records, the watch of peers and
the clash. -/

namespace Sys2Proof.Machine

/-- A change of share state, with its notice (R46). -/
def State.changeShare (x : ShareState) (s : State) : State :=
  if s.share.state = x then s
  else ({ s with share := { s.share with state := x } } : State).notice .shareState none (shareCode x)

/-- A full silence timer; with M = 1 it does not run (R42, R43). -/
def State.freshSilence (s : State) : Option Nat :=
  if s.cfg.stations = 1 then none else some (momentAfter s.clock s.agingMs)

def State.setSilence (t : Option Nat) (s : State) : State := { s with share := { s.share with silenceAt := t } }

/-- Enter JOINED with a full silence timer (R42, R44). -/
def State.enterJoined (s : State) : State := (s.setSilence s.freshSilence).changeShare .joined

/-- Enter ISOLATED with the silence timer stopped (R42, R43). -/
def State.enterIsolated (s : State) : State := (s.setSilence none).changeShare .isolated

/-! ## Timers -/

/-- LISTEN counts a report timer expiry and ends at the third (R42). -/
def State.countListen (s : State) : State :=
  if s.share.state = .listen then
    let t : State := { s with share := { s.share with listenCount := s.share.listenCount + 1 } }
    if t.share.listenCount < 3 then t
    else if t.share.peerHeard = true ∨ t.cfg.stations = 1 then t.enterJoined
    else t.enterIsolated
  else s

/-- REPORT_TIMER_EXPIRY (R48): LISTEN is counted first, so the NEED and the computation stand under the new state. -/
def State.report (s : State) : State :=
  let s : State := { s with share := { s.share with reportAt := momentAfter s.share.reportAt s.cfg.reportPeriod } }
  (s.countListen.handNeed).compute true

/-- REPORT_TIMER_EXPIRY (R48). -/
def execReportTimerExpiry (s : State) : Host.Outcome State Fault Refusal :=
  whileRunning s fun s => (s.reach s.share.reportAt).report

/-- A due early NEED at its spacing: handed if the difference still stands (R49). -/
def State.spaceNeed (s : State) : State :=
  if s.needDiffers then s.handNeed else { s with share := { s.share with earlyDue := false } }

/-- EARLY_NEED_SPACING (R49). -/
def execEarlyNeedSpacing (s : State) : Host.Outcome State Fault Refusal :=
  whileRunning s fun s =>
    match s.share.earlyDue, s.share.lastNeed with
    | true, some t => (s.reach (momentAfter t needSpacingMs)).spaceNeed
    | _, _ => s

/-- SILENCE_TIMER_EXPIRY (R43). -/
def execSilenceTimerExpiry (s : State) : Host.Outcome State Fault Refusal :=
  whileRunning s fun s =>
    match s.share.state, s.share.silenceAt with
    | .joined, some t => (s.reach t).enterIsolated.compute false
    | _, _ => s

def State.setPeer (a : Station) (p : Option Peer) (s : State) : State :=
  { s with share := { s.share with peers := setAt s.share.peers a p } }

/-- PEER_AGING (R52). -/
def execPeerAging (a : Station) (s : State) : Host.Outcome State Fault Refusal :=
  whileRunning s fun s =>
    match s.share.peers.get a with
    | some p =>
      if p.live = true then
        ((s.reach (momentAfter p.heardAt s.agingMs)).setPeer a (some { p with live := false })).compute false
      else s
    | none => s

/-! ## Ceiling records (R55 to R57) -/

/-- The expiry of the record of a source. -/
def recordExpiry (src : Source) (rs : List CeilingRecord) : Option Nat :=
  (rs.find? (fun r => r.source = src)).bind CeilingRecord.expires

def State.setCeilings (rs : List CeilingRecord) (s : State) : State := { s with share := { s.share with ceilings := rs } }

/-- CEILING_RECORD_EXPIRY (R57). -/
def execCeilingRecordExpiry (src : Source) (s : State) : Host.Outcome State Fault Refusal :=
  whileRunning s fun s =>
    match recordExpiry src s.share.ceilings with
    | some t => ((s.reach t).setCeilings (s.share.ceilings.filter (fun r => r.source ≠ src))).compute false
    | none => s

/-- The record of highest ceiling, the lowest source among equals (R56). -/
def highestRecord : List CeilingRecord → Option CeilingRecord
  | [] => none
  | r :: rs =>
    match highestRecord rs with
    | none => some r
    | some h => if h.ceiling < r.ceiling ∨ (h.ceiling = r.ceiling ∧ r.source < h.source) then some r else some h

/-- The table after a CEILING frame's record n; none where the frame is ignored (R55, R56). -/
def enterCeiling (n : CeilingRecord) (rs : List CeilingRecord) : Option (List CeilingRecord) :=
  if rs.any (fun r => r.source = n.source) then some (rs.map (fun r => if r.source = n.source then n else r))
  else if rs.length < ceilingPlaces then some (rs ++ [n])
  else
    match highestRecord rs with
    | none => none
    | some h => if n.ceiling < h.ceiling then some (rs.map (fun r => if r = h then n else r)) else none

/-- The record of a CEILING payload: clamped to C_cfg, standing where the validity is 0 (R55). -/
def State.ceilingOf (src : Source) (p : List Byte) (s : State) : CeilingRecord :=
  { source := src
    ceiling := min (wordAt p 0) s.cfg.cartCeiling
    expires := if wordAt p 2 = 0 then none else some (momentAfter s.clock (wordAt p 2 * 1000)) }

/-- A CEILING frame (R55, R56). -/
def State.takeCeiling (src : Source) (p : List Byte) (s : State) : State :=
  match enterCeiling (s.ceilingOf src p) s.share.ceilings with
  | some rs => (s.setCeilings rs).compute false
  | none => s

/-! ## The peer table (R44, R51, R53) -/

/-- A shelf address as a station; 8..15 are none. -/
def stationOf (src : Source) : Option Station := if h : src.val < 8 then some ⟨src.val, h⟩ else none

/-- A source address that is a peer's: 0..7 and not the own. -/
def State.peerOf (s : State) (src : Source) : Option Station :=
  match stationOf src with
  | some a => if a = s.address then none else some a
  | none => none

/-- The peer entry that a NEED makes. -/
def State.peerEntry (p : List Byte) (s : State) : Peer :=
  { demand := needSums p
    reported := (shareOf (byteAt p 1)).getD .listen
    heardAt := s.clock
    live := true }

/-- A NEED from a peer (R51); in ISOLATED it returns the station to JOINED (R44). -/
def State.takeNeed (a : Station) (p : List Byte) (s : State) : State :=
  let t := s.setPeer a (some (s.peerEntry p))
  (if t.share.state = .isolated then t.enterJoined else t).compute false

/-- A LEAVE from a peer (R53). -/
def State.takeLeave (a : Station) (s : State) : State := (s.setPeer a none).compute false

/-! ## Watch of peers and clash (R41, R43, R45, R84, R147) -/

/-- A good frame from a peer, whatever its class (R41, R43). -/
def State.watchPeer (s : State) : State :=
  match s.share.state with
  | .listen => { s with share := { s.share with peerHeard := true } }
  | .joined => s.setSilence s.freshSilence
  | .isolated => s
  | .clashed => s

/-- A good frame with the own address that this station did not send (R45, R84). -/
def State.clash (s : State) : State :=
  if s.share.state = .clashed then s
  else (((s.setSilence none).changeShare .clashed).withdrawClaims).compute false

/-- Every good frame from another station passes the watch of peers and the clash check (R146, R147). -/
def State.watch (src : Source) (s : State) : State :=
  match stationOf src with
  | none => s
  | some a => if a = s.address then s.clash else s.watchPeer

end Sys2Proof.Machine
end

