-- ==== Sys2Proof/Machine/Custody.lean ====
section
/-! DEFINITION. The Custody Unit's judgement of permits (chapter 5). -/

namespace Sys2Proof.Machine

/-! ## Scope (R2, R89) -/

/-- The global slot number of a local slot. -/
def globalSlot (a : Station) (i : SlotNo) : Nat := 6 * a.val + i.val

/-- The own slots in a permit's scope, ascending. -/
def Permit.slots (a : Station) (p : Permit) : List SlotNo :=
  allSlots.filter (fun i => decide (p.base ≤ globalSlot a i) && decide (globalSlot a i ≤ p.limit))

/-! ## Check 0 (R91) -/

def PermitKind.minLevel : PermitKind → Nat
  | .openSlot => 1
  | .return_ => 1
  | .due => 2
  | .hold => 2
  | .lift => 2
  | .restart => 3

/-- The source level of an address; 0..7 have none and count as 0. -/
def sourceLevel (cfg : Record) (src : Source) : Nat :=
  if h : 8 ≤ src.val then cfg.sourceLevels.get ⟨src.val - 8, by omega⟩ else 0

/-- Check 0: the outcome of every place when it fails, or the kind to judge. -/
def checkZero (cfg : Record) (p : Permit) : Answer ⊕ PermitKind :=
  if sourceLevel cfg p.source = 0 ∨ sourceLevel cfg p.source < p.level then .inl .source
  else
    match p.kind with
    | none => .inl .badPermit
    | some k => if p.level < k.minLevel then .inl .level else .inr k

/-! ## OPEN and RETURN (R92 to R95) -/

/-- Check 4 (R92). -/
def presenceCheck (kind : PermitKind) (level : Nat) (p : Presence) : Option Answer :=
  match kind with
  | .openSlot => if level < 3 ∧ p.isPresent = false then some .empty else none
  | .return_ => if p.isEmpty then none else some .occupied
  | _ => none

/-- Checks 1 to 4 (R92). -/
def State.checkSlot (kind : PermitKind) (level : Nat) (i : SlotNo) (s : State) : Option Answer :=
  if s.fitted i = false then some .unfitted
  else if (s.latch.get i).state ≠ .locked then some .notLocked
  else if (s.custody.slots.get i).hold.any (fun h => level < h.level) then some .held
  else presenceCheck kind level (s.monitor.get i).presence

/-- In the hands of provisioning: a head run, or a lane (R93). -/
def State.busySlot (s : State) (i : SlotNo) : Bool := (s.headRun i).isSome || (s.laneOf i).isSome

/-- A level-3 FORCE takes the slot away from provisioning (R93, R123): the next run is not started yet. -/
def State.forceSlot (i : SlotNo) (s : State) : State := (s.finishHead i .forced .force).forceRelease i

/-- Checks 6 and 7 of a level-1 OPEN (R94). -/
def State.checkoutCheck (i : SlotNo) (s : State) : Option Answer :=
  if s.plans.required ≠ none ∧ (s.plans.slots.get i).buildTag ≠ s.plans.required then some .staleBuild
  else if (s.charge.get i).ready = false then some .notReady
  else none

/-- Checks 6 to 8 and the grant (R94, R95). -/
def State.finishOpen (kind : PermitKind) (level : Nat) (i : SlotNo) (s : State) : State × Answer :=
  match (if kind = .openSlot ∧ level = 1 then s.checkoutCheck i else none) with
  | some a => (s, a)
  | none => (s.grantRelease i, .granted)

/-- One slot of an OPEN or RETURN permit (R92 to R95). -/
def State.judgeOpen (kind : PermitKind) (level : Nat) (force : Bool) (i : SlotNo) (s : State) : State × Answer :=
  match s.checkSlot kind level i with
  | some a => (s, a)
  | none =>
    if s.busySlot i then
      if level = 3 ∧ force = true then (s.forceSlot i).finishOpen kind level i else (s, .busy)
    else s.finishOpen kind level i

/-! ## DUE, HOLD, LIFT and RESTART (R96 to R99) -/

/-- DUE on a fitted slot (R96). -/
def State.judgeDue (minutes : Nat) (i : SlotNo) (s : State) : State × Answer :=
  ((s.setCustody i { s.custody.slots.get i with
    dueUntil := some (momentAfter s.clock (minutes * 60000)), duePassed := false }).settled,
    .applied)

/-- The hold after a HOLD permit, and its outcome (R97). -/
def raiseHold (level : Nat) : Option Hold → Option Hold × Answer
  | none => (some { level := level, reason := .admin }, .applied)
  | some h => if level < h.level then (some h, .held) else (some { h with level := level }, .applied)

/-- HOLD on a fitted slot (R97). -/
def State.judgeHold (level : Nat) (i : SlotNo) (s : State) : State × Answer :=
  let answer := raiseHold level (s.custody.slots.get i).hold
  (s.setHold i answer.1, answer.2)

/-- LIFT on a fitted slot (R98). -/
def State.judgeLift (level : Nat) (i : SlotNo) (s : State) : State × Answer :=
  match (s.custody.slots.get i).hold with
  | none => (s, .applied)
  | some h =>
    if level < h.level then (s, .held)
    else if h.reason = .jammed then ((s.setHold i none).relearn i, .applied)
    else (s.setHold i none, .applied)

/-- One slot of a permit that has passed check 0; check 1 of the four other kinds is made here. -/
def State.judgeSlot (p : Permit) (kind : PermitKind) (i : SlotNo) (s : State) : State × Answer :=
  match kind with
  | .openSlot => s.judgeOpen .openSlot p.level p.force i
  | .return_ => s.judgeOpen .return_ p.level p.force i
  | .due => if s.fitted i then s.judgeDue p.minutes i else (s, .unfitted)
  | .hold => if s.fitted i then s.judgeHold p.level i else (s, .unfitted)
  | .lift => if s.fitted i then s.judgeLift p.level i else (s, .unfitted)
  | .restart => if s.fitted i then (s, .applied) else (s, .unfitted)

/-! ## The whole permit (R90, R99, R100) -/

/-- An outcome joins the verdict under construction. -/
def State.addOutcome (a : Answer) (s : State) : State :=
  { s with custody := { s.custody with verdict := s.custody.verdict ++ [a] } }

/-- The slots of the intersection, one after another. -/
def judgeSlots (p : Permit) (kind : PermitKind) : List SlotNo → State → State
  | [], s => s
  | i :: is, s => judgeSlots p kind is ((s.judgeSlot p kind i).1.addOutcome (s.judgeSlot p kind i).2)

/-- Hand the VERDICT (R100); nothing is then under construction. -/
def State.handVerdict (number : Byte) (src : Source) (first : Nat) (s : State) : State :=
  ({ s with custody := { s.custody with verdict := [] } } : State).hand (.verdict number src first s.custody.verdict)

/-- After the judgement a RESTART permit starts the restart; every other permit lets a run that a FORCE has left at the head
be started (R93, R99, R123), in ascending order of the slots: the model's choice (notes/assumptions/8.md). -/
def State.afterPermit (kind : PermitKind) (slots : List SlotNo) (s : State) : State :=
  match kind with
  | .restart => { s with custody := { s.custody with restartDue := true } }
  | _ => s.work (slots.map Work.start)

/-- Judge a permit whose intersection begins at slot first. -/
def State.judgeIn (p : Permit) (first : SlotNo) (slots : List SlotNo) (s : State) : State :=
  let at_ := globalSlot s.address first
  match checkZero s.cfg p with
  | .inl a => (slots.foldl (fun t _ => t.addOutcome a) s).handVerdict p.number p.source at_
  | .inr kind => ((judgeSlots p kind slots s).handVerdict p.number p.source at_).afterPermit kind slots

/-- Judge one permit as one event (R89, R90). -/
def State.judgePermit (p : Permit) (s : State) : State :=
  match p.slots s.address with
  | [] => s
  | first :: rest => s.judgeIn p first (first :: rest)

/-- A well-formed PERMIT frame: judged, or kept waiting while a restart is due (R99). -/
def State.takePermit (src : Source) (p : List Byte) (s : State) : State :=
  if s.custody.restartDue = true then
    { s with custody := { s.custody with waiting := s.custody.waiting ++ [(src, p)] } }
  else s.judgePermit (permitOf src p)

end Sys2Proof.Machine
end

