-- ==== Sys2Proof/Machine/Query.lean ====
section
/-! DEFINITION. QUERY and STATUS (R154, R158). -/

namespace Sys2Proof.Machine

/-- A 32-bit field that is present, or the free value for one that is absent (notes/assumptions/9.md). -/
def State.tagField (s : State) (field : Nat) : Option BuildTag → Nat
  | some t => t.toNat
  | none => (Config.freeWord s.free field).toNat

/-- The same for a plan id. -/
def State.idField (s : State) (field : Nat) : Option PlanId → Nat
  | some t => t.toNat
  | none => (Config.freeWord s.free field).toNat % 65536

/-- The payload of STATUS, STATION. -/
def State.stationStatus (requester : Source) (s : State) : List Byte :=
  [byteOf requester.val, byteOf 0, byteOf (shareCode s.share.state)]
    ++ wordOf s.share.alloc ++ wordOf s.share.target ++ wordOf s.ceff ++ wordOf s.share.reserve
    ++ wordOf s.share.own.floor ++ wordOf s.share.own.urgent ++ wordOf s.share.own.normal
    ++ allLanes.map (fun l => byteOf (laneCode (s.configured l) (s.lanes.table.get l).state))
    ++ wordOf s.line.errors ++ wordOf s.line.lost
    ++ [byteOf (yesNo s.plans.required.isSome)] ++ longOf (s.tagField 0 s.plans.required)
    ++ [byteOf (yesNo s.defaulted)]

/-- The payload of STATUS, SLOT. -/
def State.slotStatus (requester : Source) (i : SlotNo) (s : State) : List Byte :=
  let m := s.monitor.get i
  let c := s.charge.get i
  let p := s.plans.slots.get i
  let head := s.headRun i
  [byteOf requester.val, byteOf 1, byteOf i.val, byteOf (presenceCode m.presence), byteOf (cableCode m.cable),
      byteOf (phaseCode c.phase)]
    ++ wordOf c.setPoint ++ wordOf m.q
    ++ [byteOf (yesNo c.ready), byteOf (latchCode (s.latch.get i).state), byteOf (holdCode (s.custody.slots.get i).hold),
        byteOf (yesNo p.progress.isSome)]
    ++ wordOf (s.idField 1 p.progress)
    ++ [byteOf (yesNo p.buildTag.isSome)] ++ longOf (s.tagField 2 p.buildTag)
    ++ [byteOf (slotLaneCode (s.laneOf i)), byteOf (yesNo head.isSome)]
    ++ wordOf (s.idField 3 (head.map Run.plan))
    ++ [match head with
        | some r => byteOf r.step
        | none => (Config.freeWord s.free 4).setWidth 8]

/-- A QUERY taken is answered with one STATUS; the free values it may have used are used up (R154). -/
def State.answer (payload : List Byte) (s : State) : State := ({ s with free := s.free + 1 } : State).hand (.status payload)

/-- A well-formed QUERY frame (R154). -/
def State.takeQuery (src : Source) (p : List Byte) (s : State) : State :=
  if byteAt p 0 ≠ s.address.val then s
  else if byteAt p 1 = 0 then s.answer (s.stationStatus src)
  else if byteAt p 1 = 1 then
    match slotOfByte (byteAt p 2) with
    | some i => s.answer (s.slotStatus src i)
    | none => s
  else s

end Sys2Proof.Machine
end

