-- ==== Sys2Proof/Machine/Frames.lean ====
section
/-! DEFINITION. Good frames from other stations: the watch of peers, the check of their form, and the blocks that take them
(R145 to R147). A frame is what its class and bytes say (notes/assumptions/7.md). -/

namespace Sys2Proof.Machine

/-- A well-formed frame of class 2; one with the own address is taken as the clash alone, and 8..15 are ignored (R147). -/
def State.takeClass2 (src : Source) (p : List Byte) (s : State) : State :=
  match s.peerOf src with
  | none => s
  | some a => if byteAt p 0 = 0 then s.takeNeed a p else s.takeLeave a

/-- A well-formed frame handed to the block that consumes its class (table of R147). -/
def State.consume (cls : Nat) (src : Source) (p : List Byte) (s : State) : State :=
  match cls with
  | 0 => s.takeClaim (claimOf src p s.clock)
  | 1 => s.takeCeiling src p
  | 2 => s.takeClass2 src p
  | 3 => s.takePermit src p
  | 5 => s.takeClass5 src p
  | 6 => s.takeQuery src p
  | _ => s

def State.countError (s : State) : State := { s with line := s.line.countError }

/-- A frame that the receiver gives up: counted, and the line waited for (R143, R145). -/
def State.abandonFrame (s : State) : State := { s with line := s.line.countError.frameBreaks }

/-- A good frame from another station at its completion, where the station has received it; a length above 40 is a frame
abandoned (R145). -/
def State.takeFrame (cls : Nat) (src : Source) (p : List Byte) (s : State) : State :=
  if s.line.phase.receives = false then s
  else if 40 < p.length then s.abandonFrame
  else
    let t := ({ s with line := s.line.frameEnds } : State).watch src
    if malformed cls p then t.countError else t.consume cls src p

/-! ## The rows -/

/-- NEED (R51). -/
def execNeed (src : Source) (p : List Byte) (s : State) : Host.Outcome State Fault Refusal :=
  whileRunning s (State.takeFrame 2 src p)
/-- LEAVE (R53). -/
def execLeave (src : Source) (p : List Byte) (s : State) : Host.Outcome State Fault Refusal :=
  whileRunning s (State.takeFrame 2 src p)
/-- CEILING (R55). -/
def execCeiling (src : Source) (p : List Byte) (s : State) : Host.Outcome State Fault Refusal :=
  whileRunning s (State.takeFrame 1 src p)
/-- OTHER_FRAME (R147). -/
def execOtherFrame (cls : Fin 8) (src : Source) (p : List Byte) (s : State) : Host.Outcome State Fault Refusal :=
  whileRunning s (State.takeFrame cls.val src p)
/-- CLAIM (R80). -/
def execClaim (src : Source) (p : List Byte) (s : State) : Host.Outcome State Fault Refusal :=
  whileRunning s (State.takeFrame 0 src p)
/-- PERMIT_OPEN (R94). -/
def execPermitOpen (src : Source) (p : List Byte) (s : State) : Host.Outcome State Fault Refusal :=
  whileRunning s (State.takeFrame 3 src p)
/-- PERMIT_RETURN (R92). -/
def execPermitReturn (src : Source) (p : List Byte) (s : State) : Host.Outcome State Fault Refusal :=
  whileRunning s (State.takeFrame 3 src p)
/-- PERMIT_DUE (R96). -/
def execPermitDue (src : Source) (p : List Byte) (s : State) : Host.Outcome State Fault Refusal :=
  whileRunning s (State.takeFrame 3 src p)
/-- PERMIT_HOLD (R97). -/
def execPermitHold (src : Source) (p : List Byte) (s : State) : Host.Outcome State Fault Refusal :=
  whileRunning s (State.takeFrame 3 src p)
/-- PERMIT_LIFT (R98). -/
def execPermitLift (src : Source) (p : List Byte) (s : State) : Host.Outcome State Fault Refusal :=
  whileRunning s (State.takeFrame 3 src p)
/-- PERMIT_RESTART (R99). -/
def execPermitRestart (src : Source) (p : List Byte) (s : State) : Host.Outcome State Fault Refusal :=
  whileRunning s (State.takeFrame 3 src p)
/-- PERMIT_UNKNOWN_KIND (R91). -/
def execPermitUnknownKind (src : Source) (p : List Byte) (s : State) : Host.Outcome State Fault Refusal :=
  whileRunning s (State.takeFrame 3 src p)
/-- PLAN (R108). -/
def execPlan (src : Source) (p : List Byte) (s : State) : Host.Outcome State Fault Refusal :=
  whileRunning s (State.takeFrame 5 src p)
/-- GO (R117). -/
def execGo (src : Source) (p : List Byte) (s : State) : Host.Outcome State Fault Refusal :=
  whileRunning s (State.takeFrame 5 src p)
/-- CANCEL (R124). -/
def execCancel (src : Source) (p : List Byte) (s : State) : Host.Outcome State Fault Refusal :=
  whileRunning s (State.takeFrame 5 src p)
/-- BUILD (R128). -/
def execBuild (src : Source) (p : List Byte) (s : State) : Host.Outcome State Fault Refusal :=
  whileRunning s (State.takeFrame 5 src p)
/-- UNPIN (R138). -/
def execUnpin (src : Source) (p : List Byte) (s : State) : Host.Outcome State Fault Refusal :=
  whileRunning s (State.takeFrame 5 src p)
/-- QUERY_STATION (R154). -/
def execQueryStation (src : Source) (p : List Byte) (s : State) : Host.Outcome State Fault Refusal :=
  whileRunning s (State.takeFrame 6 src p)
/-- QUERY_SLOT (R154). -/
def execQuerySlot (src : Source) (p : List Byte) (s : State) : Host.Outcome State Fault Refusal :=
  whileRunning s (State.takeFrame 6 src p)

end Sys2Proof.Machine
end

