-- ==== Sys2Proof/Machine/Transmit.lean ====
section
/-! DEFINITION. The Line Interface's own events (R143, R145, R150 to R153): idle, attempts and their ends, frames given up. -/

namespace Sys2Proof.Machine

def State.setLine (l : Line) (s : State) : State := { s with line := l }

/-- FRAME_ABANDONED (R145). -/
def execFrameAbandoned (s : State) : Host.Outcome State Fault Refusal :=
  whileRunning s fun s => if s.line.phase.receives then s.abandonFrame else s

/-- CRC_ERROR (R145): read to its end, so the line is idle two bit times later (R143). -/
def execCrcError (s : State) : Host.Outcome State Fault Refusal :=
  whileRunning s fun s => if s.line.phase.receives then s.setLine s.line.countError.frameEnds else s

/-- The bit times that pass at least before the line is idle (R143, R151). -/
def LinePhase.untilIdle : LinePhase → Nat
  | .busy left => left
  | .ended left => left
  | .breaking left => left + idleAfterBreak
  | .idle => 0
  | .sending _ _ => 0
  | .receiving _ => 0

/-- The line has become idle. -/
def State.becomeIdle (s : State) : State :=
  (s.reach (s.clock + s.line.phase.untilIdle)).setLine { s.line with phase := .idle }

/-- LINE_IDLE (R143). -/
def execLineIdle (s : State) : Host.Outcome State Fault Refusal :=
  whileRunning s fun s =>
    match s.line.phase with
    | .sending _ _ => s
    | _ => s.becomeIdle

/-- The first waiting entry in queue order (R150). -/
def firstWaiting (q : List TxEntry) : Option TxEntry := q.find? (fun e => !e.sending)

/-- The entry that takes the given entry's place, found by its enqueue order, which no two entries share (R148). -/
def replaceEntry (e : TxEntry) (q : List TxEntry) : List TxEntry := q.map (fun x => if x.order = e.order then e else x)

def removeEntry (e : TxEntry) (q : List TxEntry) : List TxEntry := q.filter (fun x => x.order ≠ e.order)

/-- A NEED takes the own sums and share state of its start bit (R149). -/
def State.freshFrame (s : State) : TxFrame → TxFrame
  | .need _ _ => .need s.share.state s.share.own
  | f => f

/-- An attempt begins at its start bit. -/
def State.attempt (e : TxEntry) (s : State) : State :=
  let f := s.freshFrame e.frame
  s.setLine { s.line with
    queue := replaceEntry { e with frame := f, sending := true } s.line.queue
    phase := .sending (s.clock + bitLength s.address f) [] }

/-- TRANSMIT_ATTEMPT (R150). -/
def execTransmitAttempt (s : State) : Host.Outcome State Fault Refusal :=
  whileRunning s fun s =>
    match s.line.phase, firstWaiting s.line.queue with
    | .idle, some e => s.attempt e
    | _, _ => s

/-- The entry being sent. -/
def sentEntry (q : List TxEntry) : Option TxEntry := q.find? (fun e => e.sending)

/-- The record of a CLAIM entry that left the queue undecided ends, and claims may be handed again (R83, R78). -/
def State.claimGone (toFront : Bool) (f : TxFrame) (s : State) : State :=
  match f with
  | .claim tag op slot _ _ => (s.endOwnClaim toFront tag op slot).handClaims
  | _ => s

/-- An entry of a lost or broken attempt waits again, or is withdrawn where that is due (R83, R150, R153). -/
def State.backToWaiting (e : TxEntry) (s : State) : State :=
  if e.withdraw then
    (s.setLine { s.line with queue := removeEntry e s.line.queue }).claimGone false e.frame
  else s.setLine { s.line with queue := replaceEntry { e with sending := false } s.line.queue }

/-- ARBITRATION_LOST (R150): the station becomes a receiver of the winning frame, from the bits it has read. -/
def execArbitrationLost (s : State) : Host.Outcome State Fault Refusal :=
  whileRunning s fun s =>
    match s.line.phase, sentEntry s.line.queue with
    | .sending _ read, some e => (s.setLine { s.line with phase := .receiving read }).backToWaiting e
    | _, _ => s

/-- A broken attempt: the station drives six dominant bits, and the entry's failed attempts rise; at 8 the frame is dropped and
counted (R151). -/
def State.breakAttempt (e : TxEntry) (s : State) : State :=
  let s := s.setLine { s.line with phase := .breaking breakBits }
  if failedLimit ≤ e.failed + 1 then
    (s.setLine { s.line with queue := removeEntry e s.line.queue }.countLost).claimGone true e.frame
  else s.backToWaiting { e with failed := e.failed + 1 }

/-- BIT_ERROR (R151). -/
def execBitError (s : State) : Host.Outcome State Fault Refusal :=
  whileRunning s fun s =>
    match s.line.phase, sentEntry s.line.queue with
    | .sending _ _, some e => s.breakAttempt e
    | _, _ => s

/-- The own frame is handed by R147 as if received: a CLAIM to the Claim Unit, others to no block (R152). -/
def State.ownFrame (f : TxFrame) (s : State) : State :=
  match f with
  | .claim tag op slot amount duration => s.completeOwnClaim tag op slot amount duration
  | _ => s

/-- An attempt reaches the end of its end field: the entry leaves the queue (R152). -/
def State.completeAttempt (e : TxEntry) (s : State) : State :=
  (s.setLine { s.line with queue := removeEntry e s.line.queue, phase := .ended idleAfterFrame }).ownFrame e.frame

/-- TRANSMIT_COMPLETE (R152). -/
def execTransmitComplete (s : State) : Host.Outcome State Fault Refusal :=
  whileRunning s fun s =>
    match s.line.phase, sentEntry s.line.queue with
    | .sending t _, some e => (s.reach t).completeAttempt e
    | _, _ => s

end Sys2Proof.Machine
end

