-- ==== Sys2Proof/Machine/Restart.lean ====
section
/-! DEFINITION. The station restart that a RESTART permit causes (R165, R166), stage by stage. -/

namespace Sys2Proof.Machine

/-- Stage 2: the Share Unit's restart values, and a computation under the LISTEN cap (R66). -/
def State.restartShare (s : State) : State :=
  let t : State := { s with share := { s.share with
    peerHeard := false, listenCount := 0, silenceAt := none, reportAt := momentAfter s.clock s.cfg.reportPeriod
    peers := #v[none, none, none, none, none, none, none, none], ceilings := [], floorShort := false } }
  (t.changeShare .listen).compute false

/-- A slot of the Latch Driver at a restart (R86). -/
def State.restartLatch (i : SlotNo) (s : State) : State :=
  match (s.latch.get i).state with
  | .withdrawWait _ => s.learnLatch i
  | .throwWait => s.learnLatch i
  | .withdrawing _ => s.setLatch i { s.latch.get i with learnAtEnd := true }
  | .throwing _ => s.setLatch i { s.latch.get i with learnAtEnd := true }
  | _ => s

/-- The Claim Unit's restart values (R87): admitted own claim records and the tag counter are kept. -/
def State.restartClaims (s : State) : State :=
  { s with
    line := { s.line with queue := withdrawWaiting s.line.queue }
    claims := { s.claims with
      requests := [], own := s.claims.own.filter (fun c => c.expires.isSome), entries := [], retryHold := none } }

/-- Stage 3: the Claim Unit and the Latch Driver; R of 0 reaches the Share Unit. -/
def State.restartPulses (s : State) : State := (forSlots allSlots State.restartLatch s.restartClaims).reportReserve

/-- The runs of a slot finish with RESTARTED: the head run at its step, queued runs at 0 (R126). -/
def State.reportRestarted (i : SlotNo) : List Run → State → State
  | [], s => s
  | r :: rs, s => rs.foldl (fun t x => t.reportRun i x .restarted 0) (s.reportRun i r .restarted r.step)

/-- Stage 4 on one slot. -/
def State.restartPlan (i : SlotNo) (s : State) : State :=
  let p := s.plans.slots.get i
  (s.reportRestarted i p.runs).setPlan i { p with runs := [], floor := 0 }

/-- Stage 4: the Plan Engine (R126). -/
def State.restartPlans (s : State) : State :=
  let t := forSlots allSlots State.restartPlan s
  ({ t with plans := { t.plans with table := [] } } : State).settled

/-- Stage 5 on one lane (R142). -/
def State.restartLane (l : LaneNo) (s : State) : State :=
  let t := s.setLane l { s.lanes.table.get l with faults := 0 }
  match (t.lanes.table.get l).state with
  | .attached i _ => t.detachLane l i
  | .retired => t.moveLane l (.scrubbing (momentAfter t.clock t.cfg.scrubTime))
  | _ => t

/-- Stage 5: the Lane Switch (R142). -/
def State.restartLanes (s : State) : State :=
  allLanes.foldl (fun t l => t.restartLane l) { s with lanes := { s.lanes with waitList := [] } }

/-- The five stages in order; the LEAVE is handed first (R50). -/
def State.restartStages (s : State) : State :=
  (s.hand .leave).restartShare.restartPulses.restartPlans.restartLanes

/-- The PERMIT frames that waited are judged in line order, up to one that causes a restart of its own (R99). -/
def judgeWaiting : List (Source × List Byte) → State → State
  | [], s => s
  | (src, p) :: rest, s =>
    if s.custody.restartDue then { s with custody := { s.custody with waiting := (src, p) :: rest } }
    else judgeWaiting rest (s.judgePermit (permitOf src p))

/-- The restart is complete, and the Custody Unit takes permits again. -/
def State.completeRestart (s : State) : State :=
  judgeWaiting s.custody.waiting { s with custody := { s.custody with restartDue := false, waiting := [] } }

/-- STATION_RESTART (R165): caused by a RESTART permit alone. -/
def execStationRestart (s : State) : Host.Outcome State Fault Refusal :=
  whileRunning s fun s => if s.custody.restartDue = true then s.restartStages.completeRestart else s

end Sys2Proof.Machine
end

