-- ==== Sys2Proof/Machine/Loader.lean ====
section
/-! DEFINITION. The Start-up Loader (chapter 9): power-on, pin reset, straps, the configuration record and the end of
reset. -/

namespace Sys2Proof.Machine

/-! ## The blocks' values for power-on and pin reset -/

/-- A slot's input pins, which no reset moves; the Slot Monitor's fields are those of R16. -/
def MonitorSlot.pinsOf (m : MonitorSlot) : MonitorSlot :=
  { presentPin := m.presentPin, boltPin := m.boltPin, codePin := m.codePin, voltPin := m.voltPin, currPin := m.currPin }

/-- A lane's sideband pins, which no reset moves; the Lane Switch's fields are those of R141. -/
def Lane.pinsOf (l : Lane) : Lane := { enumPin := l.enumPin, faultPin := l.faultPin }

/-- The Slot Monitor's fields of a slot at the end of reset: R16, and R1 for an unfitted slot. -/
def MonitorSlot.atStart (fitted : Bool) (m : MonitorSlot) : MonitorSlot :=
  if fitted then m.pinsOf else { m.pinsOf with fitted := false, presentIn := .released, startSettled := true }

/-- Every block at its values for power-on and pin reset; the model's clock, queue and free-value counter go on, and the
loader's items stay until they are read again (R159). -/
def State.clearBlocks (s : State) : State :=
  { clock := s.clock
    baseAt := s.baseAt
    mode := .heldInReset
    address := s.address
    cfg := s.cfg
    defaulted := s.defaulted
    monitor := sixOf (fun i => (s.monitor.get i).pinsOf)
    lanes := { table := #v[(s.lanes.table.get 0).pinsOf, (s.lanes.table.get 1).pinsOf, (s.lanes.table.get 2).pinsOf,
      (s.lanes.table.get 3).pinsOf] }
    wire := s.wire
    free := s.free
    pending := s.pending }

/-- Every block starts on a record (R164): the values of R16, R38, R65, R85, R105, R129, R141 and R156, and the
CONFIG_DEFAULTED notice where the record is the default record (R163). The 1 ms time base begins at this moment, and the first
sample is taken 1 ms later (R11). -/
def State.startBlocks (cfg : Record) (defaulted : Bool) (s : State) : State :=
  let c := s.clearBlocks
  let t : State := { c with
    baseAt := s.clock
    mode := .running
    cfg := cfg
    defaulted := defaulted
    monitor := sixOf (fun i => (c.monitor.get i).atStart (cfg.fittedMask.getLsbD i.val))
    share := { reportAt := momentAfter s.clock cfg.reportPeriod }
    lamps := { position := 0, nextAt := momentAfter s.clock blinkMs } }
  if defaulted then t.notice .configDefaulted none 0 else t

/-! ## POWER_ON, PIN_RESET and RESET_RELEASE (R159, R160) -/

/-- POWER_ON (R159). -/
def execPowerOn (s : State) : Host.Outcome State Fault Refusal := .next s.clearBlocks

/-- PIN_RESET (R159): a pulse shorter than 10 µs is disregarded. -/
def execPinReset (lowMicros : Nat) (s : State) : Host.Outcome State Fault Refusal :=
  .next (if lowMicros < pinResetMicros then s else s.clearBlocks)

/-- A strap tied low reads 0; one tied high or left open reads 1 (R160). -/
def strapBit : Strap → Nat
  | .low => 0
  | .high => 1
  | .leftOpen => 1

/-- The station address that the straps give, strap 2 most significant (R160). -/
def strapAddress (strap2 strap1 strap0 : Strap) : Station :=
  Fin.ofNat 8 (4 * strapBit strap2 + 2 * strapBit strap1 + strapBit strap0)

/-- RESET_RELEASE (R160): the straps are read and the read of the memory begins. -/
def execResetRelease (strap2 strap1 strap0 : Strap) (s : State) : Host.Outcome State Fault Refusal :=
  .next (match s.mode with
    | .heldInReset => { s with address := strapAddress strap2 strap1 strap0, mode := .loading s.clock }
    | _ => s)

/-! ## The configuration record (R158, R161, R162) -/

/-- A value clamped into a range. -/
def clamp (low high v : Nat) : Nat := min high (max low v)

/-- Sum of bytes 0..51 modulo 65536 (R158). -/
def recordSum (b : List Byte) : Nat := ((b.take 52).map BitVec.toNat).sum % 65536

/-- The record of a good read, every field clamped (R162). -/
def recordOf (b : List Byte) : Record :=
  { cartCeiling := clamp 400 16000 (wordAt b 0)
    guard := clamp 0 400 (wordAt b 2)
    stations := clamp 1 8 (byteAt b 4)
    reportPeriod := clamp 100 2000 (wordAt b 5)
    reportDelta := clamp 4 64 (byteAt b 7)
    rampStep := clamp 4 96 (byteAt b 8)
    entryAllowance := clamp 0 96 (byteAt b 9)
    pulseAllowance := clamp 24 480 (wordAt b 10)
    withdrawAmount := clamp 8 60 (byteAt b 12)
    throwAmount := clamp 8 60 (byteAt b 13)
    pulseDuration := clamp 100 1000 (wordAt b 14)
    fittedMask := BitVec.ofNat 6 (byteAt b 16)
    laneCount := clamp 0 4 (byteAt b 17)
    laneCeiling := clamp 500 3000 (wordAt b 18)
    maintenance := clamp 100 500 (wordAt b 20) / 25 * 25
    urgentCharge := clamp 0 5000 (wordAt b 22)
    checkoutCharge := clamp 0 10000 (wordAt b 24)
    openWindow := clamp 2 60 (byteAt b 26)
    emptyOpen := clamp 10 600 (wordAt b 27)
    insertSettle := clamp 1 10 (byteAt b 29)
    insertDebounce := clamp 100 2000 (wordAt b 30)
    extractDebounce := clamp 100 2000 (wordAt b 32)
    glitchWidth := clamp 0 15 (byteAt b 34)
    restartHold := clamp 50 1000 (wordAt b 35)
    scrubTime := clamp 100 2000 (wordAt b 37)
    laneIdle := clamp 1 60 (byteAt b 39)
    enumTimeout := clamp 1 60 (byteAt b 40)
    reenumGrace := clamp 5 120 (byteAt b 41)
    sourceLevels := #v[clamp 0 3 (byteAt b 42), clamp 0 3 (byteAt b 43), clamp 0 3 (byteAt b 44), clamp 0 3 (byteAt b 45),
      clamp 0 3 (byteAt b 46), clamp 0 3 (byteAt b 47), clamp 0 3 (byteAt b 48), clamp 0 3 (byteAt b 49)]
    noticeMask := BitVec.ofNat 12 (wordAt b 50) }

/-- The read completed and its checksum agrees (R161); a read of any other length has not completed
(notes/assumptions/15.md). -/
def recordGood (b : List Byte) : Bool := decide (b.length = 54) && decide (recordSum b = wordAt b 52)

/-- The end of reset on the bytes read (R161, R164). -/
def State.endReset (b : List Byte) (s : State) : State :=
  if recordGood b then s.startBlocks (recordOf b) false else s.startBlocks {} true

/-- CONFIG_READ_TIMEOUT (R161): the memory is missing, at once or at 50 ms after the read began. -/
def execConfigReadTimeout (how : MemoryFailure) (s : State) : Host.Outcome State Fault Refusal :=
  .next (match s.mode, how with
    | .loading began, .notCompleteIn50ms => (s.reach (momentAfter began configReadMs)).startBlocks {} true
    | .loading _, _ => s.startBlocks {} true
    | _, _ => s)

/-- END_OF_RESET (R164). -/
def execEndOfReset (bytes : List Byte) (s : State) : Host.Outcome State Fault Refusal :=
  .next (match s.mode with
    | .loading _ => s.endReset bytes
    | _ => s)

end Sys2Proof.Machine
end

