-- ==== Sys2Proof/Machine/Flags.lean ====
section
/-! DEFINITION. The indicator outputs (chapter 10): the slot lamps with their time base, and the shelf attention line. -/

namespace Sys2Proof.Machine

inductive LampColour
  | green
  | amber
  deriving DecidableEq, Repr

/-- The pattern of a lamp (R167). -/
inductive LampPattern
  | dark
  | steady (colour : LampColour)
  | fast (colour : LampColour)
  | slow (colour : LampColour)
  deriving DecidableEq, Repr

/-- The latch is OPEN. -/
def LatchState.isOpen : LatchState → Bool
  | .opened _ _ => true
  | _ => false

def Phase.isFaulted : Phase → Bool
  | .faulted _ _ => true
  | _ => false

def Phase.isDeferred : Phase → Bool
  | .deferred _ => true
  | _ => false

/-- Row 2 of the lamp table. -/
def State.lampAlarm (s : State) (i : SlotNo) : Bool :=
  decide ((s.latch.get i).state = .jammed) || (s.custody.slots.get i).hold.any (fun h => decide (h.reason = .tamper))
    || (s.charge.get i).phase.isFaulted

/-- The pattern of a slot's lamp: the first row whose condition the slot meets (R167); dark in reset (R159). -/
def State.lampPattern (s : State) (i : SlotNo) : LampPattern :=
  if s.mode ≠ .running then .dark
  else if s.fitted i = false then .dark
  else if s.lampAlarm i then .fast .amber
  else if (s.latch.get i).state.isOpen then .fast .green
  else if (s.headRun i).isSome then .slow .green
  else if (s.charge.get i).phase.isDeferred then .slow .amber
  else if s.isPresent i = false then .dark
  else if (s.charge.get i).ready then .steady .green
  else .steady .amber

/-- What a pattern shows where the lamp time base stands: 125 ms lit and 125 ms dark, or 500 ms each (R167). -/
def LampPattern.shows (position : Nat) : LampPattern → Option LampColour
  | .dark => none
  | .steady c => some c
  | .fast c => if position % 2 = 0 then some c else none
  | .slow c => if position % 8 < 4 then some c else none

/-- What a slot's lamp shows now. -/
def State.lamp (s : State) (i : SlotNo) : Option LampColour := (s.lampPattern i).shows s.lamps.position

/-- A lane calls for attention (R140, R168). -/
def LaneState.calls : LaneState → Bool
  | .faulted _ => true
  | .retired => true
  | _ => false

/-- The shelf attention line (R168): released in reset (R159). -/
def State.attention (s : State) : Bool :=
  decide (s.mode = .running) &&
    (allSlots.any (fun i => (s.custody.slots.get i).hold.isSome)
      || allLanes.any (fun l => s.configured l && (s.lanes.table.get l).state.calls)
      || decide (s.share.state = .isolated) || decide (s.share.state = .clashed) || s.defaulted)

/-- The lamp time base takes its next eighth. -/
def LampBase.tick (l : LampBase) : LampBase := { position := (l.position + 1) % 8, nextAt := momentAfter l.nextAt blinkMs }

/-- LAMP_BLINK_TICK (R167). -/
def execLampBlinkTick (s : State) : Host.Outcome State Fault Refusal :=
  whileRunning s fun s => { s.reach s.lamps.nextAt with lamps := s.lamps.tick }

end Sys2Proof.Machine
end

