-- ==== Sys2Proof/Machine/Hear.lean ====
section
/-! DEFINITION. The Cart Line, one bit time after another (R143 to R145, R150, R151, R156): what the station drives, what it
reads, and the events of the Line Interface that come of it. -/

namespace Sys2Proof.Machine

/-- What the station lets the line show in the coming bit time, true recessive: the next bit of its own attempt, the dominant
bits of a bit error, or nothing driven. -/
def State.ownLevel (s : State) : Bool :=
  match s.line.phase with
  | .sending _ read =>
    match sentEntry s.line.queue with
    | some e => (lineBits e.frame.cls s.address.val e.frame.payload)[read.length]?.getD true
    | none => true
  | .breaking _ => false
  | .busy _ => true
  | .ended _ => true
  | .idle => true
  | .receiving _ => true

/-- The level that every station reads: dominant if any station drives (R143). -/
def State.lineLevel (s : State) : Bool := s.ownLevel && s.wire.headD true

/-- The phase of the line after a bit time in which this level was read: a dominant bit on an idle line is a start bit, and one
among the recessive bits that are waited for starts their count again. -/
def LinePhase.hear (bit : Bool) : LinePhase → LinePhase
  | .busy left => .busy (if bit then left - 1 else idleAfterBreak)
  | .ended left => .ended (left - 1)
  | .idle => if bit then .idle else .receiving [false]
  | .sending u read => .sending u (read ++ [bit])
  | .receiving read => .receiving (read ++ [bit])
  | .breaking left => if left ≤ 1 then .busy idleAfterBreak else .breaking (left - 1)

/-- The command that a good frame is, by its class and by the kind or subject it carries (R147, R158). -/
def frameCommand (cls : Nat) (src : Source) (p : List Byte) : Instr :=
  match cls with
  | 0 => .claim src p
  | 1 => .ceiling src p
  | 2 =>
    match byteAt p 0 with
    | 0 => .need src p
    | 1 => .leave src p
    | _ => .otherFrame 2 src p
  | 3 =>
    match byteAt p 1 with
    | 1 => .permitOpen src p
    | 2 => .permitReturn src p
    | 3 => .permitDue src p
    | 4 => .permitHold src p
    | 5 => .permitLift src p
    | 6 => .permitRestart src p
    | _ => .permitUnknownKind src p
  | 5 =>
    match byteAt p 0 with
    | 0 => .plan src p
    | 1 => .go src p
    | 2 => .cancel src p
    | 3 => .unpin src p
    | 4 => .build src p
    | _ => .otherFrame 5 src p
  | 6 =>
    match byteAt p 1 with
    | 0 => .queryStation src p
    | 1 => .querySlot src p
    | _ => .otherFrame 6 src p
  | c => .otherFrame (Fin.ofNat 8 c) src p

/-- What the bits of a frame being received come to now (R145). -/
def receptionDue (read : List Bool) : List Instr :=
  match receive read with
  | .unfinished => []
  | .abandoned => [.frameAbandoned]
  | .badCrc => [.crcError]
  | .good cls src p => [frameCommand cls (Fin.ofNat 16 src) p]

/-- What the last bit of the own attempt of an entry comes to now, its end field ending at the bit time u (R150 to R152). -/
def State.attemptDue (e : TxEntry) (u : Nat) (read : List Bool) (s : State) : List Instr :=
  match compareLast e.frame.cls s.address.val e.frame.payload read with
  | .agrees => if u ≤ s.clock then [.transmitComplete] else []
  | .lost => [.arbitrationLost]
  | .bitError => [.bitError]

/-- The Line Interface's event that is due now: the line becomes idle, an attempt begins where a frame waits, and an attempt or a
reception comes to an end. -/
def State.lineDue (s : State) : List Instr :=
  match s.line.phase with
  | .busy left => if left = 0 then [.lineIdle] else []
  | .ended left => if left = 0 then [.lineIdle] else []
  | .idle => if (firstWaiting s.line.queue).isSome then [.transmitAttempt] else []
  | .sending u read =>
    match sentEntry s.line.queue with
    | some e => s.attemptDue e u read
    | none => []
  | .receiving read => receptionDue read
  | .breaking _ => []

end Sys2Proof.Machine
end

