-- ==== Sys2Proof/Machine/Tick.lean ====
section
/-! DEFINITION. What happens with no command waiting (notes/assumptions/1.md): an event that is due becomes a command; when none
is due, one bit time passes, in which the line is read (R143), and the inputs are sampled once every millisecond (R3, R12, R14,
R131). -/

namespace Sys2Proof.Machine

/-! ## Sampling -/

/-- A glitch filter takes one sample (R3). -/
def GlitchRun.sample (pin : Bool) (g : GlitchRun) : GlitchRun :=
  if g.level = pin ∧ g.run ≠ 0 then { g with run := g.run + 1 } else { level := pin, run := 1 }

/-- A voltage or current sample clamped into range (R12). -/
def clampSample (most : Nat) (v : Int) : Nat := min most v.toNat

/-- One millisecond of a fitted slot (R3, R4, R12, R14). -/
def MonitorSlot.sample (m : MonitorSlot) : MonitorSlot :=
  if m.fitted then
    { m with
      presentRun := m.presentRun.sample m.presentPin
      boltRun := m.boltRun.sample m.boltPin
      samples := m.samples + 1
      voltSum := m.voltSum + clampSample 12000 m.voltPin
      ampSum := m.ampSum + clampSample 4000 m.currPin
      periodSum := if m.periodEnd.isSome then m.periodSum + clampSample 4000 m.currPin else m.periodSum }
  else m

/-- One millisecond of a lane whose sideband lines are sampled (R131). -/
def Lane.sample (sampled : Bool) (l : Lane) : Lane :=
  if sampled then { l with enumRun := l.enumRun.sample l.enumPin, faultRun := l.faultRun.sample l.faultPin } else l

/-- A bit time that ends a whole number of milliseconds after a moment. -/
def State.wholeMsFrom (t : Nat) (s : State) : Bool := (s.clock - t) % bitsPerMs = 0

/-- The slots take their samples: the steps of the 1 ms time base are the whole milliseconds from the end of reset on (R11, R16,
R164). -/
def State.sampleSlots (s : State) : State :=
  if s.wholeMsFrom s.baseAt then { s with monitor := sixOf (fun i => (s.monitor.get i).sample) } else s

/-- The lane takes a sample in this bit time: its sideband lines are sampled, and a whole number of milliseconds has passed since
their sampling started, so that a first filtered value comes 5 ms after it (R131, R139, notes/assumptions/34.md). -/
def State.laneStep (s : State) (l : LaneNo) : Bool :=
  s.laneSampled l && s.wholeMsFrom (s.lanes.table.get l).sampledFrom

/-- The lanes take their samples. -/
def State.sampleLanes (s : State) : State :=
  { s with lanes := { s.lanes with
      table := #v[(s.lanes.table.get 0).sample (s.laneStep 0), (s.lanes.table.get 1).sample (s.laneStep 1),
        (s.lanes.table.get 2).sample (s.laneStep 2), (s.lanes.table.get 3).sample (s.laneStep 3)] } }

/-! ## Events that are due -/

def due (now : Nat) (t : Option Nat) (c : Instr) : List Instr := if t.any (fun x => x ≤ now) then [c] else []

def levelOf (b : Bool) : Level := if b then .asserted else .released

def readingOf (b : Bool) : BoltReading := if b then .thrown else .withdrawn

/-- The filters of a slot that change now (R3, R4). -/
def filterDue (glitch : Nat) (i : SlotNo) (m : MonitorSlot) : List Instr :=
  (if m.fitted = true ∧ glitch < m.presentRun.run ∧ m.presentIn ≠ filteredOf (levelOf m.presentRun.level) then
    [Instr.filteredPresentChange i (levelOf m.presentRun.level)] else [])
  ++ (if m.fitted = true ∧ glitch < m.boltRun.run ∧ m.boltIn ≠ boltSenseOf (readingOf m.boltRun.level) then
    [Instr.filteredBoltSenseChange i (readingOf m.boltRun.level)] else [])

/-- The Slot Monitor's timers of a slot. -/
def monitorDue (now : Nat) (i : SlotNo) (m : MonitorSlot) : List Instr :=
  (match m.presence with
    | .settling t _ => due now (some t) (.insertion i m.codePin)
    | .present t => due now t (.extraction i)
    | .empty => [])
  ++ (if m.fitted = true ∧ 10 ≤ m.samples then [Instr.measurementPublication i m.voltSum m.ampSum] else [])
  ++ due now m.periodEnd (.integrationPeriodEnd i m.periodSum)

/-- The Charge Controller's timers of a slot. -/
def chargeDue (now : Nat) (i : SlotNo) (c : ChargeSlot) : List Instr :=
  (match c.phase with
    | .detect t => due now t (.detectTimerExpiry i)
    | .charging .bulk => due now (c.downSince.map (momentAfter · taperDwellMs)) (.taperDwell i)
    | .charging .taper =>
        due now (c.downSince.map (momentAfter · toppedDwellMs)) (.toppedDwell i)
          ++ due now (c.upSince.map (momentAfter · taperToBulkMs)) (.taperToBulkDwell i)
    | .charging .topped => due now (c.upSince.map (momentAfter · toppedToBulkMs)) (.toppedToBulkDwell i)
    | .restart _ t _ => due now (some t) (.restartHoldExpiry i)
    | .faulted _ t => due now t (.retryWaitExpiry i)
    | _ => [])
  ++ (if c.phase.judgesCurrent then due now (c.overSince.map (momentAfter · overCurrentMs)) (.overCurrentCheck i) else [])

/-- The Latch Driver's timers of a slot. -/
def latchDue (now : Nat) (i : SlotNo) (l : LatchSlot) : List Instr :=
  match l.state with
  | .withdrawWait t => due now (some t) (.claimWaitTimeout i)
  | .withdrawing t => due now (some t) (.withdrawPulseEnd i)
  | .opened _ t => due now (some t) (.openTimerExpiry i)
  | .throwing t => due now (some t) (.throwPulseEnd i)
  | _ => []

/-- The due mark of a slot. -/
def custodyDue (now : Nat) (i : SlotNo) (c : CustodySlot) : List Instr :=
  if c.duePassed then [] else due now c.dueUntil (.dueUntilPasses i)

/-- The timer of a slot's head run. -/
def runDue (now : Nat) (i : SlotNo) (r : Option RunState) : List Instr :=
  match r with
  | some (.enumWait t) => due now (some t) (.enumerationTimeout i)
  | some (.goWait t) => due now t (.awaitTimeout i)
  | some (.pause t) => due now (some t) (.pauseExpiry i)
  | some (.reenumWait _ t) => due now (some t) (.reenumGraceExpiry i)
  | _ => []

/-- The sideband filters of a lane that change now (R131). -/
def sidebandDue (sampled : Bool) (l : LaneNo) (x : Lane) : List Instr :=
  (if sampled = true ∧ sidebandGlitch < x.enumRun.run ∧ x.enumIn ≠ filteredOf (levelOf x.enumRun.level) then
    [Instr.enumeratedChange l (levelOf x.enumRun.level)] else [])
  ++ (if sampled = true ∧ sidebandGlitch < x.faultRun.run ∧ x.faultIn ≠ filteredOf (levelOf x.faultRun.level) then
    [if x.faultRun.level then Instr.laneFault l else Instr.faultLineReleased l] else [])

/-- The timer of a lane; the wake timers of all lanes are one event. -/
def laneDue (now : Nat) (l : LaneNo) (x : Lane) : List Instr :=
  match x.state with
  | .ready t => due now t (.idleTimerExpiry l)
  | .scrubbing t => due now (some t) (.scrubTimerExpiry l)
  | .faulted t => due now t (.faultClearExpiry l)
  | _ => []

/-- The Share Unit's timers. -/
def State.shareDue (s : State) : List Instr :=
  due s.clock (some s.share.reportAt) .reportTimerExpiry
  ++ (if s.share.earlyDue then due s.clock (s.share.lastNeed.map (momentAfter · needSpacingMs)) .earlyNeedSpacing else [])
  ++ (if s.share.state = .joined then due s.clock s.share.silenceAt .silenceTimerExpiry else [])
  ++ allStations.flatMap (fun a =>
    match s.share.peers.get a with
    | some p => if p.live then due s.clock (some (momentAfter p.heardAt s.agingMs)) (.peerAging a) else []
    | none => [])
  ++ s.share.ceilings.flatMap (fun r => due s.clock r.expires (.ceilingRecordExpiry r.source))

/-- Every event that is due now, in the fixed order of notes/assumptions/1.md. -/
def State.dueCommands (s : State) : List Instr :=
  due s.clock s.nextClaimExpiry .claimExpiry
  ++ s.lineDue
  ++ allSlots.flatMap (fun i => filterDue s.cfg.glitchWidth i (s.monitor.get i))
  ++ allLanes.flatMap (fun l => sidebandDue (s.laneSampled l) l (s.lanes.table.get l))
  ++ allSlots.flatMap (fun i => monitorDue s.clock i (s.monitor.get i))
  ++ allSlots.flatMap (fun i => chargeDue s.clock i (s.charge.get i))
  ++ allSlots.flatMap (fun i => latchDue s.clock i (s.latch.get i))
  ++ allSlots.flatMap (fun i => custodyDue s.clock i (s.custody.slots.get i))
  ++ due s.clock s.nextWake .wakeTimerExpiry
  ++ allLanes.flatMap (fun l => laneDue s.clock l (s.lanes.table.get l))
  ++ allSlots.flatMap (fun i => runDue s.clock i (s.headState i))
  ++ s.shareDue
  ++ (if s.custody.restartDue then [.stationRestart] else [])
  ++ due s.clock (some s.lamps.nextAt) .lampBlinkTick

/-- The read of the configuration memory that is not complete in time (R161). -/
def State.loadDue (s : State) : List Instr :=
  match s.mode with
  | .loading began => due s.clock (some (momentAfter began configReadMs)) (.configReadTimeout .notCompleteIn50ms)
  | _ => []

/-- The events that are due now. -/
def State.dueNow (s : State) : List Instr := if s.mode = .running then s.dueCommands else s.loadDue

/-! ## One bit time -/

/-- One bit time passes: every station reads the line, and the samples that fall here are taken. -/
def State.passBit (s : State) : State :=
  let t : State := { s with clock := s.clock + 1, wire := s.wire.tail }
  if s.mode = .running then
    ({ t with line := { s.line with phase := s.line.phase.hear s.lineLevel } } : State).sampleSlots.sampleLanes
  else t

/-- The first event that is due becomes a command, without time; when none is due, one bit time passes. -/
def State.bitTime (s : State) : State :=
  match s.dueNow with
  | [] => s.passBit
  | c :: _ => { s with pending := s.pending ++ [c] }

end Sys2Proof.Machine
end

