-- ==== Sys2Proof/Machine/Dispatch.lean ====
section
/-! DEFINITION. One arm for each command of the table: its one meaning. -/

namespace Sys2Proof.Machine

def exec (i : Instr) (s : State) : Host.Outcome State Fault Refusal :=
  match i with
  | .powerOn => Sys2Proof.Machine.execPowerOn s
  | .pinReset lowMicros => Sys2Proof.Machine.execPinReset lowMicros s
  | .resetRelease strap2 strap1 strap0 => Sys2Proof.Machine.execResetRelease strap2 strap1 strap0 s
  | .configReadTimeout how => Sys2Proof.Machine.execConfigReadTimeout how s
  | .endOfReset bytes => Sys2Proof.Machine.execEndOfReset bytes s
  | .filteredPresentChange slot level => Sys2Proof.Machine.execFilteredPresentChange slot level s
  | .filteredBoltSenseChange slot reading => Sys2Proof.Machine.execFilteredBoltSenseChange slot reading s
  | .insertion slot code => Sys2Proof.Machine.execInsertion slot code s
  | .extraction slot => Sys2Proof.Machine.execExtraction slot s
  | .measurementPublication slot voltageSum currentSum => Sys2Proof.Machine.execMeasurementPublication slot voltageSum currentSum s
  | .overCurrentCheck slot => Sys2Proof.Machine.execOverCurrentCheck slot s
  | .integrationPeriodEnd slot currentSum => Sys2Proof.Machine.execIntegrationPeriodEnd slot currentSum s
  | .detectTimerExpiry slot => Sys2Proof.Machine.execDetectTimerExpiry slot s
  | .taperDwell slot => Sys2Proof.Machine.execTaperDwell slot s
  | .toppedDwell slot => Sys2Proof.Machine.execToppedDwell slot s
  | .taperToBulkDwell slot => Sys2Proof.Machine.execTaperToBulkDwell slot s
  | .toppedToBulkDwell slot => Sys2Proof.Machine.execToppedToBulkDwell slot s
  | .restartHoldExpiry slot => Sys2Proof.Machine.execRestartHoldExpiry slot s
  | .retryWaitExpiry slot => Sys2Proof.Machine.execRetryWaitExpiry slot s
  | .dueUntilPasses slot => Sys2Proof.Machine.execDueUntilPasses slot s
  | .reportTimerExpiry => Sys2Proof.Machine.execReportTimerExpiry s
  | .earlyNeedSpacing => Sys2Proof.Machine.execEarlyNeedSpacing s
  | .silenceTimerExpiry => Sys2Proof.Machine.execSilenceTimerExpiry s
  | .peerAging peer => Sys2Proof.Machine.execPeerAging peer s
  | .ceilingRecordExpiry source => Sys2Proof.Machine.execCeilingRecordExpiry source s
  | .need source payload => Sys2Proof.Machine.execNeed source payload s
  | .leave source payload => Sys2Proof.Machine.execLeave source payload s
  | .ceiling source payload => Sys2Proof.Machine.execCeiling source payload s
  | .otherFrame cls source payload => Sys2Proof.Machine.execOtherFrame cls source payload s
  | .claim source payload => Sys2Proof.Machine.execClaim source payload s
  | .claimExpiry => Sys2Proof.Machine.execClaimExpiry s
  | .withdrawPulseEnd slot => Sys2Proof.Machine.execWithdrawPulseEnd slot s
  | .throwPulseEnd slot => Sys2Proof.Machine.execThrowPulseEnd slot s
  | .claimWaitTimeout slot => Sys2Proof.Machine.execClaimWaitTimeout slot s
  | .openTimerExpiry slot => Sys2Proof.Machine.execOpenTimerExpiry slot s
  | .permitOpen source payload => Sys2Proof.Machine.execPermitOpen source payload s
  | .permitReturn source payload => Sys2Proof.Machine.execPermitReturn source payload s
  | .permitDue source payload => Sys2Proof.Machine.execPermitDue source payload s
  | .permitHold source payload => Sys2Proof.Machine.execPermitHold source payload s
  | .permitLift source payload => Sys2Proof.Machine.execPermitLift source payload s
  | .permitRestart source payload => Sys2Proof.Machine.execPermitRestart source payload s
  | .permitUnknownKind source payload => Sys2Proof.Machine.execPermitUnknownKind source payload s
  | .stationRestart => Sys2Proof.Machine.execStationRestart s
  | .plan source payload => Sys2Proof.Machine.execPlan source payload s
  | .go source payload => Sys2Proof.Machine.execGo source payload s
  | .cancel source payload => Sys2Proof.Machine.execCancel source payload s
  | .build source payload => Sys2Proof.Machine.execBuild source payload s
  | .unpin source payload => Sys2Proof.Machine.execUnpin source payload s
  | .enumerationTimeout slot => Sys2Proof.Machine.execEnumerationTimeout slot s
  | .awaitTimeout slot => Sys2Proof.Machine.execAwaitTimeout slot s
  | .pauseExpiry slot => Sys2Proof.Machine.execPauseExpiry slot s
  | .reenumGraceExpiry slot => Sys2Proof.Machine.execReenumGraceExpiry slot s
  | .enumeratedChange lane level => Sys2Proof.Machine.execEnumeratedChange lane level s
  | .laneFault lane => Sys2Proof.Machine.execLaneFault lane s
  | .faultLineReleased lane => Sys2Proof.Machine.execFaultLineReleased lane s
  | .faultClearExpiry lane => Sys2Proof.Machine.execFaultClearExpiry lane s
  | .wakeTimerExpiry => Sys2Proof.Machine.execWakeTimerExpiry s
  | .idleTimerExpiry lane => Sys2Proof.Machine.execIdleTimerExpiry lane s
  | .scrubTimerExpiry lane => Sys2Proof.Machine.execScrubTimerExpiry lane s
  | .queryStation source payload => Sys2Proof.Machine.execQueryStation source payload s
  | .querySlot source payload => Sys2Proof.Machine.execQuerySlot source payload s
  | .frameAbandoned => Sys2Proof.Machine.execFrameAbandoned s
  | .crcError => Sys2Proof.Machine.execCrcError s
  | .lineIdle => Sys2Proof.Machine.execLineIdle s
  | .transmitAttempt => Sys2Proof.Machine.execTransmitAttempt s
  | .arbitrationLost => Sys2Proof.Machine.execArbitrationLost s
  | .bitError => Sys2Proof.Machine.execBitError s
  | .transmitComplete => Sys2Proof.Machine.execTransmitComplete s
  | .lampBlinkTick => Sys2Proof.Machine.execLampBlinkTick s

end Sys2Proof.Machine
end

