-- ==== Sys2Proof/Safety.lean ====
section
/-! DEFINITION. The terms in which claims speak: the parts that a frame tells apart, how a charge record follows its
allocation, and the conditions that every step keeps. -/

namespace Sys2Proof.Machine

/-! ## Frames -/

/-- The parts of the state that a frame tells apart. -/
inductive Part
  | clock | baseAt | mode | address | cfg | defaulted | monitor | charge
  /-- share state, peer heard, silence timer, report timer, LISTEN count -/
  | standing
  | peers | ceilings | reserve
  /-- own sums, last sent sum, last NEED time, early NEED due, target, allocations, floor-short -/
  | share
  | latch
  /-- latch request queue, own claim records, tag counter, retry hold -/
  | requests
  | claimList
  /-- holds and due marks -/
  | custody
  /-- verdict under construction, waiting permits, restart due -/
  | permits
  /-- run queues, progress, build tags, plan floors and the plan table -/
  | runs
  | required
  | lanes
  /-- transmit queue, enqueue order, lost-frame count -/
  | queue
  | errors | linePhase | lamps
  /-- what the other stations put on the line -/
  | wire
  | free | pending
  deriving DecidableEq, Repr

/-- A part is the same in two states. -/
def same (s t : State) : Part → Prop
  | .clock => t.clock = s.clock
  | .baseAt => t.baseAt = s.baseAt
  | .mode => t.mode = s.mode
  | .address => t.address = s.address
  | .cfg => t.cfg = s.cfg
  | .defaulted => t.defaulted = s.defaulted
  | .monitor => t.monitor = s.monitor
  | .charge => t.charge = s.charge
  | .standing => t.share.state = s.share.state ∧ t.share.peerHeard = s.share.peerHeard ∧
      t.share.silenceAt = s.share.silenceAt ∧ t.share.reportAt = s.share.reportAt ∧
      t.share.listenCount = s.share.listenCount
  | .peers => t.share.peers = s.share.peers
  | .ceilings => t.share.ceilings = s.share.ceilings
  | .reserve => t.share.reserve = s.share.reserve
  | .share => t.share.own = s.share.own ∧ t.share.lastSum = s.share.lastSum ∧ t.share.lastNeed = s.share.lastNeed ∧
      t.share.earlyDue = s.share.earlyDue ∧ t.share.target = s.share.target ∧ t.share.alloc = s.share.alloc ∧
      t.share.floorShort = s.share.floorShort ∧ t.share.slotAlloc = s.share.slotAlloc
  | .latch => t.latch = s.latch
  | .requests => t.claims.requests = s.claims.requests ∧ t.claims.own = s.claims.own ∧
      t.claims.tagCounter = s.claims.tagCounter ∧ t.claims.retryHold = s.claims.retryHold
  | .claimList => t.claims.entries = s.claims.entries
  | .custody => t.custody.slots = s.custody.slots
  | .permits => t.custody.verdict = s.custody.verdict ∧ t.custody.waiting = s.custody.waiting ∧
      t.custody.restartDue = s.custody.restartDue
  | .runs => t.plans.slots = s.plans.slots ∧ t.plans.table = s.plans.table
  | .required => t.plans.required = s.plans.required
  | .lanes => t.lanes = s.lanes
  | .queue => t.line.queue = s.line.queue ∧ t.line.nextOrder = s.line.nextOrder ∧ t.line.lost = s.line.lost
  | .errors => t.line.errors = s.line.errors
  | .linePhase => t.line.phase = s.line.phase
  | .lamps => t.lamps = s.lamps
  | .wire => t.wire = s.wire
  | .free => t.free = s.free
  | .pending => t.pending = s.pending

/-- Every part outside ps is the same in t as in s. -/
def Keeps (ps : List Part) (s t : State) : Prop := ∀ p, p ∉ ps → same s t p

/-- What a change of demand or budget can move: the charge records, through their allocations, and the Share Unit's own
results, with the NEED, READY and FLOOR_SHORT frames that they hand (R49, R58 to R64). -/
def powerParts : List Part := [.charge, .share, .queue]

/-- The places other than i of a vector are the same. -/
def OthersSame {α : Type} {n : Nat} (i : Fin n) (v w : Vector α n) : Prop := ∀ k, k ≠ i → w.get k = v.get k

/-- The commands of the Start-up Loader's own family, the only ones that change its items (chapter 9). -/
def isLoaderCommand : Instr → Bool
  | .powerOn => true
  | .pinReset _ => true
  | .resetRelease _ _ _ => true
  | .configReadTimeout _ => true
  | .endOfReset _ => true
  | _ => false

/-- The events by which a slot's phase, its measured power, its Q or its due mark changes, and with them its demand (R28). -/
def changesDemand : Instr → Bool
  | .insertion _ _ => true
  | .extraction _ => true
  | .measurementPublication _ _ _ => true
  | .integrationPeriodEnd _ _ => true
  | .overCurrentCheck _ => true
  | .retryWaitExpiry _ => true
  | .detectTimerExpiry _ => true
  | .taperDwell _ => true
  | .toppedDwell _ => true
  | .taperToBulkDwell _ => true
  | .toppedToBulkDwell _ => true
  | .restartHoldExpiry _ => true
  | .dueUntilPasses _ => true
  | _ => false

/-- The class, source and payload that a received-frame command carries. -/
def frameOf : Instr → Option (Nat × Source × List Byte)
  | .need src p => some (2, src, p)
  | .leave src p => some (2, src, p)
  | .ceiling src p => some (1, src, p)
  | .otherFrame c src p => some (c.val, src, p)
  | .claim src p => some (0, src, p)
  | .permitOpen src p => some (3, src, p)
  | .permitReturn src p => some (3, src, p)
  | .permitDue src p => some (3, src, p)
  | .permitHold src p => some (3, src, p)
  | .permitLift src p => some (3, src, p)
  | .permitRestart src p => some (3, src, p)
  | .permitUnknownKind src p => some (3, src, p)
  | .plan src p => some (5, src, p)
  | .go src p => some (5, src, p)
  | .cancel src p => some (5, src, p)
  | .build src p => some (5, src, p)
  | .unpin src p => some (5, src, p)
  | .queryStation src p => some (6, src, p)
  | .querySlot src p => some (6, src, p)
  | _ => none

/-- The parts that a command outside the Start-up Loader's family can move: all but the start of the time base, the mode, the
address, the configuration record, the defaulted flag, the line's input and the waiting commands. -/
def runningParts : List Part :=
  [.clock, .monitor, .charge, .standing, .peers, .ceilings, .reserve, .share, .latch, .requests, .claimList, .custody,
    .permits, .runs, .required, .lanes, .queue, .errors, .linePhase, .lamps, .free]

/-- Every entry of the transmit queue is still there, but for CLAIM entries, which may be withdrawn, and NEED entries, which
may take new content (R149, R153). -/
def Grows (s t : State) : Prop :=
  ∀ e ∈ s.line.queue, e.frame.isClaim = false → e.frame.isNeed = false → e ∈ t.line.queue

/-- The frame waits in the transmit queue. -/
def State.Waits (f : TxFrame) (s : State) : Prop := ∃ e ∈ s.line.queue, e.frame = f ∧ e.sending = false

/-- A notice of a reported kind that was handed where a general place was free waits in the queue (R148, R169). -/
def Noticed (s t : State) (kind : NoticeKind) (slot : Option SlotNo) (detail : Nat) : Prop :=
  s.cfg.noticeMask.getLsbD (noticeCode kind - 1) = true → s.line.generalUsed < generalPlaces →
    t.Waits (.notice kind slot detail)

/-! ## A charge record that follows its allocation -/

/-- Where a change of allocation can take a phase (phase summary of chapter 2). -/
def Phase.Follows : Phase → Phase → Prop
  | .off, q => q = .off
  | .detect _, q => ∃ t, q = .detect t
  | .charging ph, q => q = .charging ph ∨ q = .deferred ph
  | .deferred ph, q => q = .charging ph ∨ q = .deferred ph
  | .restart b t h, q => q = .restart b t h
  | .faulted k t, q => q = .faulted k t

/-- The phases whose output and set-point follow the allocation. -/
def Phase.heedsAllocation : Phase → Bool
  | .detect _ => true
  | .charging _ => true
  | .deferred _ => true
  | _ => false

/-- d can come from c by changes of allocation alone. -/
structure ChargeSlot.Follows (c d : ChargeSlot) : Prop where
  phase : c.phase.Follows d.phase
  path : d.path = c.path
  working : d.working = c.working
  retries : d.retries = c.retries
  ready : d.ready = c.ready ∨ ∃ ph, ph ≠ .bulk ∧ (d.phase = .charging ph ∨ d.phase = .deferred ph) ∧ d.ready = true
  downSince : d.downSince = c.downSince ∨ d.downSince = none
  upSince : d.upSince = c.upSince ∨ d.upSince = none
  overSince : d.overSince = c.overSince
  unheeding : c.phase.heedsAllocation = false →
    d.outputOn = c.outputOn ∧ d.setPoint = c.setPoint ∧ d.heldPower = c.heldPower

/-- Every other slot's charge record follows its allocation. -/
def OthersFollow (i : SlotNo) (s t : State) : Prop := ∀ k, k ≠ i → (s.charge.get k).Follows (t.charge.get k)

/-- Every slot's charge record follows its allocation. -/
def AllFollow (s t : State) : Prop := ∀ k, (s.charge.get k).Follows (t.charge.get k)

/-! ## Results of a slot's events -/

/-- The two counts of the Line Interface stand within 0..65535 (R155). -/
def State.CountsWithin (s : State) : Prop := s.line.errors ≤ maxCount ∧ s.line.lost ≤ maxCount

/-- A frame was handed between s and t: it waits in the queue, or it was dropped and counted (R148). -/
def Handed (f : TxFrame) (s t : State) : Prop :=
  s.CountsWithin → t.Waits f ∨ s.line.lost < t.line.lost ∨ t.line.lost = maxCount

/-- A notice of a reported kind was handed between s and t: it waits, or it was dropped and counted (R148, R169). -/
def NoticeHanded (s t : State) (kind : NoticeKind) (slot : Option SlotNo) (detail : Nat) : Prop :=
  s.cfg.noticeMask.getLsbD (noticeCode kind - 1) = true → Handed (.notice kind slot detail) s t

/-- LOCKED and WITHDRAW_WAIT: the bolt is thrown and a tablet that moves has been moved against it (R74). -/
def LatchState.guards : LatchState → Bool
  | .locked => true
  | .withdrawWait _ => true
  | _ => false

/-- A SETTLING that is marked found (R5). -/
def Presence.isFound : Presence → Bool
  | .settling _ found => found
  | _ => false

/-- The phases in which over-voltage is judged while the output is on (R35). -/
def Phase.judgesVoltage : Phase → Bool
  | .detect _ => true
  | .charging _ => true
  | _ => false

/-- The latch state that a learning gives now (R67, R73). -/
def State.learntState (s : State) (i : SlotNo) : LatchState :=
  match (s.monitor.get i).boltIn with
  | .thrown => .locked
  | .withdrawn =>
    if s.isPresent i then .opened .window (momentAfter s.clock (s.cfg.openWindow * 1000))
    else .opened .emptyOpen (momentAfter s.clock (s.cfg.emptyOpen * 1000))
  | .unknown => .unlearned

/-- Slot i's latch record after its start has settled or its first bolt value has come: learnt where it was unlearned and
both are held (R67). -/
def State.learntAtStart (s : State) (i : SlotNo) (old : LatchSlot) : LatchSlot :=
  if old.state = .unlearned ∧ (s.monitor.get i).fitted = true ∧ (s.monitor.get i).boltIn ≠ .unknown ∧
      (s.monitor.get i).startSettled = true then
    { old with state := s.learntState i, attempt := 1 }
  else old

/-- d is c on entering a charging phase with allocation p: charging where the conversion reaches the phase's minimum, else
DEFERRED (R29, R30, R37). -/
structure ChargeSlot.Enters (cfg : Record) (m : MonitorSlot) (p : Nat) (dest : ChargePhase) (c d : ChargeSlot) : Prop where
  kept : d.path = c.path ∧ d.working = c.working ∧ d.retries = c.retries ∧ d.demand = c.demand ∧ d.overSince = c.overSince
  dwells : d.downSince = none ∧ d.upSince = none
  phase : if phaseMinimum cfg dest ≤ convert cfg m.cable c p then
      d.phase = .charging dest ∧ d.outputOn = true ∧ d.setPoint = convert cfg m.cable c p ∧
        d.ready = (c.ready || dest != .bulk) ∧ d.heldPower = c.heldPower
    else
      d.phase = .deferred dest ∧ d.outputOn = false ∧ d.setPoint = 0 ∧ d.ready = c.ready ∧
        d.heldPower = if c.outputOn then c.working.value * m.amps / 250 else c.heldPower

/-- Between s and t slot i entered a charging phase at the moment u: t is the settled state of one in which the slot's record is
that on the entry and no other record has moved; and nothing but power has moved beside it. -/
structure EntersAt (s t : State) (i : SlotNo) (dest : ChargePhase) (u : Nat) : Prop where
  clock : t.clock = max s.clock u
  entered : ∃ v : State, t = v.settled ∧
    ChargeSlot.Enters s.cfg (s.monitor.get i) (s.share.slotAlloc.get i) dest (s.charge.get i) (v.charge.get i) ∧
    OthersSame i s.charge v.charge ∧ Keeps [.clock, .charge, .queue] s v ∧ (v.charge.get i).Follows (t.charge.get i)
  ready : (s.charge.get i).ready = false → dest ≠ .bulk →
    phaseMinimum s.cfg dest ≤ convert s.cfg (s.monitor.get i).cable (s.charge.get i) (s.share.slotAlloc.get i) →
    Noticed s t .ready (some i) (s.monitor.get i).q
  others : OthersFollow i s t
  frame : Keeps (.clock :: powerParts) s t

/-- d is c on entry to RESTART at the moment now, on a path and a working voltage; in OFF and FAULTED a lane event moves the path
alone, or the path and the voltage. The power measured where the output goes off is held, and the demand in force becomes the
held demand (R20, R30, R32, R33). -/
def ChargeSlot.Restarts (cfg : Record) (now amps : Nat) (path : Path) (v : Volts) (c d : ChargeSlot) : Prop :=
  let dark := fun (back : ChargePhase) (held : Demand) =>
    { c with
      phase := .restart back (now + cfg.restartHold * 250) held, path := path, working := v, outputOn := false, setPoint := 0
      heldPower := if c.outputOn then c.working.value * amps / 250 else c.heldPower
      downSince := none, upSince := none, demand := d.demand }
  d = match c.phase with
    | .off => { c with path := path, demand := d.demand }
    | .detect _ => dark .bulk c.demand
    | .charging ph => dark ph c.demand
    | .deferred back => dark back c.demand
    | .restart back _ held => dark back held
    | .faulted _ _ => { c with path := path, working := v, demand := d.demand }

/-- A lane detach taken by slot i's charge record: CLASS path and, where the class has one, the class voltage (R32; a free value
where it has none, notes/assumptions/10.md). -/
def Detached (s t : State) (i : SlotNo) : Prop :=
  ∃ v, (∀ w, classVolts (s.monitor.get i).cable = some w → v = w) ∧
    (s.charge.get i).Restarts s.cfg s.clock (s.monitor.get i).amps .cable v (t.charge.get i)

/-- d is c's answer to the allocation p handed at the moment now (R21, R29, R30). -/
def ChargeSlot.Answers (cfg : Record) (now : Nat) (m : MonitorSlot) (p : Nat) (c d : ChargeSlot) : Prop :=
  let off : ChargeSlot :=
    { c with
      outputOn := false, setPoint := 0
      heldPower := if c.outputOn then c.working.value * m.amps / 250 else c.heldPower }
  let enough := fun ph => phaseMinimum cfg ph ≤ convert cfg m.cable c p
  match c.phase with
  | .off => d = c
  | .detect _ =>
    d =
      if 10 ≤ p then
        if c.outputOn then c
        else { c with phase := .detect (some (now + 1000 * 250)), outputOn := true, setPoint := 500 }
      else if c.outputOn then { off with phase := .detect none }
      else c
  | .charging ph =>
    (enough ph → d = { c with setPoint := convert cfg m.cable c p }) ∧
    (¬ enough ph → d = { off with phase := .deferred ph, downSince := none, upSince := none })
  | .deferred back =>
    (enough back → d =
      { c with
        phase := .charging back, outputOn := true, setPoint := convert cfg m.cable c p, downSince := none, upSince := none
        ready := c.ready || decide (back ≠ .bulk) }) ∧
    (¬ enough back → d = c)
  | .restart _ _ _ => d = c
  | .faulted _ _ => d = c

/-- The station allocation of t is divided over the demands that the slots of s hold, tier by tier, and each slot answers an
allocation that has changed (R37, R63, R64). -/
structure Divided (s t : State) : Prop where
  shares : ∀ k,
    let f := sumSix (fun j => (s.charge.get j).demand.floor)
    let u := sumSix (fun j => (s.charge.get j).demand.urgent)
    let n := sumSix (fun j => (s.charge.get j).demand.normal)
    let d := (s.charge.get k).demand
    t.share.slotAlloc.get k =
      if t.share.alloc ≤ f then d.floor * t.share.alloc / f
      else
        d.floor + (if u ≤ t.share.alloc - f then d.urgent else d.urgent * (t.share.alloc - f) / u)
          + (if n ≤ t.share.alloc - f - u then d.normal else d.normal * (t.share.alloc - f - u) / n)
  kept : ∀ k, t.share.slotAlloc.get k = s.share.slotAlloc.get k → t.charge.get k = s.charge.get k
  answers : ∀ k, t.share.slotAlloc.get k ≠ s.share.slotAlloc.get k →
    (s.charge.get k).Answers s.cfg s.clock (s.monitor.get k) (t.share.slotAlloc.get k) (t.charge.get k)
  ready : ∀ k, (s.charge.get k).ready = false → (t.charge.get k).ready = true →
    NoticeHanded s t .ready (some k) (s.monitor.get k).q

/-- Demand rounds are made, one after another, until no slot's demand differs from the one it last handed (R28, R58). -/
inductive Settles : State → State → Prop
  | rest {s : State} (still : s.demandsMoved = false) : Settles s s
  | round {s t : State} (moved : s.demandsMoved = true) (more : Settles s.demandRound t) : Settles s t

/-- Pieces of work are done, one after another, each one's own consequences before the next, until none is left (R107). -/
inductive WorkEnds : State → List Work → State → Prop
  | done {s : State} : WorkEnds s [] s
  | piece {s t : State} {w : Work} {ws : List Work} (more : WorkEnds (s.workStep w).1 ((s.workStep w).2 ++ ws) t) :
      WorkEnds s (w :: ws) t

/-! ## Conditions that every step keeps -/

/-- The output and set-point of a slot are those its phase and its allocation p call for (R21, R29 to R32, R36). -/
def ChargeSlot.Right (cfg : Record) (cable : CableClass) (p : Nat) (c : ChargeSlot) : Prop :=
  match c.phase with
  | .off => c.outputOn = false ∧ c.setPoint = 0
  | .detect t =>
    c.working = .five ∧
      ((detectFloor ≤ p ∧ c.outputOn = true ∧ c.setPoint = detectCurrent ∧ t.isSome) ∨
        (p < detectFloor ∧ c.outputOn = false ∧ c.setPoint = 0 ∧ t = none))
  | .charging ph => c.outputOn = true ∧ c.setPoint = convert cfg cable c p ∧ phaseMinimum cfg ph ≤ c.setPoint
  | .deferred back => c.outputOn = false ∧ c.setPoint = 0 ∧ convert cfg cable c p < phaseMinimum cfg back
  | .restart _ _ _ => c.outputOn = false ∧ c.setPoint = 0
  | .faulted _ _ => c.outputOn = false ∧ c.setPoint = 0

/-- A cable class that charges. -/
def CableClass.Valid (c : CableClass) : Prop := c = .classA ∨ c = .classB ∨ c = .classC

/-- A slot that charges, or may charge again without an insertion, has a valid class (R19, R36). -/
def ChargeSlot.Served (cable : CableClass) (c : ChargeSlot) : Prop :=
  match c.phase with
  | .off => True
  | .faulted _ none => True
  | _ => cable.Valid

/-- Every slot's power stage is set as its allocation calls for. -/
def State.PowerRight (s : State) : Prop :=
  ∀ k, (s.charge.get k).Right s.cfg (s.monitor.get k).cable (s.share.slotAlloc.get k) ∧
    (s.charge.get k).Served (s.monitor.get k).cable

/-- The own sums are the slots' demands, the target is the computation's over the values held, the station allocation is
within it and the slot allocations within the station allocation (R47, R58 to R63). -/
def State.ShareRight (s : State) : Prop :=
  s.share.own = s.sums ∧ s.share.target = s.cappedTarget ∧ s.share.alloc ≤ s.share.target ∧
  sumSix (fun k => s.share.slotAlloc.get k) ≤ s.share.alloc

/-- While the own sums differ from the last sent sum by more than the report delta, an early NEED is due, and so a NEED has been
handed before (R49). -/
def State.NeedRight (s : State) : Prop :=
  s.share.lastSum + s.cfg.reportDelta < s.share.own.total ∨ s.share.own.total + s.cfg.reportDelta < s.share.lastSum →
    s.share.earlyDue = true ∧ s.share.lastNeed.isSome = true

/-- The admitted live claims keep the three conditions of R80. -/
def State.ClaimsWithin (s : State) : Prop :=
  sumAmounts (liveClaims s.clock s.claims.entries) ≤ s.cfg.pulseAllowance ∧
  (∀ owner, ((liveClaims s.clock s.claims.entries).filter (fun e => e.owner = owner)).length ≤ ownClaimLimit) ∧
  (liveClaims s.clock s.claims.entries).length ≤ liveClaimLimit

/-- An own claim for the slot and operation is admitted, with an expiry not before u. -/
def State.OwnsLive (s : State) (i : SlotNo) (op : LatchOp) (u : Nat) : Prop :=
  ∃ c ∈ s.claims.own, c.slot = i ∧ c.op = op ∧ ∃ e, c.expires = some e ∧ u ≤ e

/-- While a bolt is driven, an own claim for that slot and operation is admitted and live to the pulse's end (R69). -/
def State.BoltsClaimed (s : State) : Prop :=
  ∀ i u, s.clock < u →
    ((s.latch.get i).state = .withdrawing u → s.OwnsLive i .withdraw u) ∧
    ((s.latch.get i).state = .throwing u → s.OwnsLive i .throw_ u)

/-! ## The start of the blocks -/

/-- Every field of a configuration record stands in its range (table of R162). -/
structure Record.InRange (r : Record) : Prop where
  cartCeiling : 400 ≤ r.cartCeiling ∧ r.cartCeiling ≤ 16000
  guard : r.guard ≤ 400
  stations : 1 ≤ r.stations ∧ r.stations ≤ 8
  reportPeriod : 100 ≤ r.reportPeriod ∧ r.reportPeriod ≤ 2000
  reportDelta : 4 ≤ r.reportDelta ∧ r.reportDelta ≤ 64
  rampStep : 4 ≤ r.rampStep ∧ r.rampStep ≤ 96
  entryAllowance : r.entryAllowance ≤ 96
  pulseAllowance : 24 ≤ r.pulseAllowance ∧ r.pulseAllowance ≤ 480
  withdrawAmount : 8 ≤ r.withdrawAmount ∧ r.withdrawAmount ≤ 60
  throwAmount : 8 ≤ r.throwAmount ∧ r.throwAmount ≤ 60
  pulseDuration : 100 ≤ r.pulseDuration ∧ r.pulseDuration ≤ 1000
  laneCount : r.laneCount ≤ 4
  laneCeiling : 500 ≤ r.laneCeiling ∧ r.laneCeiling ≤ 3000
  maintenance : 100 ≤ r.maintenance ∧ r.maintenance ≤ 500 ∧ 25 ∣ r.maintenance
  urgentCharge : r.urgentCharge ≤ 5000
  checkoutCharge : r.checkoutCharge ≤ 10000
  openWindow : 2 ≤ r.openWindow ∧ r.openWindow ≤ 60
  emptyOpen : 10 ≤ r.emptyOpen ∧ r.emptyOpen ≤ 600
  insertSettle : 1 ≤ r.insertSettle ∧ r.insertSettle ≤ 10
  insertDebounce : 100 ≤ r.insertDebounce ∧ r.insertDebounce ≤ 2000
  extractDebounce : 100 ≤ r.extractDebounce ∧ r.extractDebounce ≤ 2000
  glitchWidth : r.glitchWidth ≤ 15
  restartHold : 50 ≤ r.restartHold ∧ r.restartHold ≤ 1000
  scrubTime : 100 ≤ r.scrubTime ∧ r.scrubTime ≤ 2000
  laneIdle : 1 ≤ r.laneIdle ∧ r.laneIdle ≤ 60
  enumTimeout : 1 ≤ r.enumTimeout ∧ r.enumTimeout ≤ 60
  reenumGrace : 5 ≤ r.reenumGrace ∧ r.reenumGrace ≤ 120
  sourceLevels : ∀ k, r.sourceLevels.get k ≤ 3

/-- A slot as it comes out of reset on a record: R16 for a fitted slot, R1 for an unfitted one. -/
structure MonitorSlot.Started (fitted : Bool) (m : MonitorSlot) : Prop where
  fitted_eq : m.fitted = fitted
  presence : m.presence = .empty
  cable : m.cable = .absent
  presentIn : m.presentIn = if fitted then .unknown else .released
  boltIn : m.boltIn = .unknown
  startSettled : m.startSettled = !fitted
  measured : m.volts = 0 ∧ m.amps = 0 ∧ m.samples = 0
  charge : m.q = 0 ∧ m.remainder = 0 ∧ m.periodEnd = none

/-- t is a part whose blocks have just started on its record (R164): each block at the values of its own chapter. -/
structure State.Started (t : State) : Prop where
  running : t.mode = .running
  base : t.baseAt = t.clock
  monitor : ∀ i, (t.monitor.get i).Started (t.cfg.fittedMask.getLsbD i.val)
  charge : ∀ i, t.charge.get i = {}
  share : t.share = { reportAt := momentAfter t.clock t.cfg.reportPeriod }
  latch : ∀ i, t.latch.get i = {}
  claims : t.claims = {}
  custody : t.custody = {}
  plans : t.plans = {}
  waitList : t.lanes.waitList = []
  lane : ∀ l, (t.lanes.table.get l).state = .dormant ∧ (t.lanes.table.get l).faults = 0 ∧
    (t.lanes.table.get l).enumIn = .unknown ∧ (t.lanes.table.get l).faultIn = .unknown
  line : t.line.errors = 0 ∧ t.line.lost = 0 ∧ t.line.phase = .busy 10
  frames : t.line.queue.map (·.frame) = if t.defaulted then [.notice .configDefaulted none 0] else []

/-- Every output of the shelf is at its reset value (R159). -/
def State.OutputsReleased (t : State) : Prop :=
  (∀ i, (t.charge.get i).outputOn = false ∧ (t.charge.get i).setPoint = 0 ∧ t.boltDrive i = none ∧ t.lamp i = none) ∧
  (∀ l, t.lanePower l = false ∧ ∀ i, t.crosspoint i l = false) ∧
  t.attention = false ∧ t.ownLevel = true

/-- The sampled input pins and the sideband pins are as they were, and so is what the other stations put on the line. -/
def PinsSame (s t : State) : Prop :=
  (∀ i, (t.monitor.get i).presentPin = (s.monitor.get i).presentPin ∧ (t.monitor.get i).boltPin = (s.monitor.get i).boltPin ∧
    (t.monitor.get i).codePin = (s.monitor.get i).codePin ∧ (t.monitor.get i).voltPin = (s.monitor.get i).voltPin ∧
    (t.monitor.get i).currPin = (s.monitor.get i).currPin) ∧
  (∀ l, (t.lanes.table.get l).enumPin = (s.lanes.table.get l).enumPin ∧
    (t.lanes.table.get l).faultPin = (s.lanes.table.get l).faultPin) ∧
  t.wire = s.wire

/-- The bytes read hold a record: all 54 of them, and bytes 52 and 53 are the sum of bytes 0..51 modulo 65536 (R161). -/
def HoldsRecord (bytes : List Byte) : Prop :=
  bytes.length = 54 ∧ ((bytes.take 52).map BitVec.toNat).sum % 65536 = wordAt bytes 52

/-! ## Results of the Share Unit's and the Claim Unit's events -/

/-- Between s and t computations have been made, at most one of them at a report timer expiry, which may raise the station
allocation by rise (R58 to R64). -/
structure SharesComputed (rise : Nat) (s t : State) : Prop where
  floorShort : t.share.floorShort = decide (t.available ≤ t.totals.floor)
  target : t.share.target = t.cappedTarget
  within : t.share.alloc ≤ t.share.target
  ramp : t.share.alloc ≤ s.share.alloc + rise
  slots : sumSix (fun k => t.share.slotAlloc.get k) ≤ t.share.alloc
  own : s.share.own = s.sums → t.share.own = t.sums
  follow : AllFollow s t

/-- The same by one computation, with the settling that follows it, over the slots' own records and the demands and allocations
they held (R58). -/
structure Computed (rise : Nat) (s t : State) : Prop extends SharesComputed rise s t where
  made : ∃ (v : State) (b : Bool), v.charge = s.charge ∧ v.share.slotAlloc = s.share.slotAlloc ∧ v.share.own = s.share.own ∧
    v.share.alloc = s.share.alloc ∧ v.monitor = s.monitor ∧ v.plans.slots = s.plans.slots ∧ v.cfg = s.cfg ∧ v.clock = t.clock ∧
    t.charge = (v.compute b).charge ∧ t.share.slotAlloc = (v.compute b).share.slotAlloc ∧
    t.share.alloc = (v.compute b).share.alloc ∧ t.share.own = (v.compute b).share.own

/-- The state once a good frame from a source has passed the watch of peers and the clash check (R145, R147): what its
consumer finds. -/
def State.watched (src : Source) (s : State) : State := ({ s with line := s.line.frameEnds } : State).watch src

/-- A station that has given up the frame of these bits waits for the rest of 10 recessive bit times in a row: each that it has
read since the last dominant bit is one of them (R143). -/
def AwaitsIdle (read : List Bool) (t : State) : Prop :=
  ∃ left, t.line.phase = .busy left ∧
    ∀ before n, read = before ++ List.replicate n true → before.getLast? ≠ some true → left = 10 - n

/-- What a request asks for, whether or not it is claimed. -/
def Request.asked (r : Request) : SlotNo × LatchOp × Nat := (r.slot, r.op, r.attempt)

/-- The requests of t are those of s, in the same order, with one for the slot and operation at the tail (R77). -/
def Asks (i : SlotNo) (op : LatchOp) (attempt : Nat) (s t : State) : Prop :=
  t.claims.requests.map Request.asked = s.claims.requests.map Request.asked ++ [(i, op, attempt)]

/-- The latch state on entering OPEN now (R70, R73). -/
def State.openState (s : State) (i : SlotNo) : LatchState :=
  if s.isPresent i then .opened .window (momentAfter s.clock (s.cfg.openWindow * 1000))
  else .opened .emptyOpen (momentAfter s.clock (s.cfg.emptyOpen * 1000))

/-- The transmit queue stands in class order, and within a class in enqueue order, and no two entries share an order
(R148). -/
def State.QueueRight (s : State) : Prop :=
  s.line.queue.Pairwise (fun x y => x.frame.cls < y.frame.cls ∨ (x.frame.cls = y.frame.cls ∧ x.order < y.order)) ∧
  (s.line.queue.map (·.order)).Nodup ∧ ∀ e ∈ s.line.queue, e.order < s.line.nextOrder

/-- The tables and queues stay within their places, and no verdict is under construction between two events (R55, R78, R90,
R100, R108, R148). -/
def State.PlacesWithin (s : State) : Prop :=
  s.share.ceilings.length ≤ 4 ∧ s.claims.own.length ≤ 2 ∧ s.plans.table.length ≤ 8 ∧ s.line.generalUsed ≤ 10 ∧
    s.custody.verdict = []

/-- The conditions of R80 on a claim of this owner and amount at a moment, against the claim list. -/
def State.Fits (s : State) (at_ : Nat) (owner : Source) (amount : Nat) : Prop :=
  ((liveClaims at_ s.claims.entries).filter (fun x => x.owner = owner)).length < 2 ∧
  sumAmounts (liveClaims at_ s.claims.entries) + amount ≤ s.cfg.pulseAllowance ∧
  (liveClaims at_ s.claims.entries).length < 16

/-! ## Results of the Custody Unit's events -/

/-- The own slots in the scope of a PERMIT payload, ascending: base to limit, the limit clamped to 47 (R2, R88, R89). -/
def scopeSlots (a : Station) (p : List Byte) : List SlotNo :=
  allSlots.filter (fun i => decide (byteAt p 3 ≤ 6 * a.val + i.val ∧ 6 * a.val + i.val ≤ min (byteAt p 4) 47))

/-- The source carries the level: an address 8..15 whose source level is not 0 and not below it (R91). -/
def Trusts (cfg : Record) (src : Source) (level : Nat) : Prop :=
  ∃ k : Fin 8, src.val = 8 + k.val ∧ cfg.sourceLevels.get k ≠ 0 ∧ level ≤ cfg.sourceLevels.get k

/-- The outcome of a place of an OPEN or RETURN permit that carries no FORCE in force: checks 1 to 8 (R92 to R95). -/
def State.releaseAnswer (s : State) (kind : PermitKind) (level : Nat) (i : SlotNo) : Answer :=
  if s.fitted i = false then .unfitted
  else if (s.latch.get i).state ≠ .locked then .notLocked
  else if (s.custody.slots.get i).hold.any (fun h => level < h.level) then .held
  else if kind = .openSlot ∧ level < 3 ∧ s.isPresent i = false then .empty
  else if kind = .return_ ∧ (s.monitor.get i).presence ≠ .empty then .occupied
  else if (s.headRun i).isSome ∨ (s.laneOf i).isSome then .busy
  else if kind = .openSlot ∧ level = 1 ∧ s.plans.required ≠ none ∧ (s.plans.slots.get i).buildTag ≠ s.plans.required then
    .staleBuild
  else if kind = .openSlot ∧ level = 1 ∧ (s.charge.get i).ready = false then .notReady
  else .granted

/-- The outcome of a place of a level-3 OPEN or RETURN permit with FORCE: a busy slot is taken away from provisioning and granted
(R93). -/
def State.forceAnswer (s : State) (kind : PermitKind) (i : SlotNo) : Answer :=
  if s.releaseAnswer kind 3 i = .busy then .granted else s.releaseAnswer kind 3 i

/-- What every permit that has passed check 0 leaves: one verdict with one place for each slot of the scope, handed after the
effects; then the head runs of the scope that stand QUEUED are started, of which a run state has none (R89, R90, R100). -/
structure PermitJudged (s : State) (c : Instr) (src : Source) (p : List Byte) (answer : SlotNo → Answer) (ps : List Part)
    (u : State) : Prop where
  result : exec c s = .next (u.work ((scopeSlots s.address p).map Work.start))
  started : (∀ i ∈ scopeSlots s.address p, s.headState i ≠ some .queued) →
    u.work ((scopeSlots s.address p).map Work.start) = u
  verdict : ∀ first, (scopeSlots s.address p).head? = some first →
    Handed (.verdict (p.getD 0 0) src (6 * s.address.val + first.val) ((scopeSlots s.address p).map answer)) (s.watched src) u
  unit : u.custody.verdict = [] ∧ u.custody.restartDue = s.custody.restartDue ∧ u.custody.waiting = s.custody.waiting
  frame : Keeps (.permits :: .queue :: ps) (s.watched src) u

/-! ## Results of the Plan Engine's and the Lane Switch's events -/

/-- The plan table after one run of the plan p has finished: runs open falls by 1, and the record is freed at 0 (R110). -/
def tableWithout (p : PlanRecord) (table : List PlanRecord) : List PlanRecord :=
  if p.runsOpen ≤ 1 then table.erase p else table.replace p { p with runsOpen := p.runsOpen - 1 }

/-- The lane that a finished run takes from slot i with it, by the side that its end takes (R110, R121 to R125). -/
def State.laneTaken (s : State) (i : SlotNo) (side : LaneSide) : Option LaneNo :=
  match side, s.laneOf i with
  | .release, some (l, false) => some l
  | .force, some (l, _) => some l
  | _, _ => none

/-- Slot i loses the lane, if there is one, which scrubs; the Charge Controller takes the detach (R136). -/
structure LaneParts (s t : State) (i : SlotNo) (lane : Option LaneNo) : Prop where
  state : ∀ l, (t.lanes.table.get l).state =
    if lane = some l then .scrubbing (momentAfter s.clock s.cfg.scrubTime) else (s.lanes.table.get l).state
  faults : ∀ l, (t.lanes.table.get l).faults = (s.lanes.table.get l).faults
  path : lane.isSome = true → (t.charge.get i).path = .cable
  kept : lane = none → AllFollow s t
  others : OthersFollow i s t

/-- The lanes and the lane wait list agree (R130, R132): no slot waits twice, a waiting slot holds no lane and its head run is in
LANE_WAIT, and no slot holds two lanes. -/
def State.LanesRight (s : State) : Prop :=
  (s.lanes.waitList.map (·.1)).Nodup ∧
  (∀ w ∈ s.lanes.waitList, s.laneOf w.1 = none ∧ s.headState w.1 = some .laneWait) ∧
  ∀ l m i p q, (s.lanes.table.get l).state = .attached i p → (s.lanes.table.get m).state = .attached i q → l = m

/-- Some lane has moved from DORMANT to WAKING, sampled from then on (R131, notes/assumptions/34.md), and no lane in any other way
(but for those of except); the lowest-numbered DORMANT lanes wake first; while fewer lanes serve than slots wait, none that is
configured stays DORMANT; and no more wake than it takes (R133). -/
structure LanesWake (s t : State) (except : LaneNo → Prop) : Prop where
  moved : ∀ l, ¬ except l → t.lanes.table.get l = s.lanes.table.get l ∨
    ((s.lanes.table.get l).state = .dormant ∧ (t.lanes.table.get l).state = .waking (momentAfter t.clock 50) ∧
      (t.lanes.table.get l).sampledFrom = t.clock)
  enough : t.servingLanes < t.lanes.waitList.length → ∀ l, l.val < s.cfg.laneCount → (t.lanes.table.get l).state ≠ .dormant
  lowest : ∀ l m, t.lanes.table.get l ≠ s.lanes.table.get l →
    (t.lanes.table.get l).state = .waking (momentAfter t.clock 50) → m < l → (t.lanes.table.get m).state ≠ .dormant
  few : ∀ l, t.lanes.table.get l ≠ s.lanes.table.get l → (t.lanes.table.get l).state = .waking (momentAfter t.clock 50) →
    l.val < s.cfg.laneCount ∧ t.servingLanes ≤ t.lanes.waitList.length

/-- No READY lane stands beside a waiting slot (R134). -/
def State.GrantsMade (s : State) : Prop :=
  s.lanes.waitList ≠ [] → ∀ l, l.val < s.cfg.laneCount → (s.lanes.table.get l).state.isReady = false

/-- A slot with a lane, and one whose head run has left QUEUED, is PRESENT and LOCKED; a lane-attached slot stands on the lane's
path at 5 V; and the runs behind a head run are QUEUED (R109, R111, R130). -/
structure State.ServedRight (s : State) : Prop where
  attached : ∀ l i q, (s.lanes.table.get l).state = .attached i q →
    s.isPresent i = true ∧ (s.latch.get i).state = .locked ∧ (s.charge.get i).path = .lane ∧
      ((s.charge.get i).phase ≠ .off → (s.charge.get i).working = .five)
  head : ∀ i x, s.headState i = some x → x ≠ .queued → s.isPresent i = true ∧ (s.latch.get i).state = .locked
  tail : ∀ i, ∀ r ∈ (s.plans.slots.get i).runs.tail, r.state = .queued

/-- The plan table and the run queues agree (R108 to R110): at most 8 records, each with an id of its own, 1 to 8 steps and its
open runs counted; a slot queues at most one run of each, which stands at one of its steps. -/
structure State.RunsRight (s : State) : Prop where
  table : s.plans.table.length ≤ 8 ∧ (s.plans.table.map (·.id)).Nodup
  steps : ∀ p ∈ s.plans.table, 1 ≤ p.steps.length ∧ p.steps.length ≤ 8
  counted : ∀ p ∈ s.plans.table,
    p.runsOpen = sumSix (fun i => ((s.plans.slots.get i).runs.filter (fun r => r.plan = p.id)).length)
  queued : ∀ i, ((s.plans.slots.get i).runs.map (·.plan)).Nodup ∧
    ∀ r ∈ (s.plans.slots.get i).runs, ∃ p ∈ s.plans.table, p.id = r.plan ∧ 1 ≤ r.step ∧ r.step ≤ p.steps.length

/-- No request stands unclaimed for which a CLAIM frame is to be handed: two own claims are outstanding, the station is CLASHED or
a retry hold is in force where one does (R78). -/
def State.ClaimsHanded (s : State) : Prop :=
  (∀ r ∈ s.claims.requests, r.claimed = true) ∨ 2 ≤ s.claims.own.length ∨ s.share.state = .clashed ∨
    ∃ h, s.claims.retryHold = some h ∧ s.clock < h

/-- A retry hold ends with an admitted entry of the claim list (R81). -/
def State.HoldRight (s : State) : Prop :=
  ∀ h, s.claims.retryHold = some h → ∃ e ∈ s.claims.entries, e.admitted = true ∧ e.expiry = h

/-- A taken frame of class 5 that is not for this station, or comes from another address than 12 or 13 (R107, R138). -/
def State.ignoresClass5 (s : State) (src : Source) (p : List Byte) : Prop :=
  (src.val ≠ 12 ∧ src.val ≠ 13) ∨ byteAt p 1 ≠ s.address.val

/-- At most five equal bits stand in a row. -/
def NoSixEqual (bits : List Bool) : Prop := ∀ b : Bool, ¬ List.replicate 6 b <:+: bits

end Sys2Proof.Machine
end

