-- ==== Sys2Proof/Certificates/Slice0/Obligations.lean ====
section
/-! DEFINITION. The statements for the provers: what the commands of the SB6 do, by the numbered rules of its data book. -/

open Sys2Proof Sys2Proof.Machine

/-! ## The machine -/

/-- A step runs the command at the front of the queue with the queue's rest. Where none waits, the first event that is due
becomes a command, and with none due one bit time passes; that is the model's choice (notes/assumptions/1.md). -/
def Obligations.StepRunsFrontCommand : Prop :=
  ∀ (c : Instr) (s : State),
    step { s with pending := c :: s.pending } = exec c s ∧
    (s.dueNow = [] → step { s with pending := [] } = .next { s with pending := [] }.passBit) ∧
    ∀ d ds, s.dueNow = d :: ds → step { s with pending := [] } = .next { s with pending := [d] }

/-- Every command answers with a next state: none stops the part. The queue of waiting commands is left to the step, the clock
never goes back, and only the Start-up Loader's commands touch the mode, the start of the time base, the address, the record
and the defaulted flag; no other command acts before the end of reset (R159 to R164). That no command stops the part
(notes/assumptions/3.md) and that the blocks wait for the end of reset (notes/assumptions/6.md) is deduced. -/
def Obligations.EveryCommandAnswers : Prop :=
  ∀ (c : Instr) (s : State), ∃ t, exec c s = .next t ∧ t.pending = s.pending ∧ t.wire = s.wire ∧ s.clock ≤ t.clock ∧
    (isLoaderCommand c = false →
      t.mode = s.mode ∧ t.baseAt = s.baseAt ∧ t.address = s.address ∧ t.cfg = s.cfg ∧ t.defaulted = s.defaulted ∧
        (s.mode ≠ .running → t = s))

/-! ## Start-up Loader -/

/-- POWER_ON and PIN_RESET (R159): every block stops and every output is released; a pulse shorter than 10 µs is disregarded.
That every block takes its power-on values at once while the address, the record and the defaulted flag stay until they are read
again is deduced (notes/assumptions/6.md). -/
def Obligations.PowerOnAndPinResetReleaseOutputs : Prop :=
  ∀ (s : State) (low : Nat),
    (low < 10 → exec (.pinReset low) s = .next s) ∧
    ∃ t, exec .powerOn s = .next t ∧ (10 ≤ low → exec (.pinReset low) s = .next t) ∧
      t.mode = .heldInReset ∧ t.OutputsReleased ∧ PinsSame s t ∧ t.line.queue = [] ∧
      t.claims = {} ∧ t.custody = {} ∧ t.plans = {} ∧ t.share = {} ∧
      Keeps [.mode, .monitor, .charge, .standing, .peers, .ceilings, .reserve, .share, .latch, .requests, .claimList,
        .custody, .permits, .runs, .required, .lanes, .queue, .errors, .linePhase, .lamps] s t

/-- RESET_RELEASE, CONFIG_READ_TIMEOUT and END_OF_RESET (R160, R161, R163, R164): the straps give the address, an open strap
reading 1, and the read of the memory begins; then every block starts on the record read where its checksum agrees, and on the
default record, with the defaulted flag, the CONFIG_DEFAULTED notice and shelf attention, where it does not or the memory is
missing. The model's own: a release outside HELD IN RESET changes nothing (notes/assumptions/3.md), a read of other than 54
bytes gives the default record (notes/assumptions/15.md), the clock at a read that is not complete (notes/assumptions/4.md). -/
def Obligations.BlocksStartOnRecord : Prop :=
  (∀ (a b c : Strap) (s : State),
    (s.mode = .heldInReset → ∃ t, exec (.resetRelease a b c) s = .next t ∧ t.mode = .loading s.clock ∧
      t.address.val = (if a = .low then 0 else 4) + (if b = .low then 0 else 2) + (if c = .low then 0 else 1) ∧
      Keeps [.mode, .address] s t) ∧
    (s.mode ≠ .heldInReset → exec (.resetRelease a b c) s = .next s)) ∧
  (∀ (how : MemoryFailure) (s : State) (began : Nat), s.mode = .loading began →
     ∃ t, exec (.configReadTimeout how) s = .next t ∧ t.Started ∧ t.cfg = {} ∧ t.defaulted = true ∧ t.attention = true ∧
       t.address = s.address ∧ PinsSame s t ∧ t.pending = s.pending ∧
       t.clock = (if how = .notCompleteIn50ms then max s.clock (began + 50 * 250) else s.clock)) ∧
  (∀ (bytes : List Byte) (s : State) (began : Nat), s.mode = .loading began →
     ∃ t, exec (.endOfReset bytes) s = .next t ∧ t.Started ∧
       (HoldsRecord bytes → t.cfg = recordOf bytes ∧ t.defaulted = false) ∧
       (¬ HoldsRecord bytes → t.cfg = {} ∧ t.defaulted = true) ∧
       t.address = s.address ∧ PinsSame s t ∧ t.pending = s.pending ∧ t.clock = s.clock)

/-- Every field of a record with a good checksum is taken from its bytes, most significant byte first, and clamped into its
range, and no step ever takes a field out of it; the maintenance set-point is rounded down to a multiple of 25 mA; clamping
raises no notice and leaves the defaulted flag; and the default record holds the defaults of the table (R162). -/
def Obligations.RecordStaysInRange : Prop :=
  (∀ (bytes : List Byte) (s : State) (began : Nat), s.mode = .loading began → HoldsRecord bytes →
    ∃ t, exec (.endOfReset bytes) s = .next t ∧ t.defaulted = false ∧ t.line.queue = [] ∧
      let byte := byteAt bytes
      let word := fun k => 256 * byteAt bytes k + byteAt bytes (k + 1)
      let into := fun low high v : Nat => if v < low then low else if high < v then high else v
      t.cfg.cartCeiling = into 400 16000 (word 0) ∧ t.cfg.guard = into 0 400 (word 2) ∧
      t.cfg.stations = into 1 8 (byte 4) ∧ t.cfg.reportPeriod = into 100 2000 (word 5) ∧
      t.cfg.reportDelta = into 4 64 (byte 7) ∧ t.cfg.rampStep = into 4 96 (byte 8) ∧
      t.cfg.entryAllowance = into 0 96 (byte 9) ∧ t.cfg.pulseAllowance = into 24 480 (word 10) ∧
      t.cfg.withdrawAmount = into 8 60 (byte 12) ∧ t.cfg.throwAmount = into 8 60 (byte 13) ∧
      t.cfg.pulseDuration = into 100 1000 (word 14) ∧ (∀ k < 6, t.cfg.fittedMask.getLsbD k = (byte 16).testBit k) ∧
      t.cfg.laneCount = into 0 4 (byte 17) ∧ t.cfg.laneCeiling = into 500 3000 (word 18) ∧
      t.cfg.maintenance = into 100 500 (word 20) - into 100 500 (word 20) % 25 ∧
      t.cfg.urgentCharge = into 0 5000 (word 22) ∧ t.cfg.checkoutCharge = into 0 10000 (word 24) ∧
      t.cfg.openWindow = into 2 60 (byte 26) ∧ t.cfg.emptyOpen = into 10 600 (word 27) ∧
      t.cfg.insertSettle = into 1 10 (byte 29) ∧ t.cfg.insertDebounce = into 100 2000 (word 30) ∧
      t.cfg.extractDebounce = into 100 2000 (word 32) ∧ t.cfg.glitchWidth = into 0 15 (byte 34) ∧
      t.cfg.restartHold = into 50 1000 (word 35) ∧ t.cfg.scrubTime = into 100 2000 (word 37) ∧
      t.cfg.laneIdle = into 1 60 (byte 39) ∧ t.cfg.enumTimeout = into 1 60 (byte 40) ∧
      t.cfg.reenumGrace = into 5 120 (byte 41) ∧
      (∀ k : Fin 8, t.cfg.sourceLevels.get k = into 0 3 (byte (42 + k.val))) ∧
      ∀ k < 12, t.cfg.noticeMask.getLsbD k = (word 50).testBit k) ∧
  (∀ (how : MemoryFailure) (s : State) (began : Nat), s.mode = .loading began →
    ∃ t, exec (.configReadTimeout how) s = .next t ∧ t.cfg =
      { cartCeiling := 1600, guard := 40, stations := 4, reportPeriod := 500, reportDelta := 16, rampStep := 24
        entryAllowance := 24, pulseAllowance := 96, withdrawAmount := 24, throwAmount := 24, pulseDuration := 300
        fittedMask := 63, laneCount := 3, laneCeiling := 1500, maintenance := 100, urgentCharge := 500
        checkoutCharge := 1500, openWindow := 10, emptyOpen := 120, insertSettle := 2, insertDebounce := 500
        extractDebounce := 200, glitchWidth := 4, restartHold := 200, scrubTime := 300, laneIdle := 5, enumTimeout := 10
        reenumGrace := 30, sourceLevels := #v[3, 2, 2, 2, 0, 0, 0, 0], noticeMask := 4095 }) ∧
  ∀ s t : State, s.cfg.InRange → step s = .next t → t.cfg.InRange

/-! ## Conditions that every step keeps -/

/-- The admitted live claims never reserve more than the pulse allowance, never number more than two of one owner or sixteen
in all (R80). -/
def Obligations.ClaimsStayWithinAllowance : Prop :=
  ∀ s t : State, s.ClaimsWithin → step s = .next t → t.ClaimsWithin

/-- A bolt is driven only while the station's own claim for that slot and operation is admitted and live to the end of the
pulse (R69, R79). -/
def Obligations.DrivenBoltsStayClaimed : Prop :=
  ∀ s t : State, s.BoltsClaimed → step s = .next t → t.BoltsClaimed

/-- The own sums are the slots' demands, the target is the computation's over what the Share Unit then holds, the station
allocation is within the target and the slot allocations within the station allocation (R47, R58 to R63). -/
def Obligations.SharesStayRight : Prop :=
  ∀ s t : State, s.ShareRight → step s = .next t → t.ShareRight

/-- The output and set-point of every slot are those its phase and allocation call for, and a slot that charges has a valid
cable class (R19 to R36). -/
def Obligations.PowerStagesStayRight : Prop :=
  ∀ s t : State, s.PowerRight → step s = .next t → t.PowerRight

/-- The set-point conversion of an allocation and the phase minimum (R18, R29, R30; a ceiling of 0 for the classes NONE and
INVALID is deduced, notes/assumptions/19.md); and after every step each set-point is 0 or between 100 mA and the slot's current
ceiling, the lane ceiling while the slot stands on a lane's path, and a multiple of 25 mA (R29). -/
def Obligations.SetPointsStayInRange : Prop :=
  (∀ (cfg : Record) (cable : CableClass) (c : ChargeSlot) (p : Nat),
    convert cfg cable c p =
      min (25 * (10 * p / if c.working = .nine then 9 else 5))
        (25 * ((match c.path, cable with
          | .lane, _ => cfg.laneCeiling
          | .cable, .classA => 2000
          | .cable, .classB => 3000
          | .cable, .classC => 2000
          | .cable, _ => 0) / 25)) ∧
    ∀ ph, phaseMinimum cfg ph = if ph = .topped then cfg.maintenance else 100) ∧
  ∀ s t : State, s.PowerRight → s.cfg.InRange → step s = .next t → ∀ i,
    let c := t.charge.get i
    c.setPoint = 0 ∨
      (100 ≤ c.setPoint ∧ 25 ∣ c.setPoint ∧
        c.setPoint ≤
          (match c.path, (t.monitor.get i).cable with
            | .lane, _ => t.cfg.laneCeiling
            | .cable, .classA => 2000
            | .cable, .classB => 3000
            | .cable, .classC => 2000
            | .cable, _ => 0))

/-- The state right after reset meets the conditions that every step keeps, and its blocks are at their reset values. -/
def Obligations.ResetMeetsInvariants : Prop :=
  State.reset.ClaimsWithin ∧ State.reset.BoltsClaimed ∧ State.reset.ShareRight ∧ State.reset.PowerRight ∧
    State.reset.CountsWithin ∧ State.reset.cfg.InRange ∧ State.reset.PlacesWithin ∧ State.reset.QueueRight ∧
    State.reset.LanesRight ∧ State.reset.GrantsMade ∧ State.reset.ServedRight ∧ State.reset.RunsRight ∧
    State.reset.NeedRight ∧ State.reset.ClaimsHanded ∧ State.reset.HoldRight ∧ State.reset.demandsMoved = false ∧
    State.reset.Started

/-- What the set-points let the shelf draw never exceeds the station allocation (R29, R63): voltage × set-point is at most 250
times the allocation in qW, slot by slot and in sum. -/
def Obligations.ShelfDrawWithinAllocation : Prop :=
  ∀ s : State, s.PowerRight → s.ShareRight →
    (∀ k, (s.charge.get k).outputVolts * (s.charge.get k).setPoint ≤ 250 * s.share.slotAlloc.get k) ∧
    sumSix (fun k => (s.charge.get k).outputVolts * (s.charge.get k).setPoint) ≤ 250 * s.share.alloc

/-! ## Slot Monitor -/

/-- FILTERED_PRESENT_CHANGE (R3, R5, R6, R9, R11): the presence debounce, the start-settled event and the learning of the
latch. FILTERED_BOLT_SENSE_CHANGE (R4, R67): the filtered value, and at its first value the learning of the latch. That a
change to the value already held, or of an unfitted slot, changes nothing, and what the model does in the cells of the presence
table that cannot occur, is deduced (notes/assumptions/3.md). Timers count from the moment they start, as deduced in
notes/assumptions/32.md. -/
def Obligations.FilteredInputsMoveSlot : Prop :=
  (∀ (i : SlotNo) (level : Level) (s : State), s.mode = .running →
     (s.fitted i = false ∨ (s.monitor.get i).presentIn = filteredOf level →
       exec (.filteredPresentChange i level) s = .next s) ∧
     (s.fitted i = true → (s.monitor.get i).presentIn ≠ filteredOf level →
       ∃ t, exec (.filteredPresentChange i level) s = .next t ∧
         (t.monitor.get i).presentIn = filteredOf level ∧
         (t.monitor.get i).presence =
           (match level, (s.monitor.get i).presence with
             | .asserted, .empty =>
               .settling (s.clock + s.cfg.insertDebounce * 250) (decide ((s.monitor.get i).presentIn = .unknown))
             | .asserted, .settling u found => .settling u found
             | .asserted, .present _ => .present none
             | .released, .empty => .empty
             | .released, .settling _ _ => .empty
             | .released, .present none => .present (some (s.clock + s.cfg.extractDebounce * 250))
             | .released, .present (some u) => .present (some u)) ∧
         (if level = .released ∧
             (((s.monitor.get i).presence = .empty ∧ (s.monitor.get i).presentIn = .unknown) ∨
               (s.monitor.get i).presence.isFound = true) then
           (t.monitor.get i).startSettled = true ∧ t.latch.get i = t.learntAtStart i (s.latch.get i)
         else (t.monitor.get i).startSettled = (s.monitor.get i).startSettled ∧ t.latch.get i = s.latch.get i) ∧
         (t.monitor.get i).cable = (s.monitor.get i).cable ∧ (t.monitor.get i).boltIn = (s.monitor.get i).boltIn ∧
         (t.monitor.get i).q = (s.monitor.get i).q ∧ (t.monitor.get i).remainder = (s.monitor.get i).remainder ∧
         (t.monitor.get i).periodEnd = (s.monitor.get i).periodEnd ∧
         OthersSame i s.monitor t.monitor ∧ OthersSame i s.latch t.latch ∧ Keeps [.monitor, .latch] s t)) ∧
  (∀ (i : SlotNo) (reading : BoltReading) (s : State), s.mode = .running →
     (s.fitted i = false ∨ (s.monitor.get i).boltIn = boltSenseOf reading →
       exec (.filteredBoltSenseChange i reading) s = .next s) ∧
     (s.fitted i = true → (s.monitor.get i).boltIn ≠ boltSenseOf reading →
       ∃ t, exec (.filteredBoltSenseChange i reading) s = .next t ∧
         (t.monitor.get i).boltIn = boltSenseOf reading ∧
         t.latch.get i = (if (s.monitor.get i).boltIn = .unknown then t.learntAtStart i (s.latch.get i) else s.latch.get i) ∧
         (t.monitor.get i).presence = (s.monitor.get i).presence ∧
         (t.monitor.get i).startSettled = (s.monitor.get i).startSettled ∧
         (t.monitor.get i).presentIn = (s.monitor.get i).presentIn ∧ (t.monitor.get i).q = (s.monitor.get i).q ∧
         OthersSame i s.monitor t.monitor ∧ OthersSame i s.latch t.latch ∧ Keeps [.monitor, .latch] s t))

/-- INSERTION (R6 to R8, R19, R21, R37, R73 to R75, R101): the class is read, presence and the first integration period start,
the slot goes to DETECT, with its output on at 500 mA for 1 s where the allocation reaches 10 qW and off and untimed where it
does not, or to INVALID_CABLE, the latch driver notes the movement and reports one under a thrown bolt, and the
notices are handed. The clock clause (notes/assumptions/4.md) and that the INSERTED notice is handed first
(notes/assumptions/8.md) are the model's choices. Timers count from the moment they start, as deduced in
notes/assumptions/32.md. -/
def Obligations.InsertionStartsSlot : Prop :=
  ∀ (i : SlotNo) (code : Option Nat) (s : State) (u : Nat) (found : Bool), s.mode = .running →
    (s.monitor.get i).presence = .settling u found →
    ∃ t, exec (.insertion i code) s = .next t ∧ t.clock = max s.clock u ∧
      (t.monitor.get i).presence = .present none ∧
      (t.monitor.get i).cable =
        (match code with
          | none => .invalid
          | some r =>
            if 900 ≤ r ∧ r ≤ 1100 then .classA
            else if 2700 ≤ r ∧ r ≤ 3300 then .classB
            else if 8200 ≤ r ∧ r ≤ 9800 then .classC
            else .invalid) ∧
      (t.monitor.get i).q = 0 ∧ (t.monitor.get i).remainder = 0 ∧ (t.monitor.get i).periodEnd = some (t.clock + 1000 * 250) ∧
      (t.monitor.get i).startSettled = ((s.monitor.get i).startSettled || found) ∧
      ((t.monitor.get i).cable = .invalid →
        (t.charge.get i).phase = .faulted .invalidCable none ∧ (t.charge.get i).retries = 3 ∧
          (t.charge.get i).outputOn = false ∧ (t.charge.get i).setPoint = 0) ∧
      ((t.monitor.get i).cable ≠ .invalid →
        (if 10 ≤ t.share.slotAlloc.get i then
          (t.charge.get i).phase = .detect (some (t.clock + 1000 * 250)) ∧ (t.charge.get i).outputOn = true ∧
            (t.charge.get i).setPoint = 500
        else
          (t.charge.get i).phase = .detect none ∧ (t.charge.get i).outputOn = false ∧ (t.charge.get i).setPoint = 0) ∧
          (t.charge.get i).retries = 0 ∧ (t.charge.get i).working = .five) ∧
      (t.charge.get i).downSince = none ∧ (t.charge.get i).upSince = none ∧ (t.charge.get i).overSince = none ∧
      (t.charge.get i).path = .cable ∧ (t.charge.get i).ready = decide (s.cfg.checkoutCharge = 0) ∧
      (match (s.latch.get i).state with
        | .locked => t.latch.get i = s.latch.get i
        | .withdrawWait _ => t.latch.get i = s.latch.get i
        | .withdrawing _ => t.latch.get i = { s.latch.get i with moved := true }
        | .opened _ _ =>
          t.latch.get i = { s.latch.get i with state := .opened .insertSettle (t.clock + s.cfg.insertSettle * 1000 * 250) }
        | .unlearned => t.latch.get i = if found then t.learntAtStart i (s.latch.get i) else s.latch.get i
        | _ => t.latch.get i = s.latch.get i) ∧
      t.custody.slots.get i =
        (if found = false ∧ (s.latch.get i).state.guards = true then
          { s.custody.slots.get i with hold := tamperHold (s.custody.slots.get i).hold }
        else s.custody.slots.get i) ∧
      (found = false → (s.latch.get i).state.guards = true → NoticeHanded s t .tamper (some i) 0) ∧
      Noticed s t .inserted (some i) (cableCode (t.monitor.get i).cable) ∧
      OthersSame i s.monitor t.monitor ∧ OthersSame i s.latch t.latch ∧ OthersSame i s.custody.slots t.custody.slots ∧
      OthersFollow i s t ∧ Keeps [.clock, .monitor, .latch, .custody, .charge, .share, .queue] s t

/-- EXTRACTION (R10, R20, R37, R73 to R75, R101, R104, R122, R136, R137): every block gives up what belongs to the tablet, each
run of the slot is answered, and a movement under a thrown bolt is reported. The clock clause (notes/assumptions/4.md) and that
the EXTRACTED notice is handed first (notes/assumptions/8.md) are the model's choices. Timers count from the moment they start,
as deduced in notes/assumptions/32.md. -/
def Obligations.ExtractionClearsSlot : Prop :=
  ∀ (i : SlotNo) (s : State) (u : Nat), s.mode = .running → (s.monitor.get i).presence = .present (some u) →
    ∃ t, exec (.extraction i) s = .next t ∧ t.clock = max s.clock u ∧
      t.monitor.get i = { s.monitor.get i with
        presence := .empty, cable := .absent, q := 0, remainder := 0, periodEnd := none, periodSum := 0 } ∧
      (t.charge.get i).phase = .off ∧ (t.charge.get i).outputOn = false ∧ (t.charge.get i).setPoint = 0 ∧
      (t.charge.get i).ready = false ∧ (t.charge.get i).retries = 0 ∧ (t.charge.get i).heldPower = 0 ∧
      (t.charge.get i).demand = {} ∧ (t.charge.get i).downSince = none ∧ (t.charge.get i).upSince = none ∧
      (t.charge.get i).overSince = none ∧
      (t.charge.get i).path = (if (s.laneOf i).isSome then .cable else (s.charge.get i).path) ∧
      (match (s.latch.get i).state with
        | .withdrawing _ => t.latch.get i = { s.latch.get i with moved := true }
        | .opened _ _ =>
          t.latch.get i = { s.latch.get i with state := .opened .emptyOpen (t.clock + s.cfg.emptyOpen * 1000 * 250) }
        | _ => t.latch.get i = s.latch.get i) ∧
      t.custody.slots.get i =
        { hold :=
            if (s.latch.get i).state.guards then tamperHold (s.custody.slots.get i).hold
            else (s.custody.slots.get i).hold
          dueUntil := none, duePassed := false } ∧
      (t.plans.slots.get i).runs = [] ∧ (t.plans.slots.get i).progress = none ∧ (t.plans.slots.get i).buildTag = none ∧
      (∀ r p, s.headRun i = some r → s.planOf r.plan = some p →
        (t.plans.slots.get i).floor = 0 ∧ Handed (.result p.source r.plan (byteOf i.val) .extracted r.step) s t) ∧
      ((s.plans.slots.get i).runs = [] → (t.plans.slots.get i).floor = (s.plans.slots.get i).floor) ∧
      (((s.plans.slots.get i).runs.map (·.plan)).Nodup → ∀ r ∈ (s.plans.slots.get i).runs.tail, ∀ p, s.planOf r.plan = some p →
        Handed (.result p.source r.plan (byteOf i.val) .noTablet 0) s t) ∧
      t.plans.table = (s.plans.slots.get i).runs.foldl (fun table r => closeRun r.plan table) s.plans.table ∧
      ((s.latch.get i).state.guards = true → NoticeHanded s t .tamper (some i) 1) ∧
      t.lanes.waitList = s.lanes.waitList.filter (fun w => w.1 ≠ i) ∧
      (∀ l, (t.lanes.table.get l).state =
        if (s.laneOf i).any (fun x => decide (x.1 = l)) then .scrubbing (t.clock + s.cfg.scrubTime * 250)
        else (s.lanes.table.get l).state) ∧
      Noticed s t .extracted (some i) (s.monitor.get i).q ∧
      OthersSame i s.monitor t.monitor ∧ OthersSame i s.latch t.latch ∧ OthersSame i s.custody.slots t.custody.slots ∧
      OthersSame i s.plans.slots t.plans.slots ∧ OthersFollow i s t ∧
      Keeps [.clock, .monitor, .latch, .custody, .runs, .lanes, .free, .charge, .share, .queue] s t

/-- MEASUREMENT_PUBLICATION (R12, R23, R25 to R27, R34, R35): the means are held; over-voltage faults at once, and the dwells
and the over-current check start, run on or end. The slot's record is exactly the one named, and t is the settled state of it;
where that moves no demand, it is that state. The sums as operands, the means kept within the range of a sample and one
publication for each slot are the model's choices (notes/assumptions/14.md); the power held where the output goes off is deduced
(notes/assumptions/21.md). -/
def Obligations.PublicationJudgesSlot : Prop :=
  ∀ (i : SlotNo) (voltageSum currentSum : Nat) (s : State), s.mode = .running →
    (s.fitted i = false → exec (.measurementPublication i voltageSum currentSum) s = .next s) ∧
    (s.fitted i = true →
      let c := s.charge.get i
      let volts := min (voltageSum / 10) 12000
      let amps := min (currentSum / 10) 4000
      let overVolts := c.outputOn = true ∧ c.phase.judgesVoltage = true ∧ 1100 * c.working.value < volts
      let down := (c.phase = .charging .bulk ∧ 300 ≤ c.setPoint ∧ 100 * amps < 70 * c.setPoint) ∨
        (c.phase = .charging .taper ∧ amps < 100)
      let up := (c.phase = .charging .taper ∧ 90 * c.setPoint ≤ 100 * amps) ∨
        (c.phase = .charging .topped ∧ 90 * s.cfg.maintenance ≤ 100 * amps)
      let excess := c.phase.judgesCurrent = true ∧ c.setPoint * 100 + max (20 * c.setPoint) 10000 < 100 * amps
      ∃ u, exec (.measurementPublication i voltageSum currentSum) s = .next u.settled ∧
        (u.demandsMoved = false → u.settled = u) ∧
        u.monitor.get i =
          { s.monitor.get i with volts := volts, amps := amps, samples := 0, voltSum := 0, ampSum := 0 } ∧
        (overVolts →
          u.charge.get i =
            { c with
              phase := .faulted .overVoltage none, retries := 3, outputOn := false, setPoint := 0
              heldPower := c.working.value * amps / 250, downSince := none, upSince := none, overSince := none } ∧
          NoticeHanded s u .chargeFault (some i) 2) ∧
        (¬ overVolts →
          u.charge.get i =
            { c with
              downSince := if down then some (c.downSince.getD s.clock) else none
              upSince := if up then some (c.upSince.getD s.clock) else none
              overSince := if excess then some (c.overSince.getD s.clock) else none } ∧
          u.line = s.line) ∧
        OthersSame i s.monitor u.monitor ∧ OthersSame i s.charge u.charge ∧ Keeps [.monitor, .charge, .queue] s u ∧
        let t := u.settled
        t.monitor = u.monitor ∧ (u.charge.get i).Follows (t.charge.get i) ∧
        (overVolts →
          (t.charge.get i).phase = .faulted .overVoltage none ∧ (t.charge.get i).retries = 3 ∧
            (t.charge.get i).outputOn = false ∧ (t.charge.get i).setPoint = 0 ∧ Noticed s t .chargeFault (some i) 2) ∧
        OthersFollow i s t ∧ Keeps [.monitor, .charge, .share, .queue] s t)

/-- INTEGRATION_PERIOD_END (R14, R15, R37): the period's mean goes into the remainder, whole mAh into Q, which stays at 65535,
and charge-ready follows Q. The sum as operand with its mean kept in range (notes/assumptions/14.md) and the clock clause
(notes/assumptions/4.md) are the model's choices. -/
def Obligations.IntegrationAddsCharge : Prop :=
  ∀ (i : SlotNo) (currentSum : Nat) (s : State) (u : Nat), s.mode = .running → (s.monitor.get i).periodEnd = some u →
    ∃ v t, exec (.integrationPeriodEnd i currentSum) s = .next t ∧ t.clock = max s.clock u ∧ t = v.settled ∧
      t.monitor.get i = { s.monitor.get i with
        q := min ((s.monitor.get i).q + ((s.monitor.get i).remainder + min (currentSum / 1000) 4000) / 3600) 65535
        remainder := ((s.monitor.get i).remainder + min (currentSum / 1000) 4000) % 3600
        periodEnd := some (u + 1000 * 250), periodSum := 0 } ∧
      v.charge.get i = { s.charge.get i with
        ready := (s.charge.get i).ready || decide (s.cfg.checkoutCharge ≤ (t.monitor.get i).q) } ∧
      OthersSame i s.charge v.charge ∧ Keeps [.clock, .monitor, .charge, .queue] s v ∧
      (v.charge.get i).Follows (t.charge.get i) ∧
      ((s.charge.get i).ready = false → s.cfg.checkoutCharge ≤ (t.monitor.get i).q →
        Noticed s t .ready (some i) (t.monitor.get i).q) ∧
      OthersSame i s.monitor t.monitor ∧ OthersFollow i s t ∧ Keeps [.clock, .monitor, .charge, .share, .queue] s t

/-- The sampling of a running part (R3, R4, R12, R14, R131): with nothing due, one bit time passes; every millisecond, counted
from the end of reset (R11, R16, R164), the inputs of each fitted slot are sampled, and the sideband lines of each lane in
service every millisecond from the start of their sampling (R131, R139; deduced in notes/assumptions/34.md); a run of equal
samples is counted and one at the other level starts afresh. A filtered input changes when the run is
longer than the glitch width and its level is new, a publication is due at ten samples, an integration at its period's end. The
sums as operands are the model's choice (notes/assumptions/14.md), and so is that an event which is due comes before time
passes (notes/assumptions/1.md). -/
def Obligations.SamplesPassFilters : Prop :=
  (∀ s : State, s.mode = .running → s.dueNow = [] →
    ∃ t, step { s with pending := [] } = .next t ∧ t.clock = s.clock + 1 ∧
      Keeps [.clock, .monitor, .lanes, .linePhase, .wire] { s with pending := [] } t ∧
      t.lanes.waitList = s.lanes.waitList ∧
      let counted := fun (pin : Bool) (g : GlitchRun) =>
        ({ level := pin, run := if g.level = pin then g.run + 1 else 1 } : GlitchRun)
      let within := fun (most : Nat) (v : Int) => if v < 0 then 0 else if (most : Int) < v then most else v.toNat
      ((s.clock + 1 - s.baseAt) % 250 ≠ 0 → t.monitor = s.monitor) ∧
      ((s.clock + 1 - s.baseAt) % 250 = 0 →
        (∀ i, let m := s.monitor.get i
          (s.fitted i = false → t.monitor.get i = m) ∧
          (s.fitted i = true → t.monitor.get i = { m with
            presentRun := counted m.presentPin m.presentRun, boltRun := counted m.boltPin m.boltRun
            samples := m.samples + 1, voltSum := m.voltSum + within 12000 m.voltPin
            ampSum := m.ampSum + within 4000 m.currPin
            periodSum := m.periodSum + if m.periodEnd.isSome then within 4000 m.currPin else 0 }))) ∧
      ∀ l, let x := s.lanes.table.get l
        let sampled := l.val < s.cfg.laneCount ∧ x.state ≠ .dormant ∧ x.state ≠ .retired ∧
          (s.clock + 1 - x.sampledFrom) % 250 = 0
        (¬ sampled → t.lanes.table.get l = x) ∧
        (sampled → t.lanes.table.get l = { x with
          enumRun := counted x.enumPin x.enumRun, faultRun := counted x.faultPin x.faultRun })) ∧
  (∀ s : State, s.mode = .running →
    (∀ i level, .filteredPresentChange i level ∈ s.dueNow ↔
      s.fitted i = true ∧ s.cfg.glitchWidth + 1 ≤ (s.monitor.get i).presentRun.run ∧
        (s.monitor.get i).presentRun.level = levelActive level ∧ (s.monitor.get i).presentIn ≠ filteredOf level) ∧
    (∀ i reading, .filteredBoltSenseChange i reading ∈ s.dueNow ↔
      s.fitted i = true ∧ s.cfg.glitchWidth + 1 ≤ (s.monitor.get i).boltRun.run ∧
        (s.monitor.get i).boltRun.level = boltActive reading ∧ (s.monitor.get i).boltIn ≠ boltSenseOf reading) ∧
    (∀ i v a, .measurementPublication i v a ∈ s.dueNow ↔
      s.fitted i = true ∧ 10 ≤ (s.monitor.get i).samples ∧ v = (s.monitor.get i).voltSum ∧ a = (s.monitor.get i).ampSum) ∧
    (∀ i a, .integrationPeriodEnd i a ∈ s.dueNow ↔
      ∃ u, (s.monitor.get i).periodEnd = some u ∧ u ≤ s.clock ∧ a = (s.monitor.get i).periodSum) ∧
    ∀ l, let x := s.lanes.table.get l
      let sampled := l.val < s.cfg.laneCount ∧ x.state ≠ .dormant ∧ x.state ≠ .retired
      (∀ level, .enumeratedChange l level ∈ s.dueNow ↔
        sampled ∧ 5 ≤ x.enumRun.run ∧ x.enumRun.level = levelActive level ∧ x.enumIn ≠ filteredOf level) ∧
      (.laneFault l ∈ s.dueNow ↔ sampled ∧ 5 ≤ x.faultRun.run ∧ x.faultRun.level = true ∧ x.faultIn ≠ .asserted) ∧
      (.faultLineReleased l ∈ s.dueNow ↔ sampled ∧ 5 ≤ x.faultRun.run ∧ x.faultRun.level = false ∧ x.faultIn ≠ .released))

/-! ## Charge Controller -/

/-- OVER_CURRENT_CHECK (R34, R36): the slot faults, its output goes off, and with retries left the retry wait of 10 s starts.
RETRY_WAIT_EXPIRY (R21, R36): DETECT again with one retry more, the output on at once where the allocation reaches 10 qW. The
DETECT second runs for 1 s of output on, wherever the settling leaves the allocation. DETECT_TIMER_EXPIRY (R22, R30, R32): a
class C slot on its cable restarts to 9 V with its demand and its measured power held, every other slot enters BULK. The power
held where the output goes off at a fault is deduced (notes/assumptions/21.md). The model's choices: the clock clauses
(notes/assumptions/4.md), and that the command alone ends the check (notes/assumptions/29.md). Timers count from the moment
they start, as deduced in notes/assumptions/32.md. -/
def Obligations.FaultsAndDetectRunTheirCourse : Prop :=
  (∀ (i : SlotNo) (s : State) (u : Nat), s.mode = .running → (s.charge.get i).overSince = some u →
     (s.charge.get i).phase.judgesCurrent = true →
     ∃ t, exec (.overCurrentCheck i) s = .next t ∧ t.clock = max s.clock (u + 50 * 250) ∧
       (t.charge.get i).phase =
         .faulted .overCurrent (if (s.charge.get i).retries < 3 then some (t.clock + 10000 * 250) else none) ∧
       (t.charge.get i).outputOn = false ∧ (t.charge.get i).setPoint = 0 ∧ (t.charge.get i).overSince = none ∧
       (t.charge.get i).downSince = none ∧ (t.charge.get i).upSince = none ∧
       (t.charge.get i).retries = (s.charge.get i).retries ∧ (t.charge.get i).ready = (s.charge.get i).ready ∧
       (t.charge.get i).path = (s.charge.get i).path ∧ (t.charge.get i).working = (s.charge.get i).working ∧
       (t.charge.get i).heldPower =
         (if (s.charge.get i).outputOn then (s.charge.get i).working.value * (s.monitor.get i).amps / 250
         else (s.charge.get i).heldPower) ∧
       Noticed s t .chargeFault (some i) 1 ∧ OthersFollow i s t ∧ Keeps [.clock, .charge, .share, .queue] s t) ∧
  (∀ (i : SlotNo) (s : State) (k : FaultKind) (u : Nat), s.mode = .running → (s.charge.get i).phase = .faulted k (some u) →
     ∃ t, exec (.retryWaitExpiry i) s = .next t ∧ t.clock = max s.clock u ∧
       (∃ v : State, t = v.settled ∧ OthersSame i s.charge v.charge ∧ Keeps [.clock, .charge] s v ∧
         v.charge.get i =
           (if 10 ≤ s.share.slotAlloc.get i then
             { s.charge.get i with
               phase := .detect (some (t.clock + 1000 * 250)), outputOn := true, setPoint := 500
               retries := (s.charge.get i).retries + 1, working := .five, downSince := none, upSince := none }
           else
             { s.charge.get i with
               phase := .detect none, outputOn := false, setPoint := 0
               retries := (s.charge.get i).retries + 1, working := .five, downSince := none, upSince := none })) ∧
       (if 10 ≤ t.share.slotAlloc.get i then
         (t.charge.get i).phase = .detect (some (t.clock + 1000 * 250)) ∧ (t.charge.get i).outputOn = true ∧
           (t.charge.get i).setPoint = 500
       else
         (t.charge.get i).phase = .detect none ∧ (t.charge.get i).outputOn = false ∧ (t.charge.get i).setPoint = 0) ∧
       (t.charge.get i).retries = (s.charge.get i).retries + 1 ∧ (t.charge.get i).working = .five ∧
       (t.charge.get i).path = (s.charge.get i).path ∧ (t.charge.get i).ready = (s.charge.get i).ready ∧
       OthersFollow i s t ∧ Keeps [.clock, .charge, .share, .queue] s t) ∧
  (∀ (i : SlotNo) (s : State) (u : Nat), s.mode = .running → (s.charge.get i).phase = .detect (some u) →
     ∃ t, exec (.detectTimerExpiry i) s = .next t ∧
       (if (s.monitor.get i).cable = .classC ∧ (s.charge.get i).path = .cable then
         t.clock = max s.clock u ∧
         (t.charge.get i).phase = .restart .bulk (t.clock + s.cfg.restartHold * 250) (s.charge.get i).demand ∧
         (t.charge.get i).working = .nine ∧ (t.charge.get i).path = .cable ∧
         (t.charge.get i).outputOn = false ∧ (t.charge.get i).setPoint = 0 ∧
         (s.charge.get i).Restarts s.cfg t.clock (s.monitor.get i).amps .cable .nine (t.charge.get i) ∧
         OthersFollow i s t ∧ Keeps [.clock, .charge, .share, .queue] s t
       else EntersAt s t i .bulk u))

/-- TAPER_DWELL, TOPPED_DWELL, TAPER_TO_BULK_DWELL, TOPPED_TO_BULK_DWELL and RESTART_HOLD_EXPIRY (R25 to R27, R30, R33): each
enters its phase at its time, or DEFERRED where the allocation falls short. The clock clause is the model's choice
(notes/assumptions/4.md), the power held where the output goes off is deduced (notes/assumptions/21.md). -/
def Obligations.DwellsEnterTheirPhases : Prop :=
  ∀ (i : SlotNo) (s : State) (u : Nat), s.mode = .running →
    ((s.charge.get i).phase = .charging .bulk → (s.charge.get i).downSince = some u →
      ∃ t, exec (.taperDwell i) s = .next t ∧ EntersAt s t i .taper (u + 60000 * 250)) ∧
    ((s.charge.get i).phase = .charging .taper → (s.charge.get i).downSince = some u →
      ∃ t, exec (.toppedDwell i) s = .next t ∧ EntersAt s t i .topped (u + 300000 * 250)) ∧
    ((s.charge.get i).phase = .charging .taper → (s.charge.get i).upSince = some u →
      ∃ t, exec (.taperToBulkDwell i) s = .next t ∧ EntersAt s t i .bulk (u + 60000 * 250)) ∧
    ((s.charge.get i).phase = .charging .topped → (s.charge.get i).upSince = some u →
      ∃ t, exec (.toppedToBulkDwell i) s = .next t ∧ EntersAt s t i .bulk (u + 600000 * 250)) ∧
    (∀ back held, (s.charge.get i).phase = .restart back u held →
      ∃ t, exec (.restartHoldExpiry i) s = .next t ∧ EntersAt s t i back u)

/-- DUE_UNTIL_PASSES (R24, R28): the mark stands but counts no more; every changed demand is handed, and a BULK slot with
enough charge asks for nothing urgent. That the passing is taken once is the model's own flag (notes/assumptions/18.md). The
clock clause is the model's choice too (notes/assumptions/4.md). -/
def Obligations.PassedDueMarkCountsNoMore : Prop :=
  ∀ (i : SlotNo) (s : State) (u : Nat), s.mode = .running → (s.custody.slots.get i).dueUntil = some u →
    (s.custody.slots.get i).duePassed = false →
    ∃ t, exec (.dueUntilPasses i) s = .next t ∧ t.clock = max s.clock u ∧
      t.custody.slots.get i = { s.custody.slots.get i with duePassed := true } ∧
      (s.PowerRight → t.demandsMoved = false ∧
        ((t.charge.get i).phase = .charging .bulk → s.cfg.urgentCharge ≤ (s.monitor.get i).q →
          (t.charge.get i).demand.urgent = 0)) ∧
      (∃ v : State, t = v.settled ∧ Keeps [.clock, .custody] s v) ∧
      OthersSame i s.custody.slots t.custody.slots ∧ AllFollow s t ∧ Keeps [.clock, .custody, .charge, .share, .queue] s t

/-- A change of demand is handed at once: every event of the Charge Controller leaves every slot's demand handed, and no step
leaves one open, but for the passing of a due mark, whose own event follows. The demand of a slot once every change has been
handed: by its phase, its path and class, and its plan floor (R28 and its table, with R18, R24, R26 and R27). A settling makes
demand rounds until no slot's demand has moved, and a computation is one pass and the settling of what it moves (R28, R58; its
end within the model's bound is deduced, notes/assumptions/11.md). The power held
while the output is off (notes/assumptions/21.md) and a maximum power of 0 for the classes NONE and INVALID
(notes/assumptions/19.md) are deduced. -/
def Obligations.DemandFollowsPhase : Prop :=
  (∀ (c : Instr) (s t : State), s.PowerRight → changesDemand c = true → exec c s = .next t →
    t = s ∨ t.demandsMoved = false) ∧
  (∀ s t : State, s.PowerRight → s.demandsMoved = false → step s = .next t →
    t.demandsMoved = false ∨ ∃ i u, (s.custody.slots.get i).dueUntil = some u ∧ s.clock < u ∧ u ≤ t.clock) ∧
  (∀ s : State, s.PowerRight → Settles s s.settled) ∧
  (∀ (atReport : Bool) (s : State), s.compute atReport = (s.computeOnce atReport).settled) ∧
  ∀ t : State, t.demandsMoved = false → ∀ i,
    let c := t.charge.get i
    let cable := (t.monitor.get i).cable
    let most :=
      match c.path, cable with
      | .lane, _ => 5 * t.cfg.laneCeiling / 250
      | .cable, .classA => 40
      | .cable, .classB => 60
      | .cable, .classC => 72
      | .cable, _ => 0
    let usable := if c.path = .cable ∧ cable = .classC then 4 else 2
    let maintenance := ((if c.working = .nine then 9 else 5) * t.cfg.maintenance + 249) / 250
    let floorOver := fun low => min (max low (t.plans.slots.get i).floor) most
    let urgent := (t.monitor.get i).q < t.cfg.urgentCharge ∨ ∃ u, (t.custody.slots.get i).dueUntil = some u ∧ t.clock < u
    let charging := fun (power : Nat) (ph : ChargePhase) =>
      match ph with
      | .bulk => if urgent then Demand.mk (floorOver usable) (most - floorOver usable) 0
          else Demand.mk (floorOver usable) 0 (most - floorOver usable)
      | .taper => Demand.mk (floorOver usable) 0 (min most ((5 * power + 3) / 4) - floorOver usable)
      | .topped => Demand.mk (floorOver maintenance) 0 0
    c.demand =
      match c.phase with
      | .off => Demand.mk 0 0 0
      | .detect _ => Demand.mk 10 0 0
      | .charging ph => charging (c.outputVolts * (t.monitor.get i).amps / 250) ph
      | .deferred back => charging c.heldPower back
      | .restart _ _ held => held
      | .faulted _ _ => Demand.mk 0 0 0

/-! ## Share Unit -/

/-- One computation (R54, R57 to R64): C_eff is the lowest of the cart ceiling and the ceilings of the records held; the totals
are the own sums and what each peer entry counts, a LIVE one that reports another state than CLASHED its sums, a STALE one or
one that reports CLASHED the isolated allowance in the floor tier and nothing above it; then the floor-short flag with its
notice, the tiers and the cap of the target, the ramp of the station allocation, each slot's share of it by the same tiers, and
each slot's answer to a share that has changed, DEFERRED with its measured power held among them (R21, R29, R30).
The functions by which other statements name C_eff, I_iso, A, the totals and the capped target have these values. -/
def Obligations.ComputationFollowsTiers : Prop :=
  ∀ (atReport : Bool) (s : State) (ceff : Nat),
    (ceff = s.cfg.cartCeiling ∨ ∃ r ∈ s.share.ceilings, r.ceiling = ceff) →
    ceff ≤ s.cfg.cartCeiling → (∀ r ∈ s.share.ceilings, ceff ≤ r.ceiling) →
    let t := s.computeOnce atReport
    let own := s.share.own
    let iso := (ceff - s.cfg.guard) / s.cfg.stations
    let a := ceff - s.cfg.guard - s.share.reserve
    let overPeers := fun (heard : Demand → Nat) (unheard : Nat) =>
      ((List.finRange 8).map (fun x =>
        match s.share.peers.get x with
        | none => 0
        | some p => if p.live = true ∧ p.reported ≠ .clashed then heard p.demand else unheard)).sum
    let tF := own.floor + overPeers (·.floor) iso
    let tU := own.urgent + overPeers (·.urgent) 0
    let tN := own.normal + overPeers (·.normal) 0
    let uncapped :=
      if a ≤ tF then own.floor * a / tF
      else
        own.floor
          + (if tU ≤ a - tF then own.urgent else own.urgent * (a - tF) / tU)
          + (if tN ≤ a - tF - tU then own.normal else own.normal * (a - tF - tU) / tN)
    let target :=
      match s.share.state with
      | .joined => uncapped
      | .isolated => min uncapped iso
      | _ => min uncapped s.cfg.entryAllowance
    s.ceff = ceff ∧ s.isoAllowance = iso ∧ s.available = a ∧ s.totals = ⟨tF, tU, tN⟩ ∧ s.cappedTarget = target ∧
    t.share.floorShort = decide (a ≤ tF) ∧
    (s.share.floorShort = false → a ≤ tF → Noticed s t .floorShort none a) ∧
    t.share.target = target ∧
    t.share.alloc =
      (if target < s.share.alloc then target
      else if atReport then min target (s.share.alloc + s.cfg.rampStep) else s.share.alloc) ∧
    Divided s t ∧
    AllFollow s t ∧ t.share.own = s.share.own ∧ Keeps powerParts s t

/-- Stations that hold the same budget, and totals that are the sums of their own demands, arrive at uncapped targets whose sum
is within the budget (R60). -/
def Obligations.CartTargetsWithinBudget : Prop :=
  ∀ (ss : List State) (a : Nat),
    (∀ s ∈ ss, s.available = a ∧ s.totals = (ss.map (fun x => x.share.own)).foldl Demand.plus {}) →
    (ss.map State.uncappedTarget).sum ≤ a

/-- REPORT_TIMER_EXPIRY (R42, R48, R62): the timer starts again, LISTEN counts and ends at the third expiry, a NEED with the
own sums and the share state is handed, which satisfies a due early one, and the computation may raise the allocation by one
ramp step. Early NEED (R49): where a change of the own sums takes them more than the report delta away from the last sent sum,
one is handed at once if 50 ms have passed, else it is due, and no step leaves such a difference without one due; a change of
the own sums is followed by a computation, and one of their split over the slots alone by a new distribution (R58, R63).
EARLY_NEED_SPACING: a due early NEED is handed if the own sums still differ by more than the report delta, and given up if they
do not. The model's choices: the clock clauses (notes/assumptions/4.md), LISTEN counted before the NEED is handed
(notes/assumptions/8.md), and the demands that one event changes taken as one change of the own sums (notes/assumptions/31.md).
Timers count from the moment they start, as deduced in notes/assumptions/32.md. -/
def Obligations.TimersHandNeed : Prop :=
  (∀ s : State, s.mode = .running →
     ∃ t, exec .reportTimerExpiry s = .next t ∧ t.clock = max s.clock s.share.reportAt ∧
       t.share.reportAt = s.share.reportAt + s.cfg.reportPeriod * 250 ∧ t.share.peerHeard = s.share.peerHeard ∧
       (if s.share.state = .listen then
         t.share.listenCount = s.share.listenCount + 1 ∧
         (if s.share.listenCount < 2 then t.share.state = .listen ∧ t.share.silenceAt = s.share.silenceAt
         else if s.share.peerHeard = true ∨ s.cfg.stations = 1 then
           t.share.state = .joined ∧ Noticed s t .shareState none 1 ∧
             t.share.silenceAt = (if s.cfg.stations = 1 then none else some (t.clock + 3 * s.cfg.reportPeriod * 250))
         else t.share.state = .isolated ∧ Noticed s t .shareState none 2 ∧ t.share.silenceAt = none)
       else t.share.listenCount = s.share.listenCount ∧ t.share.state = s.share.state ∧
         t.share.silenceAt = s.share.silenceAt) ∧
       t.share.lastNeed = some t.clock ∧ t.share.lastSum = s.share.own.total ∧
       (s.line.needWaits = true ∨ s.line.generalUsed < 9 → t.Waits (.need t.share.state s.share.own)) ∧
       (∃ v : State, t = v.compute true ∧ v.share.earlyDue = false ∧ v.share.own = s.share.own ∧
         v.share.lastSum = s.share.own.total ∧ v.share.lastNeed = some v.clock) ∧
       Computed s.cfg.rampStep s t ∧ Keeps [.clock, .standing, .charge, .share, .queue] s t) ∧
  (∀ s : State,
     let t := s.demandRound
     let spaced := ∀ u, s.share.lastNeed = some u → u + 50 * 250 ≤ s.clock
     let far := s.share.lastSum + s.cfg.reportDelta < t.share.own.total ∨
       t.share.own.total + s.cfg.reportDelta < s.share.lastSum
     let unsent := t.share.lastSum = s.share.lastSum ∧ t.share.lastNeed = s.share.lastNeed ∧
       ∀ e ∈ t.line.queue, e.frame.isNeed = true → e ∈ s.line.queue
     t.share.own = { floor := sumSix (fun k => (s.demandNow k).floor), urgent := sumSix (fun k => (s.demandNow k).urgent)
                     normal := sumSix (fun k => (s.demandNow k).normal) } ∧
     (t.share.own ≠ s.share.own → far → spaced →
       t.share.lastSum = t.share.own.total ∧ t.share.lastNeed = some s.clock ∧ t.share.earlyDue = false ∧
         (s.line.needWaits = true ∨ s.line.generalUsed < 10 → t.Waits (.need s.share.state t.share.own))) ∧
     (t.share.own ≠ s.share.own → far → ¬ spaced → t.share.earlyDue = true ∧ unsent) ∧
     (t.share.own = s.share.own ∨ ¬ far → t.share.earlyDue = s.share.earlyDue ∧ unsent) ∧
     ∃ v : State, (∀ k, v.charge.get k = { s.charge.get k with demand := s.demandNow k }) ∧
       v.share.target = s.share.target ∧ v.share.alloc = s.share.alloc ∧ v.share.slotAlloc = s.share.slotAlloc ∧
       v.share.floorShort = s.share.floorShort ∧ Keeps [.charge, .share, .queue] s v ∧
       (t.share.own ≠ s.share.own → t = v.computeOnce false) ∧
       (t.share.own = s.share.own → v.share = s.share ∧ v.line = s.line ∧ Divided v t ∧ t.share.alloc = s.share.alloc ∧
         t.share.target = s.share.target ∧ t.share.floorShort = s.share.floorShort ∧ Keeps powerParts s t)) ∧
  (∀ s t : State, s.NeedRight → step s = .next t → t.NeedRight) ∧
  (∀ s : State, s.mode = .running →
     (.earlyNeedSpacing ∈ s.dueNow ↔
       s.share.earlyDue = true ∧ ∃ u, s.share.lastNeed = some u ∧ u + 50 * 250 ≤ s.clock)) ∧
  (∀ (s : State) (u : Nat), s.mode = .running → s.share.earlyDue = true → s.share.lastNeed = some u →
     ∃ t, exec .earlyNeedSpacing s = .next t ∧ t.clock = max s.clock (u + 50 * 250) ∧
       (if s.share.lastSum + s.cfg.reportDelta < s.share.own.total ∨
           s.share.own.total + s.cfg.reportDelta < s.share.lastSum then
         t.share = { s.share with lastSum := s.share.own.total, lastNeed := some t.clock, earlyDue := false } ∧
           (s.line.needWaits = true ∨ s.line.generalUsed < 10 → t.Waits (.need s.share.state s.share.own))
       else t.share = { s.share with earlyDue := false } ∧ t.line = s.line) ∧
       t.charge = s.charge ∧ Keeps [.clock, .share, .queue] s t)

/-- SILENCE_TIMER_EXPIRY (R43), PEER_AGING (R52) and CEILING_RECORD_EXPIRY (R57): the state, the entry or the record changes and
a computation follows. The clock clauses are the model's choice (notes/assumptions/4.md). -/
def Obligations.ShareTimersTakeTheirChange : Prop :=
  ∀ s : State, s.mode = .running →
    (∀ u, s.share.state = .joined → s.share.silenceAt = some u →
      ∃ t, exec .silenceTimerExpiry s = .next t ∧ t.clock = max s.clock u ∧
        t.share.state = .isolated ∧ t.share.silenceAt = none ∧ t.share.peerHeard = s.share.peerHeard ∧
        t.share.reportAt = s.share.reportAt ∧ t.share.listenCount = s.share.listenCount ∧
        Noticed s t .shareState none 2 ∧ Computed 0 s t ∧ Keeps [.clock, .standing, .charge, .share, .queue] s t) ∧
    (∀ a p, s.share.peers.get a = some p → p.live = true →
      ∃ t, exec (.peerAging a) s = .next t ∧ t.clock = max s.clock (p.heardAt + 3 * s.cfg.reportPeriod * 250) ∧
        t.share.peers.get a = some { p with live := false } ∧ OthersSame a s.share.peers t.share.peers ∧
        Computed 0 s t ∧ Keeps [.clock, .peers, .charge, .share, .queue] s t) ∧
    (∀ src u, recordExpiry src s.share.ceilings = some u →
      ∃ t, exec (.ceilingRecordExpiry src) s = .next t ∧ t.clock = max s.clock u ∧
        t.share.ceilings = s.share.ceilings.filter (fun r => r.source ≠ src) ∧ s.ceff ≤ t.ceff ∧
        Computed 0 s t ∧ Keeps [.clock, .ceilings, .charge, .share, .queue] s t)

/-- Every good frame from another station passes the watch of peers and the clash check, whatever its class (R41, R43, R45,
R84, R143, R147). OTHER_FRAME (R146, R147): classes 4 and 7 reach no block beside the watch, and a malformed frame of any row
is counted and handed to no block, but watched all the same; while the station waits for 10 recessive bits, or sends, it takes
no frame of any row (R145, R156). The model's own: the phases in which a frame command is taken and the bits to wait for after
one that is abandoned (notes/assumptions/22.md), a payload over 40 bytes as an abandoned frame (notes/assumptions/7.md), and at
a clash the requests kept in place and the mark on a CLAIM being sent (notes/assumptions/16.md). Timers count from the moment
they start, as deduced in notes/assumptions/32.md. -/
def Obligations.EveryFrameIsWatched : Prop :=
  (∀ (src : Source) (s : State),
     let w := s.watched src
     w.line.phase = .ended 2 ∧
     (8 ≤ src.val → Keeps [.linePhase] s w) ∧
     (src.val < 8 → src.val ≠ s.address.val →
       w.share.state = s.share.state ∧ w.share.peerHeard = (s.share.peerHeard || decide (s.share.state = .listen)) ∧
       w.share.silenceAt = (if s.share.state = .joined then
         if s.cfg.stations = 1 then none else some (s.clock + 3 * s.cfg.reportPeriod * 250) else s.share.silenceAt) ∧
       w.share.reportAt = s.share.reportAt ∧ w.share.listenCount = s.share.listenCount ∧
       Keeps [.linePhase, .standing] s w) ∧
     (src.val = s.address.val →
       w.share.state = .clashed ∧
       (s.share.state = .clashed → Keeps [.linePhase] s w) ∧
       (s.share.state ≠ .clashed →
         w.share.silenceAt = none ∧ Noticed s w .shareState none 3 ∧ Computed 0 s w ∧
         (∀ e ∈ w.line.queue, e.frame.isClaim = true → e.sending = true ∧ e.withdraw = true) ∧
         w.claims.requests.map Request.asked = s.claims.requests.map Request.asked ∧
         (∀ c ∈ w.claims.own, c ∈ s.claims.own) ∧ (∀ c ∈ s.claims.own, c.expires.isSome = true → c ∈ w.claims.own) ∧
         w.claims.tagCounter = s.claims.tagCounter ∧ w.claims.retryHold = s.claims.retryHold ∧
         w.share.peerHeard = s.share.peerHeard ∧ w.share.reportAt = s.share.reportAt ∧
         w.share.listenCount = s.share.listenCount ∧
         Keeps [.linePhase, .standing, .requests, .charge, .share, .queue] s w))) ∧
  ∀ (s : State) (c : Instr) (cls : Nat) (src : Source) (p : List Byte), s.mode = .running → frameOf c = some (cls, src, p) →
    (s.line.phase.receives = false → exec c s = .next s) ∧
    (s.line.phase.receives = true → 40 < p.length →
      ∃ t, exec c s = .next t ∧ t.line.errors = min (s.line.errors + 1) 65535 ∧
        (∀ read, s.line.phase = .receiving read → AwaitsIdle read t) ∧
        ((∀ read, s.line.phase ≠ .receiving read) → t.line.phase = .busy 10) ∧ Keeps [.errors, .linePhase] s t) ∧
    (s.line.phase.receives = true → p.length ≤ 40 →
      (cls = 4 ∨ cls = 7 → exec c s = .next (s.watched src)) ∧
      (malformed cls p = true →
        ∃ t, exec c s = .next t ∧ t.line.errors = min (s.line.errors + 1) 65535 ∧ Keeps [.errors] (s.watched src) t))

/-- NEED (R44, R51, R147) and LEAVE (R53): a peer's entry takes the frame's sums, clamped, and its share state, and is LIVE,
and an ISOLATED station returns to JOINED; a LEAVE removes the entry and leaves the share state; a frame from 8..15 or with the
own address does neither. CEILING (R55) where its source has a record or a place is free: the record takes the ceiling, clamped
to C_cfg, and an expiry by the validity, and a computation follows. That a LEAVE from a peer with no entry is followed by a
computation is deduced (notes/assumptions/25.md). The phases of the line in which a frame is taken are the model's choice
(notes/assumptions/22.md). Timers count from the moment they start, as deduced in notes/assumptions/32.md. -/
def Obligations.PeerFramesMoveTables : Prop :=
  (∀ (s : State) (src : Source) (p : List Byte), s.mode = .running → s.line.phase.receives = true → p.length = 8 →
     byteAt p 0 = 0 → byteAt p 1 < 4 →
     (8 ≤ src.val ∨ src.val = s.address.val → exec (.need src p) s = .next (s.watched src)) ∧
     (∀ a : Station, a.val = src.val → a ≠ s.address →
       ∃ t e, exec (.need src p) s = .next t ∧ t.share.peers.get a = some e ∧
         e.demand = ⟨min (wordAt p 2) 1023, min (wordAt p 4) 1023, min (wordAt p 6) 1023⟩ ∧
         shareCode e.reported = byteAt p 1 ∧ e.heardAt = s.clock ∧ e.live = true ∧
         OthersSame a s.share.peers t.share.peers ∧
         (s.share.state = .isolated →
           t.share.state = .joined ∧ Noticed s t .shareState none 1 ∧
             t.share.silenceAt = if s.cfg.stations = 1 then none else some (s.clock + 3 * s.cfg.reportPeriod * 250)) ∧
         (s.share.state ≠ .isolated → same (s.watched src) t .standing) ∧
         Computed 0 (s.watched src) t ∧ Keeps [.standing, .peers, .charge, .share, .queue] (s.watched src) t)) ∧
  (∀ (s : State) (src : Source) (p : List Byte), s.mode = .running → s.line.phase.receives = true → p.length = 1 →
     byteAt p 0 = 1 →
     (8 ≤ src.val ∨ src.val = s.address.val → exec (.leave src p) s = .next (s.watched src)) ∧
     (∀ a : Station, a.val = src.val → a ≠ s.address →
       ∃ t, exec (.leave src p) s = .next t ∧ t.share.peers.get a = none ∧ OthersSame a s.share.peers t.share.peers ∧
         t.share.state = s.share.state ∧ Computed 0 (s.watched src) t ∧
         Keeps [.peers, .charge, .share, .queue] (s.watched src) t)) ∧
  (∀ (s : State) (src : Source) (p : List Byte), s.mode = .running → s.line.phase.receives = true → p.length = 4 →
     (∃ r ∈ s.share.ceilings, r.source = src) ∨ s.share.ceilings.length < 4 →
     ∃ t n, exec (.ceiling src p) s = .next t ∧
       n = ({ source := src, ceiling := min (wordAt p 0) s.cfg.cartCeiling,
              expires := if wordAt p 2 = 0 then none else some (s.clock + wordAt p 2 * 1000 * 250) } : CeilingRecord) ∧
       t.share.ceilings =
         (if ∃ r ∈ s.share.ceilings, r.source = src then s.share.ceilings.map (fun r => if r.source = src then n else r)
         else s.share.ceilings ++ [n]) ∧
       t.ceff ≤ n.ceiling ∧ (n.ceiling = 0 → t.share.target = 0 ∧ ∀ k, t.share.slotAlloc.get k = 0) ∧
       Computed 0 (s.watched src) t ∧ Keeps [.ceilings, .charge, .share, .queue] (s.watched src) t)

/-- CEILING at a full table (R56): only a ceiling below the highest record takes its place, the lowest source among equals; any
other is ignored; C_eff never rises by it. -/
def Obligations.FullCeilingTableKeepsLowest : Prop :=
  ∀ (s : State) (src : Source) (p : List Byte), s.mode = .running → (∃ read, s.line.phase = .receiving read) → p.length = 4 →
    (∀ r ∈ s.share.ceilings, r.source ≠ src) → s.share.ceilings.length = 4 →
    ∃ h ∈ s.share.ceilings, ∃ t,
      (∀ r ∈ s.share.ceilings, r.ceiling < h.ceiling ∨ (r.ceiling = h.ceiling ∧ h.source ≤ r.source)) ∧
      exec (.ceiling src p) s = .next t ∧
      (min (wordAt p 0) s.cfg.cartCeiling < h.ceiling →
        (∃ n : CeilingRecord, n.source = src ∧ n.ceiling = min (wordAt p 0) s.cfg.cartCeiling ∧
          n.expires = (if wordAt p 2 = 0 then none else some (s.clock + wordAt p 2 * 1000 * 250)) ∧
          t.share.ceilings = s.share.ceilings.map (fun r => if r = h then n else r) ∧
          n ∈ t.share.ceilings ∧ t.ceff ≤ n.ceiling) ∧
        t.ceff ≤ s.ceff ∧ Computed 0 (s.watched src) t ∧ Keeps [.ceilings, .charge, .share, .queue] (s.watched src) t) ∧
      (h.ceiling ≤ min (wordAt p 0) s.cfg.cartCeiling → t = s.watched src)

/-- The tables and queues never take more than their places: 4 ceiling records, 2 own claims, 8 plans, 10 general places of the
transmit queue; the queue stays in class order and, within a class, in enqueue order; and the plan table and the run queues
agree (R55, R56, R78, R108 to R110, R148). -/
def Obligations.TablesStayWithinPlaces : Prop :=
  ∀ s t : State, s.PlacesWithin → s.QueueRight → s.RunsRight → step s = .next t →
    t.PlacesWithin ∧ t.QueueRight ∧ t.RunsRight

/-! ## Latch Driver and Claim Unit -/

/-- CLAIM (R79, R80, R82): the frame is entered as carried and decided at its line position against the admitted live entries;
an admitted claim joins the list and the reserve, one not admitted leaves nothing behind. The phases of the line in which a
frame is taken are the model's choice (notes/assumptions/22.md). -/
def Obligations.ClaimIsJudgedAtItsPosition : Prop :=
  ∀ (s : State) (src : Source) (p : List Byte), s.mode = .running → s.line.phase.receives = true → p.length = 4 →
    ∃ t, exec (.claim src p) s = .next t ∧
      (s.Fits s.clock src (byteAt p 2) →
        t.claims.entries = s.claims.entries ++
          [{ owner := src, tag := byteAt p 0, slot := byteAt p 1 % 8
             op := if byteAt p 1 < 128 then .withdraw else .throw_
             amount := byteAt p 2, duration := byteAt p 3, position := s.clock, admitted := true }] ∧
        t.share.reserve = sumAmounts (liveClaims s.clock s.claims.entries) + byteAt p 2 ∧
        Computed 0 (s.watched src) t ∧ Keeps [.claimList, .reserve, .charge, .share, .queue] (s.watched src) t) ∧
      (¬ s.Fits s.clock src (byteAt p 2) → t = s.watched src)

/-- The handing of CLAIM frames (R78): for the oldest unclaimed request while fewer than two own claims are outstanding, the
station is not CLASHED and no retry hold is in force; it goes on until a condition fails; and no step leaves a request standing
for which a frame is to be handed. A retry hold whose end the clock passes is the one case in which the next event hands it: the
hold ends with an admitted entry of the claim list (R81), and the expiry of that entry is due. -/
def Obligations.ClaimIsHandedForOldestRequest : Prop :=
  (∀ s t : State, s.ClaimsHanded → step s = .next t →
    t.ClaimsHanded ∨ ∃ h, s.claims.retryHold = some h ∧ s.clock < h ∧ h ≤ t.clock) ∧
  (∀ s t : State, s.HoldRight → step s = .next t → t.HoldRight) ∧
  (∀ (s : State) (h : Nat), s.mode = .running → s.HoldRight → s.claims.retryHold = some h → h ≤ s.clock →
    .claimExpiry ∈ s.dueNow) ∧
  ∀ s : State,
    (s.ClaimsHanded ↔ s.handClaim = s) ∧
    (∀ r, s.claims.requests.find? (fun x => !x.claimed) = some r → s.claims.own.length < 2 → s.share.state ≠ .clashed →
      (∀ h, s.claims.retryHold = some h → h ≤ s.clock) →
      let amount := min (if r.op = .withdraw then s.cfg.withdrawAmount else s.cfg.throwAmount) s.cfg.pulseAllowance
      let duration := (s.cfg.pulseDuration + 9) / 10
      let t := s.handClaim
      t.Waits (.claim s.claims.tagCounter r.op r.slot amount duration) ∧
      t.claims.own = s.claims.own ++
        [{ tag := s.claims.tagCounter, slot := r.slot, op := r.op, amount := amount, duration := duration
           hasRequest := true, expires := none }] ∧
      t.claims.tagCounter = (s.claims.tagCounter + 1) % 256 ∧
      t.claims.requests = s.claims.requests.map (fun x => if x.slot = r.slot then { x with claimed := true } else x) ∧
      t.claims.retryHold = s.claims.retryHold ∧ t.line.lost = s.line.lost ∧ Keeps [.requests, .queue] s t) ∧
    (2 ≤ s.claims.own.length ∨ s.share.state = .clashed ∨ (∃ h, s.claims.retryHold = some h ∧ s.clock < h) ∨
      s.claims.requests.find? (fun x => !x.claimed) = none → s.handClaim = s) ∧
    s.handClaims.handClaim = s.handClaims

/-- CLAIM_EXPIRY (R78, R79, R81, R82): the expired entries leave the list and the reserve, own records and a retry hold that
end here end, frames are handed for the requests that may now be claimed, and a computation follows. The clock clause is the
model's choice (notes/assumptions/4.md); that one event takes all that has expired is deduced (notes/assumptions/23.md). -/
def Obligations.ClaimsExpireTogether : Prop :=
  ∀ (s : State) (u : Nat), s.mode = .running → s.nextClaimExpiry = some u →
    ∃ t, exec .claimExpiry s = .next t ∧ t.clock = max s.clock u ∧
      t.claims.entries = liveClaims t.clock s.claims.entries ∧ t.share.reserve = sumAmounts t.claims.entries ∧
      (∀ c ∈ t.claims.own, ∀ x, c.expires = some x → t.clock < x) ∧
      (∀ c ∈ s.claims.own, (∀ x, c.expires = some x → t.clock < x) → c ∈ t.claims.own) ∧
      (∀ x, t.claims.retryHold = some x ↔ s.claims.retryHold = some x ∧ t.clock < x) ∧ t.ClaimsHanded ∧
      t.claims.requests.map Request.asked = s.claims.requests.map Request.asked ∧
      Computed 0 s t ∧ Keeps [.clock, .requests, .claimList, .reserve, .charge, .share, .queue] s t

/-- TRANSMIT_COMPLETE (R69, R81, R82, R152): the entry leaves the queue; an own CLAIM is decided at the completion: admitted,
it joins the list and the reserve and drives the bolt whose request it is, for the claim's duration × 10 ms from that moment;
refused, its request goes unclaimed to the front under a retry hold to the earliest live expiry; an orphan drives nothing. The
clock clause is the model's choice (notes/assumptions/4.md); that only an operation the latch waits for drives the bolt is
deduced (notes/assumptions/28.md). -/
def Obligations.CompletionDecidesOwnClaim : Prop :=
  ∀ (s : State) (u : Nat) (read : List Bool) (e : TxEntry), s.mode = .running → s.line.phase = .sending u read →
    sentEntry s.line.queue = some e →
    ∃ t, exec .transmitComplete s = .next t ∧ t.clock = max s.clock u ∧ t.line.phase = .ended 2 ∧
      (s.QueueRight → (∀ x ∈ t.line.queue, x.order ≠ e.order) ∧
        ∀ x ∈ s.line.queue, x.order ≠ e.order →
          ∃ y ∈ t.line.queue, y.order = x.order ∧ (x.frame.isNeed = false → y = x)) ∧
      (e.frame.isClaim = false →
        t.line.queue = s.line.queue.filter (fun x => x.order ≠ e.order) ∧ t.line.lost = s.line.lost ∧
        Keeps [.clock, .queue, .linePhase] s t) ∧
      (∀ (tag : Nat) (op : LatchOp) (slot : SlotNo) (amount duration : Nat) (me : Source),
        e.frame = .claim tag op slot amount duration → me.val = s.address.val →
        let live := liveClaims t.clock s.claims.entries
        let x : ClaimEntry :=
          { owner := me, tag := tag, slot := slot.val, op := op, amount := amount, duration := duration
            position := t.clock, admitted := true }
        let mine := fun c : OwnClaim => decide (c.tag = tag ∧ c.op = op ∧ c.slot = slot ∧ c.expires = none)
        (s.Fits t.clock me amount →
          t.claims.entries = s.claims.entries ++ [x] ∧ t.share.reserve = sumAmounts live + amount ∧ Computed 0 s t ∧
          t.claims.own = s.claims.own.map (fun c => if mine c then { c with expires := some x.expiry } else c) ∧
          t.claims.retryHold = s.claims.retryHold ∧
          (∀ c, s.claims.own.find? mine = some c → c.hasRequest = true →
            t.claims.requests = s.claims.requests.filter (fun r => r.slot ≠ slot) ∧
            t.latch.get slot =
              (match op, (s.latch.get slot).state with
                | .withdraw, .withdrawWait _ =>
                  { s.latch.get slot with state := .withdrawing (t.clock + duration * 10 * 250), moved := false }
                | .throw_, .throwWait => { s.latch.get slot with state := .throwing (t.clock + duration * 10 * 250) }
                | _, _ => s.latch.get slot) ∧
            OthersSame slot s.latch t.latch) ∧
          ((∀ c, s.claims.own.find? mine = some c → c.hasRequest = false) →
            t.latch = s.latch ∧ t.claims.requests = s.claims.requests)) ∧
        (¬ s.Fits t.clock me amount →
          Keeps [.clock, .requests, .queue, .linePhase] s t ∧
          (∀ c, s.claims.own.find? mine = some c → c.hasRequest = true → amount ≤ s.cfg.pulseAllowance →
            t.claims.own = s.claims.own.filter (fun y => !mine y) ∧
            t.claims.requests = requestToFront slot s.claims.requests ∧
            ∃ h, t.claims.retryHold = some h ∧ (∃ y ∈ live, y.expiry = h) ∧ ∀ y ∈ live, h ≤ y.expiry) ∧
          ((∀ c, s.claims.own.find? mine = some c → c.hasRequest = false) →
            t.claims.retryHold = s.claims.retryHold ∧
            t.claims.requests.map Request.asked = s.claims.requests.map Request.asked))) ∧
      Keeps [.clock, .latch, .requests, .claimList, .reserve, .charge, .share, .queue, .linePhase] s t

/-- WITHDRAW_PULSE_END (R70, R86, R101, R102): the bolt sense decides; a second failure jams the slot; after a restart the end
is a learning; a tablet moved under a thrown bolt is reported as tampering. A reading still UNKNOWN leaves the slot unlearned:
the model's choice (notes/assumptions/17.md). So are the clock clause (notes/assumptions/4.md) and the attempt that an opened
slot keeps (notes/assumptions/33.md). Timers count from the moment they start, as deduced in notes/assumptions/32.md. -/
def Obligations.WithdrawPulseEndReadsBolt : Prop :=
  ∀ (i : SlotNo) (s : State) (u : Nat), s.mode = .running → (s.latch.get i).state = .withdrawing u →
    ∃ t, exec (.withdrawPulseEnd i) s = .next t ∧ t.clock = max s.clock u ∧
      (t.latch.get i).moved = false ∧ (t.latch.get i).learnAtEnd = false ∧
      ((s.monitor.get i).boltIn = .withdrawn → (t.latch.get i).state = t.openState i ∧ t.claims = s.claims ∧
        (t.latch.get i).attempt = if (s.latch.get i).learnAtEnd then 1 else (s.latch.get i).attempt) ∧
      ((s.monitor.get i).boltIn = .thrown → (s.latch.get i).learnAtEnd = true →
        (t.latch.get i).state = .locked ∧ (t.latch.get i).attempt = 1 ∧ t.claims = s.claims) ∧
      ((s.monitor.get i).boltIn = .thrown → (s.latch.get i).learnAtEnd = false → (s.latch.get i).attempt = 1 →
        (t.latch.get i).state = .withdrawWait (t.clock + 30000 * 250) ∧ (t.latch.get i).attempt = 2 ∧ Asks i .withdraw 2 s t) ∧
      ((s.monitor.get i).boltIn = .thrown → (s.latch.get i).learnAtEnd = false → (s.latch.get i).attempt ≠ 1 →
        (t.latch.get i).state = .jammed ∧ t.claims = s.claims ∧ NoticeHanded s t .latchJammed (some i) 0 ∧
        (t.custody.slots.get i).hold = some ⟨3, .jammed⟩) ∧
      ((s.monitor.get i).boltIn = .unknown → (t.latch.get i).state = .unlearned ∧ t.claims = s.claims) ∧
      ((s.monitor.get i).boltIn = .thrown → (s.latch.get i).moved = true → NoticeHanded s t .tamper (some i) 2) ∧
      ((t.latch.get i).state ≠ .jammed →
        (t.custody.slots.get i).hold =
          (if (s.monitor.get i).boltIn = .thrown ∧ (s.latch.get i).moved = true then
            tamperHold (s.custody.slots.get i).hold else (s.custody.slots.get i).hold)) ∧
      OthersSame i s.latch t.latch ∧ OthersSame i s.custody.slots t.custody.slots ∧
      (t.custody.slots.get i).dueUntil = (s.custody.slots.get i).dueUntil ∧
      Keeps [.clock, .latch, .requests, .custody, .queue] s t

/-- THROW_PULSE_END (R71, R86, R102): the bolt sense decides; a second failure jams the slot; after a restart the end is a
learning. A reading still UNKNOWN leaves the slot unlearned: the model's choice (notes/assumptions/17.md). So is the clock
clause (notes/assumptions/4.md). Timers count from the moment they start, as deduced in notes/assumptions/32.md. -/
def Obligations.ThrowPulseEndReadsBolt : Prop :=
  ∀ (i : SlotNo) (s : State) (u : Nat), s.mode = .running → (s.latch.get i).state = .throwing u →
    ∃ t, exec (.throwPulseEnd i) s = .next t ∧ t.clock = max s.clock u ∧
      (t.latch.get i).moved = false ∧ (t.latch.get i).learnAtEnd = false ∧
      ((s.monitor.get i).boltIn = .thrown →
        (t.latch.get i).state = .locked ∧ (t.latch.get i).attempt = 1 ∧ t.claims = s.claims) ∧
      ((s.monitor.get i).boltIn = .withdrawn → (s.latch.get i).learnAtEnd = true →
        (t.latch.get i).state = t.openState i ∧ (t.latch.get i).attempt = 1 ∧ t.claims = s.claims) ∧
      ((s.monitor.get i).boltIn = .withdrawn → (s.latch.get i).learnAtEnd = false → (s.latch.get i).attempt = 1 →
        (t.latch.get i).state = .throwWait ∧ (t.latch.get i).attempt = 2 ∧ Asks i .throw_ 2 s t) ∧
      ((s.monitor.get i).boltIn = .withdrawn → (s.latch.get i).learnAtEnd = false → (s.latch.get i).attempt ≠ 1 →
        (t.latch.get i).state = .jammed ∧ t.claims = s.claims ∧ NoticeHanded s t .latchJammed (some i) 1 ∧
        t.custody.slots.get i = { s.custody.slots.get i with hold := some ⟨3, .jammed⟩ }) ∧
      ((s.monitor.get i).boltIn = .unknown → (t.latch.get i).state = .unlearned ∧ t.claims = s.claims) ∧
      ((t.latch.get i).state ≠ .jammed → t.custody.slots = s.custody.slots) ∧
      OthersSame i s.latch t.latch ∧ OthersSame i s.custody.slots t.custody.slots ∧
      Keeps [.clock, .latch, .requests, .custody, .queue] s t

/-- OPEN_TIMER_EXPIRY (R73) and CLAIM_WAIT_TIMEOUT (R72): an OPEN slot asks for its throw; a release that has waited 30 s is
taken back, its request goes, its notice is handed, and an undecided claim of it is withdrawn or no longer belongs to a request.
The clock clauses are the model's choice (notes/assumptions/4.md), the mark on a CLAIM being sent is deduced
(notes/assumptions/16.md). -/
def Obligations.LatchTimersExpire : Prop :=
  ∀ (i : SlotNo) (s : State) (u : Nat), s.mode = .running →
    (∀ timer, (s.latch.get i).state = .opened timer u →
      ∃ t, exec (.openTimerExpiry i) s = .next t ∧ t.clock = max s.clock u ∧
        t.latch.get i = { s.latch.get i with state := .throwWait, attempt := 1 } ∧ OthersSame i s.latch t.latch ∧
        Asks i .throw_ 1 s t ∧ Keeps [.clock, .latch, .requests, .queue] s t) ∧
    ((s.latch.get i).state = .withdrawWait u →
      ∃ t, exec (.claimWaitTimeout i) s = .next t ∧ t.clock = max s.clock u ∧
        t.latch.get i = { s.latch.get i with state := .locked, attempt := 1 } ∧ OthersSame i s.latch t.latch ∧
        t.claims.requests.map Request.asked = (s.claims.requests.filter (fun r => r.slot ≠ i)).map Request.asked ∧
        NoticeHanded s t .latchTimeout (some i) (s.latch.get i).attempt ∧
        (∀ c, s.claims.own.find? (fun x => decide (x.slot = i ∧ x.hasRequest = true ∧ x.expires = none)) = some c →
          (∀ x ∈ s.claims.own, x ≠ c → x ∈ t.claims.own) ∧
          (c.waits s.line.queue = true →
            c ∉ t.claims.own ∧ ∀ e ∈ t.line.queue, c.isFrame e.frame = true → e.sending = true) ∧
          (c.waits s.line.queue = false →
            { c with hasRequest := false } ∈ t.claims.own ∧
              ∀ e ∈ s.line.queue, c.isFrame e.frame = true → { e with withdraw := true } ∈ t.line.queue)) ∧
        (s.claims.own.find? (fun x => decide (x.slot = i ∧ x.hasRequest = true ∧ x.expires = none)) = none →
          (∀ x ∈ s.claims.own, x ∈ t.claims.own) ∧ ∀ e ∈ s.line.queue, e ∈ t.line.queue) ∧
        Keeps [.clock, .latch, .requests, .queue] s t)

/-! ## Custody Unit -/

/-- Check 0 (R91) with the scope (R88, R89) for every row of class 3, the permits of unknown kind among them: a permit that
fails it is answered alike at every place and has no effect; one whose scope holds no slot of the station is not answered; one
that comes while a restart is due waits (R99). The phases of the line in which a frame is taken are the model's choice
(notes/assumptions/22.md). -/
def Obligations.FailedPermitAnswersEveryPlace : Prop :=
  ∀ (s : State) (c : Instr) (src : Source) (p : List Byte), s.mode = .running → s.line.phase.receives = true →
    frameOf c = some (3, src, p) →
    p.length = 6 → s.custody.verdict = [] →
    (s.custody.restartDue = true →
      ∃ t, exec c s = .next t ∧ t.custody.waiting = s.custody.waiting ++ [(src, p)] ∧ t.custody.restartDue = true ∧
        t.custody.verdict = [] ∧ Keeps [.permits] (s.watched src) t) ∧
    (s.custody.restartDue = false → scopeSlots s.address p = [] → exec c s = .next (s.watched src)) ∧
    (∀ first outcome, s.custody.restartDue = false → (scopeSlots s.address p).head? = some first →
      (¬ Trusts s.cfg src (byteAt p 2 % 4) ∧ outcome = .source) ∨
      (Trusts s.cfg src (byteAt p 2 % 4) ∧ (byteAt p 1 = 0 ∨ 6 < byteAt p 1) ∧ outcome = .badPermit) ∨
      (Trusts s.cfg src (byteAt p 2 % 4) ∧
        (((byteAt p 1 = 1 ∨ byteAt p 1 = 2) ∧ byteAt p 2 % 4 < 1) ∨
          ((byteAt p 1 = 3 ∨ byteAt p 1 = 4 ∨ byteAt p 1 = 5) ∧ byteAt p 2 % 4 < 2) ∨
          (byteAt p 1 = 6 ∧ byteAt p 2 % 4 < 3)) ∧ outcome = .level) →
      ∃ t, exec c s = .next t ∧
        Handed (.verdict (p.getD 0 0) src (6 * s.address.val + first.val)
          ((scopeSlots s.address p).map (fun _ => outcome))) (s.watched src) t ∧
        t.custody.verdict = [] ∧ t.custody.restartDue = false ∧ t.custody.waiting = s.custody.waiting ∧
        Keeps [.permits, .queue] (s.watched src) t)

/-- PERMIT_OPEN and PERMIT_RETURN without a level-3 FORCE (R68, R90 to R95, R100): each slot of the scope is judged by checks 1
to 7, and each granted slot goes to WITHDRAW_WAIT with a withdraw request, in ascending order. The phases of the line in which
a frame is taken are the model's choice (notes/assumptions/22.md). Timers count from the moment they start, as deduced in
notes/assumptions/32.md. -/
def Obligations.ReleasePermitIsJudgedSlotBySlot : Prop :=
  ∀ (s : State) (c : Instr) (kind : PermitKind) (src : Source) (p : List Byte), s.mode = .running →
    s.line.phase.receives = true → p.length = 6 →
    s.custody.restartDue = false → s.custody.verdict = [] →
    (c = .permitOpen src p ∧ byteAt p 1 = 1 ∧ kind = .openSlot) ∨ (c = .permitReturn src p ∧ byteAt p 1 = 2 ∧ kind = .return_) →
    Trusts s.cfg src (byteAt p 2 % 4) → 1 ≤ byteAt p 2 % 4 → byteAt p 2 < 128 ∨ byteAt p 2 % 4 < 3 →
    scopeSlots s.address p ≠ [] →
    ∃ u, PermitJudged s c src p ((s.watched src).releaseAnswer kind (byteAt p 2 % 4)) [.latch, .requests] u ∧
      (∀ i, u.latch.get i =
        if i ∈ scopeSlots s.address p ∧ (s.watched src).releaseAnswer kind (byteAt p 2 % 4) i = .granted then
          { s.latch.get i with state := .withdrawWait (s.clock + 30000 * 250), attempt := 1 }
        else s.latch.get i) ∧
      u.claims.requests.map Request.asked = (s.watched src).claims.requests.map Request.asked ++
        ((scopeSlots s.address p).filter
          (fun i => decide ((s.watched src).releaseAnswer kind (byteAt p 2 % 4) i = .granted))).map (fun i => (i, .withdraw, 1))

/-- A level-3 OPEN or RETURN with FORCE over any scope (R92, R93, R95, R123, R136): a slot that fails checks 1 to 4 is answered
so and nothing of it is touched; every other is granted, and one that was busy is first taken away from provisioning: its run
is finished FORCED, its lane scrubs, pinned or not. The next runs are started after the judgement. The phases of the line in
which a frame is taken are the model's choice (notes/assumptions/22.md). That the next runs are started in ascending order of
the slots is the model's choice too (notes/assumptions/8.md). Timers count from the moment they start, as deduced in
notes/assumptions/32.md. -/
def Obligations.ForceTakesSlotFromProvisioning : Prop :=
  ∀ (s : State) (c : Instr) (kind : PermitKind) (src : Source) (p : List Byte), s.mode = .running →
    s.line.phase.receives = true → p.length = 6 → s.custody.restartDue = false → s.custody.verdict = [] →
    (c = .permitOpen src p ∧ byteAt p 1 = 1 ∧ kind = .openSlot) ∨ (c = .permitReturn src p ∧ byteAt p 1 = 2 ∧ kind = .return_) →
    Trusts s.cfg src 3 → byteAt p 2 % 4 = 3 → 128 ≤ byteAt p 2 → s.LanesRight → s.RunsRight →
    let w := s.watched src
    let scope := scopeSlots s.address p
    let granted := fun i => decide (i ∈ scope ∧ w.forceAnswer kind i = .granted)
    let taken := fun i => decide (i ∈ scope ∧ w.releaseAnswer kind 3 i = .busy)
    ∀ first, scope.head? = some first →
    ∃ u, exec c s = .next (u.work (scope.map Work.start)) ∧
      ((∀ i ∈ scope, u.headState i ≠ some .queued) → u.work (scope.map Work.start) = u) ∧
      Handed (.verdict (p.getD 0 0) src (6 * s.address.val + first.val) (scope.map (w.forceAnswer kind))) w u ∧
      u.custody.verdict = [] ∧ u.custody.restartDue = false ∧ u.custody.waiting = s.custody.waiting ∧
      (∀ i, u.latch.get i =
        if granted i then { s.latch.get i with state := .withdrawWait (s.clock + 30000 * 250), attempt := 1 }
        else s.latch.get i) ∧
      u.claims.requests.map Request.asked =
        w.claims.requests.map Request.asked ++ (scope.filter granted).map (fun i => (i, .withdraw, 1)) ∧
      (∀ i, u.plans.slots.get i =
        if taken i then
          { s.plans.slots.get i with
            runs := (s.plans.slots.get i).runs.tail
            floor := if (s.headRun i).isSome then 0 else (s.plans.slots.get i).floor }
        else s.plans.slots.get i) ∧
      u.plans.table = (scope.filter taken).foldl
        (fun table i => match s.headRun i with
          | some r => closeRun r.plan table
          | none => table) s.plans.table ∧
      (∀ i r x, taken i = true → s.headRun i = some r → s.planOf r.plan = some x →
        Handed (.result x.source r.plan (byteOf i.val) .forced r.step) w u) ∧
      u.lanes.waitList = s.lanes.waitList.filter (fun e => !taken e.1) ∧
      (∀ l, (u.lanes.table.get l).faults = (s.lanes.table.get l).faults ∧ (u.lanes.table.get l).state =
        match (s.lanes.table.get l).state with
        | .attached i q => if taken i then .scrubbing (s.clock + s.cfg.scrubTime * 250) else .attached i q
        | x => x) ∧
      (∀ i, taken i = true → u.laneOf i = none ∧ ((s.laneOf i).isSome = true → (u.charge.get i).path = .cable)) ∧
      (∀ i, taken i = false ∨ s.laneOf i = none → (w.charge.get i).Follows (u.charge.get i)) ∧
      Keeps [.charge, .share, .latch, .requests, .permits, .runs, .lanes, .free, .queue] w u

/-- PERMIT_DUE (R28, R96), PERMIT_HOLD (R97), PERMIT_LIFT (R76, R98) and PERMIT_RESTART (R99): the effect on each fitted slot
of the scope, and the outcome of each place. The model's own: the flag of a passed mark (notes/assumptions/18.md), and a slot
whose bolt sense is UNKNOWN at a re-learn left unlearned (notes/assumptions/17.md). The phases of the line in which a frame is
taken are the model's choice (notes/assumptions/22.md). Timers count from the moment they start, as deduced in
notes/assumptions/32.md. -/
def Obligations.CustodyPermitsActOnFittedSlots : Prop :=
  ∀ (s : State) (src : Source) (p : List Byte), s.mode = .running →
    s.line.phase.receives = true → p.length = 6 → s.custody.restartDue = false →
    s.custody.verdict = [] → Trusts s.cfg src (byteAt p 2 % 4) → 2 ≤ byteAt p 2 % 4 → scopeSlots s.address p ≠ [] →
    let level := byteAt p 2 % 4
    let reached := fun i => i ∈ scopeSlots s.address p ∧ s.fitted i = true
    let held := fun i => ∃ h, (s.custody.slots.get i).hold = some h ∧ level < h.level
    (byteAt p 1 = 3 →
      ∃ u, PermitJudged s (.permitDue src p) src p (fun i => if s.fitted i then .applied else .unfitted)
          [.custody, .charge, .share] u ∧
        (∀ i, (reached i → u.custody.slots.get i =
            { s.custody.slots.get i with dueUntil := some (s.clock + max (byteAt p 5) 1 * 60000 * 250), duePassed := false }) ∧
          (¬ reached i → u.custody.slots.get i = s.custody.slots.get i)) ∧
        (s.PowerRight → (∃ i, reached i) → u.demandsMoved = false) ∧ AllFollow (s.watched src) u) ∧
    (byteAt p 1 = 4 →
      ∃ u answer, PermitJudged s (.permitHold src p) src p answer [.custody] u ∧
        ∀ i, (s.fitted i = false → answer i = .unfitted) ∧
          (s.fitted i = true → held i → answer i = .held) ∧ (s.fitted i = true → ¬ held i → answer i = .applied) ∧
          (reached i → ¬ held i → u.custody.slots.get i =
            { s.custody.slots.get i with
              hold := some ⟨level, ((s.custody.slots.get i).hold.map Hold.reason).getD .admin⟩ }) ∧
          (¬ reached i ∨ held i → u.custody.slots.get i = s.custody.slots.get i)) ∧
    (byteAt p 1 = 5 →
      ∃ u answer, PermitJudged s (.permitLift src p) src p answer [.custody, .latch] u ∧
        ∀ i, (s.fitted i = false → answer i = .unfitted) ∧
          (s.fitted i = true → held i → answer i = .held) ∧ (s.fitted i = true → ¬ held i → answer i = .applied) ∧
          (reached i → ¬ held i → u.custody.slots.get i = { s.custody.slots.get i with hold := none }) ∧
          (¬ reached i ∨ held i → u.custody.slots.get i = s.custody.slots.get i) ∧
          (let relearns := reached i ∧ ¬ held i ∧ (s.custody.slots.get i).hold.map Hold.reason = some .jammed ∧
              (s.latch.get i).state = .jammed;
            (relearns → u.latch.get i = { s.latch.get i with state := s.learntState i, attempt := 1 }) ∧
              (¬ relearns → u.latch.get i = s.latch.get i))) ∧
    (byteAt p 1 = 6 → level = 3 →
      ∃ t first, exec (.permitRestart src p) s = .next t ∧ (scopeSlots s.address p).head? = some first ∧
        Handed (.verdict (p.getD 0 0) src (6 * s.address.val + first.val)
          ((scopeSlots s.address p).map (fun i => if s.fitted i then .applied else .unfitted))) (s.watched src) t ∧
        t.custody.restartDue = true ∧ t.custody.verdict = [] ∧ t.custody.waiting = s.custody.waiting ∧
        Keeps [.permits, .queue] (s.watched src) t)

/-! ## Restart -/

/-- STATION_RESTART (R50, R66, R86, R87, R126, R142, R165): the LEAVE is handed and every block takes its restart values; then
the permits that waited are judged. A restart comes from a RESTART permit alone: a restart becomes due by nothing but one that
passes check 0 with a slot in its scope, received or, at the end of a restart, waiting. Every run of every slot is answered
RESTARTED by the whole event, a head run at its step and a queued run at 0. A RETIRED lane is sampled from now on, by steps of
its own (R131, deduced in notes/assumptions/34.md). The model's own: the rows of a permit
act by the bytes of their frame (notes/assumptions/7.md). Deduced: the restart as one event of its own
(notes/assumptions/27.md), the waiting permits judged at its end (notes/assumptions/26.md), the mark on a CLAIM being sent
(notes/assumptions/16.md), the re-learning at an UNKNOWN sense (notes/assumptions/17.md). Timers count from the moment they
start, as deduced in notes/assumptions/32.md. -/
def Obligations.StationRestartTakesRestartValues : Prop :=
  (∀ (c : Instr) (s t : State), s.custody.restartDue = false → exec c s = .next t → t.custody.restartDue = true →
    s.mode = .running ∧ ∃ src p, frameOf c = some (3, src, p) ∧ p.length = 6 ∧ byteAt p 1 = 6 ∧ byteAt p 2 % 4 = 3 ∧
      Trusts s.cfg src 3 ∧ scopeSlots s.address p ≠ []) ∧
  (∀ s t : State, s.mode = .running → s.custody.restartDue = true → exec .stationRestart s = .next t →
    t.custody.restartDue = true →
    ∃ w ∈ s.custody.waiting, byteAt w.2 1 = 6 ∧ byteAt w.2 2 % 4 = 3 ∧ Trusts s.cfg w.1 3 ∧ scopeSlots s.address w.2 ≠ []) ∧
  ∀ s : State, s.mode = .running →
    (s.custody.restartDue = false → exec .stationRestart s = .next s) ∧
    (s.custody.restartDue = true →
      ∃ u, exec .stationRestart s = .next (judgeWaiting s.custody.waiting u) ∧
        u.custody = { s.custody with restartDue := false, waiting := [] } ∧ Handed .leave s u ∧
        u.share.state = .listen ∧ u.share.peerHeard = false ∧ u.share.listenCount = 0 ∧ u.share.silenceAt = none ∧
        u.share.reportAt = s.clock + s.cfg.reportPeriod * 250 ∧ (∀ a, u.share.peers.get a = none) ∧ u.share.ceilings = [] ∧
        (s.share.state ≠ .listen → NoticeHanded s u .shareState none 0) ∧ u.share.reserve = 0 ∧
        u.share.target = u.cappedTarget ∧ u.share.alloc ≤ u.share.target ∧ u.share.alloc ≤ s.share.alloc ∧
        u.share.target ≤ s.cfg.entryAllowance ∧
        u.claims = { requests := [], own := s.claims.own.filter (fun c => c.expires.isSome),
                     tagCounter := s.claims.tagCounter, entries := [], retryHold := none } ∧
        (∀ e ∈ u.line.queue, e.frame.isClaim = true → e.sending = true ∧ e.withdraw = true) ∧
        (∀ i, u.latch.get i =
          (match (s.latch.get i).state with
            | .withdrawWait _ => { s.latch.get i with state := s.learntState i, attempt := 1 }
            | .throwWait => { s.latch.get i with state := s.learntState i, attempt := 1 }
            | .withdrawing _ => { s.latch.get i with learnAtEnd := true }
            | .throwing _ => { s.latch.get i with learnAtEnd := true }
            | _ => s.latch.get i)) ∧
        u.plans.table = [] ∧ (∀ i, u.plans.slots.get i = { s.plans.slots.get i with runs := [], floor := 0 }) ∧
        (s.RunsRight → ∀ i,
          (∀ r p, s.headRun i = some r → s.planOf r.plan = some p →
            Handed (.result p.source r.plan (byteOf i.val) .restarted r.step) s u) ∧
          ∀ r ∈ (s.plans.slots.get i).runs.tail, ∀ p, s.planOf r.plan = some p →
            Handed (.result p.source r.plan (byteOf i.val) .restarted 0) s u) ∧
        u.lanes.waitList = [] ∧
        (∀ l, (u.lanes.table.get l).faults = 0 ∧ (u.lanes.table.get l).state =
          (match (s.lanes.table.get l).state with
            | .attached _ _ => .scrubbing (s.clock + s.cfg.scrubTime * 250)
            | .retired => .scrubbing (s.clock + s.cfg.scrubTime * 250)
            | x => x) ∧
          (u.lanes.table.get l).sampledFrom =
            if (s.lanes.table.get l).state = .retired then s.clock else (s.lanes.table.get l).sampledFrom) ∧
        Keeps [.charge, .standing, .peers, .ceilings, .reserve, .share, .latch, .requests, .claimList, .permits, .runs,
          .lanes, .free, .queue] s u) ∧
    (∀ i r p, s.headRun i = some r → s.planOf r.plan = some p →
      Handed (.result p.source r.plan (byteOf i.val) .restarted r.step) s (s.restartPlan i))

/-! ## Plan Engine -/

/-- PLAN (R107 to R109): the four acceptance checks in order; a refused plan changes nothing but its answer, an accepted one
takes a record and a run at the tail of each masked queue, and the runs that come to a head are started. The phases of the line
in which a frame is taken are the model's choice (notes/assumptions/22.md). -/
def Obligations.PlanFrameIsJudged : Prop :=
  ∀ (s : State) (src : Source) (p : List Byte), s.mode = .running → s.line.phase.receives = true →
    p.length ≤ 40 → malformed 5 p = false →
    byteAt p 0 = 0 →
    let w := s.watched src
    let id := planIdAt p 2
    let slots := maskSlots (byteAt p 4)
    let badSlots := slots = [] ∨ ∃ i ∈ slots, s.fitted i = false
    let badPlan := byteAt p 11 = 0 ∨ 8 < byteAt p 11 ∨ (∃ k < byteAt p 11, 6 < byteAt p (12 + 3 * k)) ∨ 3 < byteAt p 5 ∨
      1 < byteAt p 6 ∨ ((byteAt p 5 = 1 ∨ byteAt p 5 = 2) ∧ ∃ k < byteAt p 11, byteAt p (12 + 3 * k) = 6)
    (s.ignoresClass5 src p → exec (.plan src p) s = .next w) ∧
    (¬ s.ignoresClass5 src p →
      (∀ answer,
        ((s.planOf id).isSome = true ∧ answer = .duplicate) ∨
        (s.planOf id = none ∧ 8 ≤ s.plans.table.length ∧ answer = .tableFull) ∨
        (s.planOf id = none ∧ s.plans.table.length < 8 ∧ badSlots ∧ answer = .badSlots) ∨
        (s.planOf id = none ∧ s.plans.table.length < 8 ∧ ¬ badSlots ∧ badPlan ∧ answer = .badPlan) →
        ∃ t, exec (.plan src p) s = .next t ∧ Handed (.result src id 255 answer 0) w t ∧ Keeps [.queue] w t) ∧
      (s.planOf id = none → s.plans.table.length < 8 → ¬ badSlots → ¬ badPlan →
        ∃ u r, exec (.plan src p) s =
            .next (u.work ((slots.filter (fun i => (s.plans.slots.get i).runs.isEmpty)).map Work.start)) ∧
          Handed (.result src id 255 .accepted 0) w u ∧ u.plans.table = s.plans.table ++ [r] ∧
          r.id = id ∧ r.source = src ∧ r.mask = slots ∧ r.runsOpen = slots.length ∧ planPhaseOf (byteAt p 5) = some r.phase ∧
          (r.pinned = true ↔ byteAt p 6 = 1) ∧ r.tag = tagAt p 7 ∧ r.steps.length = byteAt p 11 ∧
          (∀ k < byteAt p 11, ∃ x, r.steps[k]? = some x ∧ stepKindOf (byteAt p (12 + 3 * k)) = some x.kind ∧
            x.arg = wordAt p (13 + 3 * k)) ∧
          (∀ i, u.plans.slots.get i =
            if i ∈ slots then { s.plans.slots.get i with
              runs := (s.plans.slots.get i).runs ++ [{ plan := id, state := .queued, step := 1, usingLane := false }] }
            else s.plans.slots.get i) ∧
          Keeps [.runs, .queue] w u))

/-- The start of a head run (R110 to R112): the four start checks in order; a run that fails one changes nothing on the slot and
the next is started; one that passes sets progress and build tag by its plan's phase and executes step 1. -/
def Obligations.StartChecksDecideRun : Prop :=
  ∀ (i : SlotNo) (s : State) (r : Run) (p : PlanRecord), s.headRun i = some r → r.state = .queued →
    s.planOf r.plan = some p →
    let t := (s.workStep (.start i)).1
    let slot := s.plans.slots.get i
    let sequence := (p.phase = .continued ∨ p.phase = .final) ∧ slot.progress = none
    let tamper := ∃ h, (s.custody.slots.get i).hold = some h ∧ h.reason = .tamper
    (∀ outcome,
      (s.isPresent i = false ∧ outcome = .noTablet) ∨
      (s.isPresent i = true ∧ (s.latch.get i).state ≠ .locked ∧ outcome = .notLocked) ∨
      (s.isPresent i = true ∧ (s.latch.get i).state = .locked ∧ tamper ∧ outcome = .held) ∨
      (s.isPresent i = true ∧ (s.latch.get i).state = .locked ∧ ¬ tamper ∧ sequence ∧ outcome = .outOfSequence) →
      (s.workStep (.start i)).2 = [.start i] ∧ Handed (.result p.source r.plan (byteOf i.val) outcome 0) s t ∧
      t.plans.slots.get i = { slot with runs := slot.runs.tail } ∧ t.plans.table = tableWithout p s.plans.table ∧
      OthersSame i s.plans.slots t.plans.slots ∧ Keeps [.runs, .queue] s t) ∧
    (s.isPresent i = true → (s.latch.get i).state = .locked → ¬ tamper → ¬ sequence →
      (s.workStep (.start i)).2 = [.perform i] ∧
      t.plans.slots.get i =
        (if p.phase = .single ∨ p.phase = .initial then { slot with buildTag := none, progress := some p.id } else slot) ∧
      t.plans.table = s.plans.table ∧ OthersSame i s.plans.slots t.plans.slots ∧ Keeps [.runs] s t)

/-- The seven steps of a plan (R113, R114, R116 to R120): what each does to the slot, and which go on within the event. The
work of one event is done piece by piece, each one's own consequences before the next, until none is left (R107). Deduced: that
the model's bound on it is never reached (notes/assumptions/11.md), 0 for a slot of class INVALID on either path
(notes/assumptions/24.md) and for class NONE (notes/assumptions/19.md). Timers count from the moment they start, as deduced in
notes/assumptions/32.md. -/
def Obligations.StepsDoTheirWork : Prop :=
  (∀ (s : State) (ws : List Work), s.RunsRight → ws.length ≤ 8 → WorkEnds s ws (s.work ws)) ∧
  ∀ (i : SlotNo) (s : State) (r : Run) (p : PlanRecord) (x : PlanStep), s.headRun i = some r → s.planOf r.plan = some p →
    p.steps[r.step - 1]? = some x →
    let t := (s.workStep (.perform i)).1
    let more := (s.workStep (.perform i)).2
    let slot := s.plans.slots.get i
    let run := fun y : Run => { slot with runs := y :: slot.runs.tail }
    let away := r.usingLane = true ∧ s.enumerated i = false
    let grace := s.clock + s.cfg.reenumGrace * 1000 * 250
    (x.kind = .nothing → more = [.advance i] ∧ t = s) ∧
    (x.kind = .attach →
      ((s.laneOf i).isSome = true →
        more = [.advance i] ∧ t.plans.slots.get i = run { r with usingLane := true } ∧ Keeps [.runs] s t) ∧
      (s.laneOf i = none → s.cfg.laneCount = 0 → more = [.start i] ∧ t = s.finishHead i .noLanes .keep) ∧
      (s.laneOf i = none → s.cfg.laneCount ≠ 0 →
        more = [.grant] ∧ t.plans.slots.get i = run { r with state := .laneWait } ∧
        t.lanes.waitList = s.lanes.waitList ++ [(i, p.pinned)] ∧ t.lanes.table = s.lanes.table ∧
        Keeps [.runs, .lanes] s t)) ∧
    (x.kind = .floor →
      more = [.advance i] ∧
      t.plans.slots.get i =
        { slot with
          floor :=
            if (s.monitor.get i).cable = .invalid then 0
            else min x.arg (maxPower s.cfg (s.charge.get i).path (s.monitor.get i).cable) } ∧
      AllFollow s t ∧ Keeps [.runs, .charge, .share, .queue] s t) ∧
    (x.kind = .await →
      more = [] ∧ Keeps [.runs] s t ∧
      (away → t.plans.slots.get i =
        run { r with state := .reenumWait (.goWait (if x.arg = 0 then none else some (x.arg * 1000 * 250))) grace }) ∧
      (¬ away → t.plans.slots.get i =
        run { r with state := .goWait (if x.arg = 0 then none else some (s.clock + x.arg * 1000 * 250)) })) ∧
    (x.kind = .settle → x.arg = 0 → more = [.advance i] ∧ t = s) ∧
    (x.kind = .settle → x.arg ≠ 0 →
      more = [] ∧ (away → t.plans.slots.get i = run { r with state := .reenumWait (.pause (x.arg * 10 * 250)) grace }) ∧
      (¬ away → t.plans.slots.get i = run { r with state := .pause (s.clock + x.arg * 10 * 250) }) ∧ Keeps [.runs] s t) ∧
    (x.kind = .detach →
      more = [.advance i] ∧ t.plans.slots.get i = run { r with usingLane := false } ∧
      LaneParts s t i (s.laneTaken i .release) ∧ ((s.laneTaken i .release).isSome = true → Detached s t i) ∧
      t.lanes.waitList = s.lanes.waitList ∧ Keeps [.runs, .charge, .share, .lanes, .free, .queue] s t) ∧
    (x.kind = .mark →
      more = [.advance i] ∧ t.plans.slots.get i = { slot with buildTag := some p.tag, progress := none } ∧
      Keeps [.runs] s t) ∧
    OthersSame i s.plans.slots t.plans.slots

/-- ENUMERATION_TIMEOUT (R115), AWAIT_TIMEOUT (R117), REENUM_GRACE_EXPIRY (R118) and PAUSE_EXPIRY (R116): each ends its run or
its step at its time, and the end of a run clears the slot, takes the lane its side takes and hands its RESULT (R110, R121 to
R125). The clock at each expiry is the model's choice (notes/assumptions/4.md). Timers count from the moment they start, as
deduced in notes/assumptions/32.md. -/
def Obligations.RunTimersEndTheirRuns : Prop :=
  (∀ (i : SlotNo) (s : State) (u : Nat), s.mode = .running →
    let late : State := { s with clock := max s.clock u }
    (s.headState i = some (.enumWait u) →
      exec (.enumerationTimeout i) s = .next ((late.finishHead i .noEnum .release).work [.start i])) ∧
    (s.headState i = some (.goWait (some u)) →
      exec (.awaitTimeout i) s = .next ((late.finishHead i .awaitTimeout .release).work [.start i])) ∧
    (∀ held, s.headState i = some (.reenumWait held u) →
      exec (.reenumGraceExpiry i) s = .next ((late.finishHead i .noEnum .release).work [.start i])) ∧
    (s.headState i = some (.pause u) → exec (.pauseExpiry i) s = .next (late.work [.advance i]))) ∧
  ∀ (i : SlotNo) (s : State) (outcome : Answer) (side : LaneSide) (r : Run) (p : PlanRecord),
    s.headRun i = some r → s.planOf r.plan = some p →
    let t := s.finishHead i outcome side
    t.plans.slots.get i = { s.plans.slots.get i with runs := (s.plans.slots.get i).runs.tail, floor := 0 } ∧
    OthersSame i s.plans.slots t.plans.slots ∧ t.plans.table = tableWithout p s.plans.table ∧
    Handed (.result p.source r.plan (byteOf i.val) outcome r.step) s t ∧
    t.lanes.waitList = s.lanes.waitList.filter (fun w => w.1 ≠ i) ∧
    LaneParts s t i (s.laneTaken i side) ∧
    Keeps [.charge, .share, .runs, .lanes, .free, .queue] s t ∧
    (r.step < p.steps.length →
      (s.workStep (.advance i)).2 = [.perform i] ∧
      (s.workStep (.advance i)).1.plans.slots.get i =
        { s.plans.slots.get i with runs := { r with step := r.step + 1 } :: (s.plans.slots.get i).runs.tail } ∧
      OthersSame i s.plans.slots (s.workStep (.advance i)).1.plans.slots ∧ Keeps [.runs] s (s.workStep (.advance i)).1) ∧
    (p.steps.length ≤ r.step → s.workStep (.advance i) = (s.finishHead i .done .release, [.start i]))

/-- GO (R117), CANCEL (R124), BUILD (R128) and UNPIN (R138), and the frames of class 5 that are ignored (R107). The phases of
the line in which a frame is taken are the model's choice (notes/assumptions/22.md). Timers count from the moment they start,
as deduced in notes/assumptions/32.md. -/
def Obligations.ClassFiveFramesAct : Prop :=
  ∀ (s : State) (src : Source) (p : List Byte), s.mode = .running → s.line.phase.receives = true →
    let w := s.watched src
    let id := planIdAt p 2
    (p.length = 5 → s.ignoresClass5 src p →
      (byteAt p 0 = 1 → exec (.go src p) s = .next w) ∧ (byteAt p 0 = 2 → exec (.cancel src p) s = .next w) ∧
      (byteAt p 0 = 3 → exec (.unpin src p) s = .next w)) ∧
    (p.length = 5 → byteAt p 0 = 1 → ¬ s.ignoresClass5 src p →
      let named := fun i : SlotNo => byteAt p 4 = i.val ∧ ∃ r u, s.headRun i = some r ∧ r.state = .goWait u ∧ r.plan = id
      (∀ i, named i → exec (.go src p) s = .next (w.work [.advance i])) ∧
      ((∀ i, ¬ named i) → exec (.go src p) s = .next w)) ∧
    (p.length = 5 → byteAt p 0 = 2 → ¬ s.ignoresClass5 src p →
      exec (.cancel src p) s = .next (if (s.planOf id).isSome then
        (maskSlots (byteAt p 4)).foldl (fun v i => v.cancelSlot id i) w else w)) ∧
    (∀ i : SlotNo,
      ((∀ r ∈ (s.plans.slots.get i).runs, r.plan ≠ id) → s.cancelSlot id i = s) ∧
      (∀ r, s.headRun i = some r → r.plan = id →
        s.cancelSlot id i = (s.finishHead i .cancelled .release).work [.start i]) ∧
      (∀ r x, s.headRun i = some r → r.plan ≠ id → (∃ y ∈ (s.plans.slots.get i).runs, y.plan = id) →
        s.planOf id = some x →
        Handed (.result x.source id (byteOf i.val) .cancelled 0) s (s.cancelSlot id i) ∧
        (s.cancelSlot id i).plans.table = tableWithout x s.plans.table ∧
        (s.cancelSlot id i).plans.slots.get i =
          { s.plans.slots.get i with runs := (s.plans.slots.get i).runs.filter (fun y => y.plan ≠ id) } ∧
        OthersSame i s.plans.slots (s.cancelSlot id i).plans.slots ∧ Keeps [.runs, .queue] s (s.cancelSlot id i))) ∧
    (p.length = 7 → byteAt p 0 = 4 →
      ∃ t, exec (.build src p) s = .next t ∧ Keeps [.required] w t ∧
        t.plans.required =
          (if (src.val = 12 ∨ src.val = 13) ∧ (byteAt p 1 = s.address.val ∨ byteAt p 1 = 15) then
            if byteAt p 2 = 0 then none else some (tagAt p 3)
          else s.plans.required)) ∧
    (p.length = 5 → byteAt p 0 = 3 → ¬ s.ignoresClass5 src p →
      ∃ t outcome, exec (.unpin src p) s = .next t ∧ Handed (.result src id (p.getD 4 0) outcome 0) w t ∧
        (5 < byteAt p 4 → outcome = .badSlots ∧ Keeps [.queue] w t) ∧
        (∀ i : SlotNo, byteAt p 4 = i.val →
          let busy := ∃ r, s.headRun i = some r ∧ (r.usingLane = true ∨ r.state = .laneWait ∨ ∃ u, r.state = .enumWait u)
          (busy → outcome = .busy ∧ Keeps [.queue] w t) ∧
          (¬ busy → outcome = .done ∧ LaneParts w t i (s.laneTaken i .force) ∧
            ((s.laneTaken i .force).isSome = true → Detached w t i) ∧ t.lanes.waitList = s.lanes.waitList ∧
            Keeps [.charge, .share, .lanes, .free, .queue] w t)))

/-! ## Lane Switch -/

/-- No slot waits twice for a lane, a waiting slot holds none and its head run is in LANE_WAIT, and no slot holds two lanes
(R130, R132). -/
def Obligations.LanesStayRight : Prop :=
  ∀ s t : State, s.LanesRight → step s = .next t → t.LanesRight

/-- A lane-attached slot stays PRESENT and LOCKED on the lane's path, with its output at 5 V or off, and so does a slot whose
head run has left QUEUED stay PRESENT and LOCKED (R111, R130). -/
def Obligations.AttachedSlotsStayServed : Prop :=
  ∀ s t : State, s.ServedRight → s.LanesRight → s.PowerRight → step s = .next t →
    t.ServedRight ∧
    ∀ l i q, (t.lanes.table.get l).state = .attached i q → (t.charge.get i).outputVolts = 5 ∨ (t.charge.get i).outputVolts = 0

/-- No event leaves a READY lane beside a waiting slot (R134); the plan table and the run queues agree, which bounds the work
of one event (notes/assumptions/11.md). -/
def Obligations.NoReadyLaneBesideWaitingSlot : Prop :=
  ∀ s t : State, s.GrantsMade → s.RunsRight → step s = .next t → t.GrantsMade

/-- ENUMERATED_CHANGE (R115, R118, R131): the filtered line of a sampled lane takes its value; where the lane is ATTACHED, its
slot's head run ends its wait for the tablet, goes to REENUM_WAIT or comes back from it. That a change to the value already
held, or of a lane not sampled, changes nothing is deduced (notes/assumptions/3.md). Timers count from the moment they start,
as deduced in notes/assumptions/32.md. -/
def Obligations.EnumeratedLineMovesRun : Prop :=
  ∀ (l : LaneNo) (level : Level) (s : State), s.mode = .running →
    let lane := s.lanes.table.get l
    let sampled := l.val < s.cfg.laneCount ∧ lane.state ≠ .dormant ∧ lane.state ≠ .retired
    (¬ sampled ∨ lane.enumIn = filteredOf level → exec (.enumeratedChange l level) s = .next s) ∧
    (sampled → lane.enumIn ≠ filteredOf level →
      ∃ u, (u.lanes.table.get l).enumIn = filteredOf level ∧ (u.lanes.table.get l).state = lane.state ∧
        (u.lanes.table.get l).faults = lane.faults ∧ (u.lanes.table.get l).faultIn = lane.faultIn ∧
        OthersSame l s.lanes.table u.lanes.table ∧ u.lanes.waitList = s.lanes.waitList ∧ Keeps [.lanes] s u ∧
        ((∀ i q, lane.state ≠ .attached i q) → exec (.enumeratedChange l level) s = .next u) ∧
        (∀ i q, lane.state = .attached i q →
          let becomes := fun (r : Run) (x : RunState) => ∃ t, exec (.enumeratedChange l level) s = .next t ∧
            t.plans.slots.get i =
              { s.plans.slots.get i with runs := { r with state := x } :: (s.plans.slots.get i).runs.tail } ∧
            OthersSame i s.plans.slots t.plans.slots ∧ t.lanes = u.lanes ∧ Keeps [.lanes, .runs] s t
          let grace := s.clock + s.cfg.reenumGrace * 1000 * 250
          (s.headRun i = none → exec (.enumeratedChange l level) s = .next u) ∧
          (∀ r, s.headRun i = some r → level = .asserted →
            match r.state with
            | .enumWait _ => exec (.enumeratedChange l level) s = .next (u.work [.advance i])
            | .reenumWait (.goWait left) _ => becomes r (.goWait (left.map (fun y => s.clock + y)))
            | .reenumWait (.pause left) _ => becomes r (.pause (s.clock + left))
            | _ => exec (.enumeratedChange l level) s = .next u) ∧
          (∀ r, s.headRun i = some r → level = .released →
            match r.usingLane, r.state with
            | true, .goWait x => becomes r (.reenumWait (.goWait (x.map (fun y => y - s.clock))) grace)
            | true, .pause x => becomes r (.reenumWait (.pause (x - s.clock)) grace)
            | _, _ => exec (.enumeratedChange l level) s = .next u)))

/-- LANE_FAULT (R125, R131, R133, R139): a lane in service faults, for the third time it retires; a slot loses its lane, and
its run if that uses it; the notice is handed, and a DORMANT lane may wake in its place. That a fault on a line already held
asserted, or of a lane not sampled, changes nothing is deduced (notes/assumptions/3.md). Timers count from the moment they
start, as deduced in notes/assumptions/32.md, and a lane that wakes is sampled from the moment it does
(notes/assumptions/34.md). -/
def Obligations.LaneFaultTakesLaneOutOfService : Prop :=
  ∀ (l : LaneNo) (s : State), s.mode = .running →
    let lane := s.lanes.table.get l
    let sampled := l.val < s.cfg.laneCount ∧ lane.state ≠ .dormant ∧ lane.state ≠ .retired
    let third := 3 ≤ lane.faults + 1
    let kind := if third then NoticeKind.laneRetired else NoticeKind.laneFault
    let broken := fun t : State =>
      (t.lanes.table.get l).faults = lane.faults + 1 ∧
      (t.lanes.table.get l).state = (if third then .retired else .faulted none) ∧
      (t.lanes.table.get l).faultIn = (if third then .unknown else .asserted) ∧ t.lanes.waitList = s.lanes.waitList
    (¬ sampled ∨ lane.faultIn = .asserted → exec (.laneFault l) s = .next s) ∧
    (sampled → lane.faultIn ≠ .asserted →
      (∀ x, lane.state = .faulted x →
        ∃ t, exec (.laneFault l) s = .next t ∧ (t.lanes.table.get l).state = .faulted none ∧
          (t.lanes.table.get l).faultIn = .asserted ∧ (t.lanes.table.get l).faults = lane.faults ∧
          OthersSame l s.lanes.table t.lanes.table ∧ t.lanes.waitList = s.lanes.waitList ∧ Keeps [.lanes] s t) ∧
      (∀ x, lane.state = .scrubbing x →
        ∃ t, exec (.laneFault l) s = .next t ∧ broken t ∧ OthersSame l s.lanes.table t.lanes.table ∧
          NoticeHanded s t kind none l.val ∧ Keeps [.lanes, .queue] s t) ∧
      ((∃ x, lane.state = .ready x) ∨ (∃ x, lane.state = .waking x) →
        ∃ t, exec (.laneFault l) s = .next t ∧ broken t ∧ LanesWake s t (fun m => m = l) ∧
          NoticeHanded s t kind none l.val ∧ Keeps [.lanes, .queue] s t) ∧
      (∀ i q, lane.state = .attached i q →
        ∃ u, broken u ∧ OthersSame l s.lanes.table u.lanes.table ∧ (u.charge.get i).path = .cable ∧ Detached s u i ∧
          OthersFollow i s u ∧
          Keeps [.lanes, .charge, .share, .free, .queue] s u ∧
          ((∀ r, s.headRun i = some r → r.usingLane = false) →
            ∃ t, exec (.laneFault l) s = .next t ∧ NoticeHanded s t kind (some i) l.val ∧ Keeps [.queue] u t) ∧
          (∀ r, s.headRun i = some r → r.usingLane = true →
            exec (.laneFault l) s =
              .next (((u.finishHead i .laneFault .keep).work [.start i]).notice kind (some i) l.val))))

/-- FAULT_LINE_RELEASED and FAULT_CLEAR_EXPIRY (R131, R136, R140): a FAULTED lane whose line clears waits 2 s, then scrubs.
WAKE_TIMER_EXPIRY, SCRUB_TIMER_EXPIRY and IDLE_TIMER_EXPIRY (R131, R133 to R136): lanes come to READY and are judged for
grants, an idle lane goes DORMANT. The clock clauses are the model's choice (notes/assumptions/4.md); deduced are that a change
to the value already held changes nothing (notes/assumptions/3.md) and that the lanes whose wake times end together are one
event (notes/assumptions/20.md). Timers count from the moment they start, as deduced in notes/assumptions/32.md, and a lane
that wakes is sampled from the moment it does (notes/assumptions/34.md). -/
def Obligations.LaneTimersServeSlots : Prop :=
  (∀ (l : LaneNo) (s : State), s.mode = .running →
     let lane := s.lanes.table.get l
     let sampled := l.val < s.cfg.laneCount ∧ lane.state ≠ .dormant ∧ lane.state ≠ .retired
     (¬ sampled ∨ lane.faultIn = .released → exec (.faultLineReleased l) s = .next s) ∧
     (sampled → lane.faultIn ≠ .released →
       ∃ t, exec (.faultLineReleased l) s = .next t ∧ (t.lanes.table.get l).faultIn = .released ∧
         (t.lanes.table.get l).state =
           (match lane.state with
             | .faulted _ => .faulted (some (s.clock + 2000 * 250))
             | x => x) ∧
         (t.lanes.table.get l).faults = lane.faults ∧ (t.lanes.table.get l).enumIn = lane.enumIn ∧
         OthersSame l s.lanes.table t.lanes.table ∧ t.lanes.waitList = s.lanes.waitList ∧ Keeps [.lanes] s t) ∧
     (∀ u, lane.state = .faulted (some u) →
       ∃ t, exec (.faultClearExpiry l) s = .next t ∧ t.clock = max s.clock u ∧
         t.lanes.table.get l = { lane with state := .scrubbing (t.clock + s.cfg.scrubTime * 250) } ∧
         OthersSame l s.lanes.table t.lanes.table ∧ t.lanes.waitList = s.lanes.waitList ∧ Keeps [.clock, .lanes] s t)) ∧
  (∀ (l : LaneNo) (s : State) (u : Nat), s.mode = .running →
     (s.nextWake = some u →
       ∃ t, exec .wakeTimerExpiry s = .next (t.work [.grant]) ∧ t.clock = max s.clock u ∧
         (∀ m, t.lanes.table.get m =
           if (s.lanes.table.get m).state = .waking u then { s.lanes.table.get m with state := .ready none }
           else s.lanes.table.get m) ∧
         t.lanes.waitList = s.lanes.waitList ∧ Keeps [.clock, .lanes] s t) ∧
     ((s.lanes.table.get l).state = .scrubbing u →
       ∃ t, exec (.scrubTimerExpiry l) s = .next (t.work [.grant]) ∧ t.clock = max s.clock u ∧
         t.lanes.table.get l = { s.lanes.table.get l with state := .ready none } ∧
         OthersSame l s.lanes.table t.lanes.table ∧ t.lanes.waitList = s.lanes.waitList ∧ Keeps [.clock, .lanes] s t) ∧
     ((s.lanes.table.get l).state = .ready (some u) →
       ∃ t, exec (.idleTimerExpiry l) s = .next t ∧ t.clock = max s.clock u ∧
         (s.lanes.waitList = [] → (t.lanes.table.get l).state = .dormant ∧ (t.lanes.table.get l).enumIn = .unknown ∧
           (t.lanes.table.get l).faultIn = .unknown ∧ OthersSame l s.lanes.table t.lanes.table) ∧
         (t.lanes.table.get l).faults = (s.lanes.table.get l).faults ∧
         LanesWake s t (fun m => m = l) ∧ t.lanes.waitList = s.lanes.waitList ∧ Keeps [.clock, .lanes] s t))

/-- A grant (R20, R30, R32, R114, R115, R131 to R135): the oldest waiting slot takes the lowest READY lane with its pinned
value, its path becomes the lane's through RESTART with the phase, demand and measured power that it returns to held, and its
run waits for the tablet or goes on; with nothing to grant, lanes wake for the slots that wait, and idle timers start where
none does. Timers count from the moment they start, as deduced in notes/assumptions/32.md, and a lane that wakes is sampled
from the moment it does (notes/assumptions/34.md). -/
def Obligations.GrantGoesToOldestSlot : Prop :=
  ∀ s : State,
    let t := (s.workStep .grant).1
    let more := (s.workStep .grant).2
    (∀ i pinned rest l, s.lanes.waitList = (i, pinned) :: rest → s.laneOf i = none → l.val < s.cfg.laneCount →
      (s.lanes.table.get l).state.isReady = true →
      (∀ m, m < l → (s.lanes.table.get m).state.isReady = false) →
      (t.lanes.table.get l).state = .attached i pinned ∧ t.laneOf i = some (l, pinned) ∧
      OthersSame l s.lanes.table t.lanes.table ∧ t.lanes.waitList = rest ∧ (t.charge.get i).path = .lane ∧
      (s.charge.get i).Restarts s.cfg s.clock (s.monitor.get i).amps .lane .five (t.charge.get i) ∧
      ((∀ k x, (s.charge.get i).phase ≠ .faulted k x) → (s.charge.get i).phase ≠ .off →
        (∃ back held, (t.charge.get i).phase = .restart back (s.clock + s.cfg.restartHold * 250) held) ∧
          (t.charge.get i).outputOn = false ∧ (t.charge.get i).setPoint = 0 ∧ (t.charge.get i).working = .five) ∧
      (∀ r p x, s.headRun i = some r → r.state = .laneWait → s.planOf r.plan = some p → p.steps[r.step - 1]? = some x →
        t.plans.slots.get i =
          { s.plans.slots.get i with
            runs := { r with
              usingLane := true
              state := .enumWait (s.clock + (if x.arg = 0 then s.cfg.enumTimeout * 1000 else x.arg * 100) * 250) } ::
                (s.plans.slots.get i).runs.tail } ∧
        more = (if (s.lanes.table.get l).enumIn = .asserted then [.advance i] else []) ++ [.grant]) ∧
      OthersFollow i s t ∧ OthersSame i s.plans.slots t.plans.slots ∧
      Keeps [.charge, .share, .runs, .lanes, .queue] s t) ∧
    (s.lanes.waitList = [] ∨ (∀ l, l.val < s.cfg.laneCount → (s.lanes.table.get l).state.isReady = false) →
      more = [] ∧ t.lanes.waitList = s.lanes.waitList ∧ Keeps [.lanes] s t ∧
      (s.lanes.waitList ≠ [] → LanesWake s t (fun _ => False)) ∧
      (s.lanes.waitList = [] → ∀ l, t.lanes.table.get l =
        if (s.lanes.table.get l).state = .ready none then
          { s.lanes.table.get l with state := .ready (some (s.clock + s.cfg.laneIdle * 1000 * 250)) }
        else s.lanes.table.get l))

/-! ## Line Interface -/

/-- Both counts stay within 0..65535 and are lowered by nothing but a power-on or a pin reset of at least 10 µs, after which
they stand at 0 until the blocks start, which every command keeps so; an abandoned frame, a failed CRC and a malformed frame
raise the line error count, and a drop at a full queue or at the eighth failed attempt raises the lost-frame count, each by 1
up to 65535 (R155). That a payload over 40 bytes is taken as an abandoned frame is the model's choice (notes/assumptions/7.md),
and so are the phases in which a frame is taken (notes/assumptions/22.md). -/
def Obligations.LineCountsRiseAndStay : Prop :=
  ∀ s : State, s.CountsWithin →
    let startsAtZero := fun x : State => x.mode ≠ .running → x.line.errors = 0 ∧ x.line.lost = 0
    (∀ c t, exec c s = .next t → t.CountsWithin ∧
      (startsAtZero s → startsAtZero t ∧
        (c ≠ .powerOn → (∀ low, c = .pinReset low → low < 10) →
          s.line.errors ≤ t.line.errors ∧ s.line.lost ≤ t.line.lost))) ∧
    (∀ low, 10 ≤ low → ∃ t, exec .powerOn s = .next t ∧ exec (.pinReset low) s = .next t ∧
      t.line.errors = 0 ∧ t.line.lost = 0) ∧
    (s.mode = .running →
      (s.line.phase.receives = true →
        ∃ t, exec .frameAbandoned s = .next t ∧ t.line.errors = min (s.line.errors + 1) 65535 ∧ t.line.lost = s.line.lost) ∧
      (s.line.phase.receives = true →
        ∃ t, exec .crcError s = .next t ∧ t.line.errors = min (s.line.errors + 1) 65535 ∧ t.line.lost = s.line.lost) ∧
      (∀ c cls src p, s.line.phase.receives = true → frameOf c = some (cls, src, p) →
        ∃ t, exec c s = .next t ∧
          t.line.errors = if 40 < p.length ∨ malformed cls p = true then min (s.line.errors + 1) 65535 else s.line.errors) ∧
      (∀ e u read, s.line.phase = .sending u read → sentEntry s.line.queue = some e →
        ∃ t, exec .bitError s = .next t ∧ t.line.errors = s.line.errors ∧
          t.line.lost = if 7 ≤ e.failed then min (s.line.lost + 1) 65535 else s.line.lost)) ∧
    (∀ f : TxFrame, f.isClaim = false →
      (10 ≤ s.line.generalUsed → (s.line.hand f).queue = s.line.queue ∧ (s.line.hand f).lost = min (s.line.lost + 1) 65535) ∧
      (s.line.generalUsed < 10 → (s.line.hand f).lost = s.line.lost)) ∧
    (s.withdrawClaims.line.lost = s.line.lost ∧ ∀ i, (s.disownClaim i).line.lost = s.line.lost) ∧
    (∀ src, wordAt (s.stationStatus src) 21 = s.line.errors ∧ wordAt (s.stationStatus src) 23 = s.line.lost)

/-- QUERY_STATION and QUERY_SLOT (R154, R158): a QUERY for this station is answered with one STATUS whose fields hold the
values of that moment; one with a slot above 5, another subject or another station is not answered. Fields whose presence byte
says absent are not stated. The phases of the line in which a frame is taken are the model's choice (notes/assumptions/22.md).
-/
def Obligations.QueriesAreAnswered : Prop :=
  ∀ (s : State) (src : Source) (p : List Byte), s.mode = .running → s.line.phase.receives = true → p.length = 3 →
    let w := s.watched src
    (byteAt p 0 ≠ s.address.val → exec (.queryStation src p) s = .next w ∧ exec (.querySlot src p) s = .next w) ∧
    (1 < byteAt p 1 → exec (.querySlot src p) s = .next w) ∧
    (byteAt p 0 = s.address.val → byteAt p 1 = 0 →
      ∃ t b, exec (.queryStation src p) s = .next t ∧ Handed (.status b) w t ∧ b.length = 31 ∧
        byteAt b 0 = src.val ∧ byteAt b 1 = 0 ∧ byteAt b 2 = shareCode w.share.state ∧
        wordAt b 3 = w.share.alloc % 65536 ∧ wordAt b 5 = w.share.target % 65536 ∧ wordAt b 7 = w.ceff % 65536 ∧
        wordAt b 9 = w.share.reserve % 65536 ∧ wordAt b 11 = w.share.own.floor % 65536 ∧
        wordAt b 13 = w.share.own.urgent % 65536 ∧ wordAt b 15 = w.share.own.normal % 65536 ∧
        (∀ l : LaneNo, byteAt b (17 + l.val) =
          if l.val < s.cfg.laneCount then
            (match (s.lanes.table.get l).state with
              | .dormant => 1
              | .waking _ => 2
              | .ready _ => 3
              | .attached _ _ => 4
              | .scrubbing _ => 5
              | .faulted _ => 6
              | .retired => 7)
          else 0) ∧
        wordAt b 21 = s.line.errors % 65536 ∧ wordAt b 23 = w.line.lost % 65536 ∧
        (s.plans.required = none → byteAt b 25 = 0) ∧
        (∀ tag, s.plans.required = some tag → byteAt b 25 = 1 ∧ longAt b 26 = tag.toNat) ∧
        byteAt b 30 = (if s.defaulted then 1 else 0) ∧ Keeps [.free, .queue] w t) ∧
    (byteAt p 0 = s.address.val → byteAt p 1 = 1 →
      (5 < byteAt p 2 → exec (.querySlot src p) s = .next w) ∧
      (∀ i : SlotNo, byteAt p 2 = i.val →
        ∃ t b, exec (.querySlot src p) s = .next t ∧ Handed (.status b) w t ∧ b.length = 26 ∧
          byteAt b 0 = src.val ∧ byteAt b 1 = 1 ∧ byteAt b 2 = i.val ∧
          byteAt b 3 = presenceCode (s.monitor.get i).presence ∧ byteAt b 4 = cableCode (s.monitor.get i).cable ∧
          byteAt b 5 = phaseCode (w.charge.get i).phase ∧ wordAt b 6 = (w.charge.get i).setPoint % 65536 ∧
          wordAt b 8 = (s.monitor.get i).q % 65536 ∧ byteAt b 10 = (if (w.charge.get i).ready then 1 else 0) ∧
          byteAt b 11 = latchCode (s.latch.get i).state ∧ byteAt b 12 = holdCode (s.custody.slots.get i).hold ∧
          ((s.plans.slots.get i).progress = none → byteAt b 13 = 0) ∧
          (∀ id, (s.plans.slots.get i).progress = some id → byteAt b 13 = 1 ∧ wordAt b 14 = id.toNat) ∧
          ((s.plans.slots.get i).buildTag = none → byteAt b 16 = 0) ∧
          (∀ tag, (s.plans.slots.get i).buildTag = some tag → byteAt b 16 = 1 ∧ longAt b 17 = tag.toNat) ∧
          (s.laneOf i = none → byteAt b 21 = 255) ∧
          (∀ l pinned, s.laneOf i = some (l, pinned) → byteAt b 21 = l.val + if pinned then 16 else 0) ∧
          (s.headRun i = none → byteAt b 22 = 0) ∧
          (∀ r, s.headRun i = some r → byteAt b 22 = 1 ∧ wordAt b 23 = r.plan.toNat ∧ byteAt b 25 = r.step % 256) ∧
          Keeps [.free, .queue] w t))

/-- TRANSMIT_ATTEMPT, ARBITRATION_LOST and BIT_ERROR (R83, R143, R149 to R151, R153), LINE_IDLE, FRAME_ABANDONED and CRC_ERROR
(R143, R145): the first waiting frame is sent on an idle line; a lost attempt waits again, a broken one drives six dominant
bits, counts and is dropped at the eighth; and when the line is idle again, after an abandonment once 10 recessive bits in a
row have been read, those at the end of the abandoned frame counted. The model's own: the idle line two bit times after a frame
with a bad CRC (notes/assumptions/13.md), the mark on a CLAIM being sent (notes/assumptions/16.md), LINE_IDLE from every phase
but an own attempt's, the phases in which a frame is taken and 10 bits to wait for where an abandonment is given in place of
the bits (notes/assumptions/22.md), its moment (notes/assumptions/4.md), and commands whose event cannot occur
(notes/assumptions/3.md). -/
def Obligations.AttemptsRunByTheLine : Prop :=
  ∀ s : State, s.mode = .running →
    let put := fun e : TxEntry => s.line.queue.map (fun x => if x.order = e.order then e else x)
    let without := fun e : TxEntry => s.line.queue.filter (fun x => x.order ≠ e.order)
    let ended := fun (front : Bool) (e : TxEntry) (v : State) =>
      v.line.queue = without e ∧ v.claims.tagCounter = s.claims.tagCounter ∧ v.claims.retryHold = s.claims.retryHold ∧
      (e.frame.isClaim = false → v.claims = s.claims) ∧
      (∀ tag op slot amount duration, e.frame = .claim tag op slot amount duration →
        let mine := fun c : OwnClaim => decide (c.tag = tag ∧ c.op = op ∧ c.slot = slot ∧ c.expires = none)
        v.claims.own = s.claims.own.filter (fun c => !mine c) ∧
        v.claims.requests =
          (if (s.claims.own.find? mine).any (fun c => c.hasRequest) then
            if front then requestToFront slot s.claims.requests else unclaimRequest slot s.claims.requests
          else s.claims.requests))
    let settledBy := fun (e : TxEntry) (v : State) => if e.frame.isClaim then v.handClaims else v
    (∀ e, s.line.phase = .idle → s.line.queue.find? (fun x => !x.sending) = some e →
      ∃ t f, exec .transmitAttempt s = .next t ∧
        f = (if e.frame.isNeed then .need s.share.state s.share.own else e.frame) ∧
        t.line.queue = put { e with frame := f, sending := true } ∧
        t.line.phase = .sending (s.clock + (lineBits f.cls s.address.val f.payload).length) [] ∧
        (s.QueueRight → ∀ x ∈ s.line.queue, x.sending = false →
          e.frame.cls < x.frame.cls ∨ (e.frame.cls = x.frame.cls ∧ e.order ≤ x.order)) ∧
        t.line.lost = s.line.lost ∧ Keeps [.queue, .linePhase] s t) ∧
    (s.line.phase ≠ .idle ∨ (∀ x ∈ s.line.queue, x.sending = true) → exec .transmitAttempt s = .next s) ∧
    (∀ e u read, s.line.phase = .sending u read → sentEntry s.line.queue = some e →
      (e.withdraw = false →
        ∃ t, exec .arbitrationLost s = .next t ∧ t.line.queue = put { e with sending := false } ∧
          t.line.phase = .receiving read ∧ t.line.lost = s.line.lost ∧ Keeps [.queue, .linePhase] s t) ∧
      (e.withdraw = true →
        ∃ v, exec .arbitrationLost s = .next (settledBy e v) ∧ ended false e v ∧ v.line.phase = .receiving read ∧
          v.line.lost = s.line.lost ∧ Keeps [.queue, .linePhase, .requests] s v) ∧
      (e.failed < 7 → e.withdraw = false →
        ∃ t, exec .bitError s = .next t ∧ t.line.queue = put { e with failed := e.failed + 1, sending := false } ∧
          t.line.phase = .breaking 6 ∧ t.line.lost = s.line.lost ∧ Keeps [.queue, .linePhase] s t) ∧
      (e.failed < 7 → e.withdraw = true →
        ∃ v, exec .bitError s = .next (settledBy e v) ∧ ended false e v ∧ v.line.phase = .breaking 6 ∧
          v.line.lost = s.line.lost ∧ Keeps [.queue, .linePhase, .requests] s v) ∧
      (7 ≤ e.failed →
        ∃ v, exec .bitError s = .next (settledBy e v) ∧ ended true e v ∧ v.line.phase = .breaking 6 ∧
          v.line.lost = min (s.line.lost + 1) 65535 ∧ Keeps [.queue, .linePhase, .requests] s v)) ∧
    ((∀ u read, s.line.phase ≠ .sending u read) →
      ∃ t, exec .lineIdle s = .next t ∧ t.line.phase = .idle ∧ Keeps [.clock, .linePhase] s t ∧
        t.clock = s.clock +
          (match s.line.phase with
            | .busy left => left
            | .ended left => left
            | .breaking left => left + 10
            | _ => 0)) ∧
    (∀ u read, s.line.phase = .sending u read → exec .lineIdle s = .next s) ∧
    (s.line.phase.receives = true →
      (∃ t, exec .frameAbandoned s = .next t ∧ Keeps [.errors, .linePhase] s t ∧
        (∀ read, s.line.phase = .receiving read → AwaitsIdle read t) ∧
        ((∀ read, s.line.phase ≠ .receiving read) → t.line.phase = .busy 10)) ∧
      (∃ t, exec .crcError s = .next t ∧ t.line.phase = .ended 2 ∧ Keeps [.errors, .linePhase] s t)) ∧
    (s.line.phase.receives = false → exec .frameAbandoned s = .next s ∧ exec .crcError s = .next s)

/-- The Cart Line bit by bit (R143 to R145, R150 to R152, R156): with nothing due, a bit time passes in which the station reads
a dominant level where it or another station drives one; a dominant bit on an idle line begins a reception, one among the
recessive bits waited for starts their count again. The line is idle after its bit times and a waiting frame then begins at
once; a mismatch in the arbitration word loses the attempt, one after it up to the last CRC bit breaks it, and with none it
completes at its end field; a reception ends as a good frame's command, abandoned or with a bad CRC. That a mismatch at a fill
bit between the arbitration word and the first length bit is a bit error is deduced (notes/assumptions/35.md). What the other
stations put on the line is an input of the model (notes/assumptions/22.md). That an event which is due comes before the next
bit time is its choice too (notes/assumptions/1.md). -/
def Obligations.LineIsReadBitByBit : Prop :=
  ∀ s : State, s.mode = .running →
    (s.dueNow = [] →
      ∃ t, step { s with pending := [] } = .next t ∧ t.clock = s.clock + 1 ∧ t.wire = s.wire.tail ∧
        t.line.queue = s.line.queue ∧ t.line.errors = s.line.errors ∧ t.line.lost = s.line.lost ∧
        let other := s.wire.head? = some false
        let level := decide ¬ other
        (∀ left, s.line.phase = .busy left → t.line.phase = .busy (if other then 10 else left - 1)) ∧
        (∀ left, s.line.phase = .ended left → t.line.phase = .ended (left - 1)) ∧
        (s.line.phase = .idle → t.line.phase = if other then .receiving [false] else .idle) ∧
        (∀ read, s.line.phase = .receiving read → t.line.phase = .receiving (read ++ [level])) ∧
        (∀ left, s.line.phase = .breaking left → t.line.phase = if left ≤ 1 then .busy 10 else .breaking (left - 1)) ∧
        (∀ u read e, s.line.phase = .sending u read → sentEntry s.line.queue = some e →
          ∀ b, (lineBits e.frame.cls s.address.val e.frame.payload)[read.length]? = some b →
            t.line.phase = .sending u (read ++ [b && level]))) ∧
    (.lineIdle ∈ s.dueNow ↔ s.line.phase = .busy 0 ∨ s.line.phase = .ended 0) ∧
    (.transmitAttempt ∈ s.dueNow ↔ s.line.phase = .idle ∧ ∃ e ∈ s.line.queue, e.sending = false) ∧
    (∀ u read e, s.line.phase = .sending u read → sentEntry s.line.queue = some e →
      let bits := frameBits e.frame.cls s.address.val e.frame.payload
      let differs := read ≠ [] ∧ read.getLast? ≠ (fill bits ++ List.replicate 8 true)[read.length - 1]? ∧
        read.length ≤ bitsThrough bits.length bits
      (.arbitrationLost ∈ s.dueNow ↔ differs ∧ read.length ≤ bitsThrough 8 bits) ∧
      (.bitError ∈ s.dueNow ↔ differs ∧ bitsThrough 8 bits < read.length) ∧
      (.transmitComplete ∈ s.dueNow ↔ ¬ differs ∧ u ≤ s.clock)) ∧
    ∀ read, s.line.phase = .receiving read →
      (.frameAbandoned ∈ s.dueNow ↔ receive read = .abandoned) ∧
      (.crcError ∈ s.dueNow ↔ receive read = .badCrc) ∧
      (∀ cls src p, receive read = .good cls src p →
        ∃ c ∈ s.dueNow, ∃ from_ : Source, from_.val = src % 16 ∧ frameOf c = some (cls % 8, from_, p))

/-- A frame as it stands on the line shows no six equal bits in a row before its end field, and a receiver that reads it,
whatever follows it, takes the same class, source and payload with a matching CRC, at its last bit and not before (R143 to
R145). A fill bit after a run that ends at the last CRC bit is deduced (notes/assumptions/13.md). -/
def Obligations.ReceiverReadsSentFrame : Prop :=
  ∀ (cls source : Nat) (p : List Byte) (rest : List Bool), cls < 8 → source < 16 → p.length ≤ 40 →
    NoSixEqual (fill (frameBits cls source p)) ∧ (frameBits cls source p).length = 30 + 8 * p.length ∧
    lineBits cls source p = fill (frameBits cls source p) ++ List.replicate 8 true ∧
    receive (lineBits cls source p ++ rest) = .good cls source p ∧
    ∀ k < (lineBits cls source p).length, receive ((lineBits cls source p).take k) = .unfinished

/-! ## Indicators -/

/-- LAMP_BLINK_TICK, the lamp table and the shelf attention line (R159, R167, R168), and the other shelf outputs: a crosspoint
point is closed exactly while its lane is ATTACHED to its slot, a hub lane is powered exactly while it is configured and neither
DORMANT nor RETIRED, a bolt is driven exactly in WITHDRAWING and THROWING, and a power stage gives the working voltage exactly
while its output is on (R13, R69, R130, R133, R139). The clock clause is the model's choice
(notes/assumptions/4.md). -/
def Obligations.LampsAndAttentionFollowTables : Prop :=
  ∀ s : State,
    (s.mode = .running →
      (∃ t, exec .lampBlinkTick s = .next t ∧ t.clock = max s.clock s.lamps.nextAt ∧
        t.lamps.position = (s.lamps.position + 1) % 8 ∧ t.lamps.nextAt = s.lamps.nextAt + 125 * 250 ∧
        Keeps [.clock, .lamps] s t) ∧
      (∀ i, s.lamp i =
        let fast := fun c : LampColour => if s.lamps.position % 2 = 0 then some c else none
        let slow := fun c : LampColour => if s.lamps.position % 8 < 4 then some c else none
        if s.fitted i = false then none
        else if (s.latch.get i).state = .jammed ∨ (s.custody.slots.get i).hold.map Hold.reason = some .tamper ∨
            (s.charge.get i).phase.isFaulted = true then fast .amber
        else if (s.latch.get i).state.isOpen = true then fast .green
        else if (s.plans.slots.get i).runs ≠ [] then slow .green
        else if (s.charge.get i).phase.isDeferred = true then slow .amber
        else if s.isPresent i = false then none
        else if (s.charge.get i).ready = true then some .green
        else some .amber) ∧
      (s.attention = true ↔
        (∃ i, (s.custody.slots.get i).hold.isSome = true) ∨
        (∃ l, l.val < s.cfg.laneCount ∧ ((∃ x, (s.lanes.table.get l).state = .faulted x) ∨
          (s.lanes.table.get l).state = .retired)) ∨
        s.share.state = .isolated ∨ s.share.state = .clashed ∨ s.defaulted = true) ∧
      (∀ i l, s.crosspoint i l = true ↔ ∃ pinned, (s.lanes.table.get l).state = .attached i pinned) ∧
      (∀ l, s.lanePower l = false ↔ s.cfg.laneCount ≤ l.val ∨ (s.lanes.table.get l).state = .dormant ∨
        (s.lanes.table.get l).state = .retired) ∧
      (∀ i,
        (s.boltDrive i = some .withdraw ↔ ∃ u, (s.latch.get i).state = .withdrawing u) ∧
        (s.boltDrive i = some .throw_ ↔ ∃ u, (s.latch.get i).state = .throwing u) ∧
        (s.charge.get i).outputVolts =
          if (s.charge.get i).outputOn = true then if (s.charge.get i).working = .nine then 9 else 5 else 0)) ∧
    (s.mode ≠ .running → s.attention = false ∧ ∀ i, s.lamp i = none)
end

