-- ==== Sys2Proof/Laws/State.lean ====
section
/-! SUPPORT. One lemma for each field and each plain update of the state, and the reading of a vector after a write. -/

namespace Sys2Proof.Machine

/-! ## Vectors -/

@[simp] theorem get_setAt_same {α : Type} {n : Nat} (v : Vector α n) (i : Fin n) (x : α) : (setAt v i x).get i = x := by
  show (v.set i.val x i.isLt)[i.val] = x
  simp

theorem get_setAt_ne {α : Type} {n : Nat} (v : Vector α n) (i k : Fin n) (x : α) (h : k ≠ i) :
    (setAt v i x).get k = v.get k := by
  have h' : i.val ≠ k.val := fun e => h (Fin.ext e.symm)
  show (v.set i.val x i.isLt)[k.val] = v[k.val]
  simp [h']

theorem get_setAt {α : Type} {n : Nat} (v : Vector α n) (i k : Fin n) (x : α) :
    (setAt v i x).get k = if k = i then x else v.get k := by
  by_cases h : k = i
  · subst h; simp
  · simp [h, get_setAt_ne]

@[simp] theorem sixOf_get {α : Type} (f : SlotNo → α) (k : SlotNo) : (sixOf f).get k = f k := by
  match k with
  | ⟨0, _⟩ => rfl
  | ⟨1, _⟩ => rfl
  | ⟨2, _⟩ => rfl
  | ⟨3, _⟩ => rfl
  | ⟨4, _⟩ => rfl
  | ⟨5, _⟩ => rfl

theorem setAt_othersSame {α : Type} {n : Nat} (v : Vector α n) (i : Fin n) (x : α) : OthersSame i v (setAt v i x) :=
  fun k h => get_setAt_ne v i k x h

/-! ## Moments -/

theorem momentAfter_eq (now ms : Nat) : momentAfter now ms = now + ms * 250 := rfl

theorem le_momentAfter (now ms : Nat) : now ≤ momentAfter now ms := Nat.le_add_right _ _

/-! ## Updates, field by field -/

variable (s : State)

@[simp] theorem reach_clock (t : Nat) : (s.reach t).clock = max s.clock t := rfl
@[simp] theorem reach_baseAt (t : Nat) : (s.reach t).baseAt = s.baseAt := rfl
@[simp] theorem reach_mode (t : Nat) : (s.reach t).mode = s.mode := rfl
@[simp] theorem reach_address (t : Nat) : (s.reach t).address = s.address := rfl
@[simp] theorem reach_cfg (t : Nat) : (s.reach t).cfg = s.cfg := rfl
@[simp] theorem reach_defaulted (t : Nat) : (s.reach t).defaulted = s.defaulted := rfl
@[simp] theorem reach_monitor (t : Nat) : (s.reach t).monitor = s.monitor := rfl
@[simp] theorem reach_charge (t : Nat) : (s.reach t).charge = s.charge := rfl
@[simp] theorem reach_share (t : Nat) : (s.reach t).share = s.share := rfl
@[simp] theorem reach_latch (t : Nat) : (s.reach t).latch = s.latch := rfl
@[simp] theorem reach_claims (t : Nat) : (s.reach t).claims = s.claims := rfl
@[simp] theorem reach_custody (t : Nat) : (s.reach t).custody = s.custody := rfl
@[simp] theorem reach_plans (t : Nat) : (s.reach t).plans = s.plans := rfl
@[simp] theorem reach_lanes (t : Nat) : (s.reach t).lanes = s.lanes := rfl
@[simp] theorem reach_line (t : Nat) : (s.reach t).line = s.line := rfl
@[simp] theorem reach_lamps (t : Nat) : (s.reach t).lamps = s.lamps := rfl
@[simp] theorem reach_wire (t : Nat) : (s.reach t).wire = s.wire := rfl
@[simp] theorem reach_free (t : Nat) : (s.reach t).free = s.free := rfl
@[simp] theorem reach_pending (t : Nat) : (s.reach t).pending = s.pending := rfl

@[simp] theorem setMonitor_clock (i : SlotNo) (m : MonitorSlot) : (s.setMonitor i m).clock = s.clock := rfl
@[simp] theorem setMonitor_baseAt (i : SlotNo) (m : MonitorSlot) : (s.setMonitor i m).baseAt = s.baseAt := rfl
@[simp] theorem setMonitor_mode (i : SlotNo) (m : MonitorSlot) : (s.setMonitor i m).mode = s.mode := rfl
@[simp] theorem setMonitor_address (i : SlotNo) (m : MonitorSlot) : (s.setMonitor i m).address = s.address := rfl
@[simp] theorem setMonitor_cfg (i : SlotNo) (m : MonitorSlot) : (s.setMonitor i m).cfg = s.cfg := rfl
@[simp] theorem setMonitor_defaulted (i : SlotNo) (m : MonitorSlot) : (s.setMonitor i m).defaulted = s.defaulted := rfl
@[simp] theorem setMonitor_monitor (i : SlotNo) (m : MonitorSlot) : (s.setMonitor i m).monitor = setAt s.monitor i m := rfl
@[simp] theorem setMonitor_charge (i : SlotNo) (m : MonitorSlot) : (s.setMonitor i m).charge = s.charge := rfl
@[simp] theorem setMonitor_share (i : SlotNo) (m : MonitorSlot) : (s.setMonitor i m).share = s.share := rfl
@[simp] theorem setMonitor_latch (i : SlotNo) (m : MonitorSlot) : (s.setMonitor i m).latch = s.latch := rfl
@[simp] theorem setMonitor_claims (i : SlotNo) (m : MonitorSlot) : (s.setMonitor i m).claims = s.claims := rfl
@[simp] theorem setMonitor_custody (i : SlotNo) (m : MonitorSlot) : (s.setMonitor i m).custody = s.custody := rfl
@[simp] theorem setMonitor_plans (i : SlotNo) (m : MonitorSlot) : (s.setMonitor i m).plans = s.plans := rfl
@[simp] theorem setMonitor_lanes (i : SlotNo) (m : MonitorSlot) : (s.setMonitor i m).lanes = s.lanes := rfl
@[simp] theorem setMonitor_line (i : SlotNo) (m : MonitorSlot) : (s.setMonitor i m).line = s.line := rfl
@[simp] theorem setMonitor_lamps (i : SlotNo) (m : MonitorSlot) : (s.setMonitor i m).lamps = s.lamps := rfl
@[simp] theorem setMonitor_wire (i : SlotNo) (m : MonitorSlot) : (s.setMonitor i m).wire = s.wire := rfl
@[simp] theorem setMonitor_free (i : SlotNo) (m : MonitorSlot) : (s.setMonitor i m).free = s.free := rfl
@[simp] theorem setMonitor_pending (i : SlotNo) (m : MonitorSlot) : (s.setMonitor i m).pending = s.pending := rfl

@[simp] theorem setCharge_clock (i : SlotNo) (c : ChargeSlot) : (s.setCharge i c).clock = s.clock := rfl
@[simp] theorem setCharge_baseAt (i : SlotNo) (c : ChargeSlot) : (s.setCharge i c).baseAt = s.baseAt := rfl
@[simp] theorem setCharge_mode (i : SlotNo) (c : ChargeSlot) : (s.setCharge i c).mode = s.mode := rfl
@[simp] theorem setCharge_address (i : SlotNo) (c : ChargeSlot) : (s.setCharge i c).address = s.address := rfl
@[simp] theorem setCharge_cfg (i : SlotNo) (c : ChargeSlot) : (s.setCharge i c).cfg = s.cfg := rfl
@[simp] theorem setCharge_defaulted (i : SlotNo) (c : ChargeSlot) : (s.setCharge i c).defaulted = s.defaulted := rfl
@[simp] theorem setCharge_monitor (i : SlotNo) (c : ChargeSlot) : (s.setCharge i c).monitor = s.monitor := rfl
@[simp] theorem setCharge_charge (i : SlotNo) (c : ChargeSlot) : (s.setCharge i c).charge = setAt s.charge i c := rfl
@[simp] theorem setCharge_share (i : SlotNo) (c : ChargeSlot) : (s.setCharge i c).share = s.share := rfl
@[simp] theorem setCharge_latch (i : SlotNo) (c : ChargeSlot) : (s.setCharge i c).latch = s.latch := rfl
@[simp] theorem setCharge_claims (i : SlotNo) (c : ChargeSlot) : (s.setCharge i c).claims = s.claims := rfl
@[simp] theorem setCharge_custody (i : SlotNo) (c : ChargeSlot) : (s.setCharge i c).custody = s.custody := rfl
@[simp] theorem setCharge_plans (i : SlotNo) (c : ChargeSlot) : (s.setCharge i c).plans = s.plans := rfl
@[simp] theorem setCharge_lanes (i : SlotNo) (c : ChargeSlot) : (s.setCharge i c).lanes = s.lanes := rfl
@[simp] theorem setCharge_line (i : SlotNo) (c : ChargeSlot) : (s.setCharge i c).line = s.line := rfl
@[simp] theorem setCharge_lamps (i : SlotNo) (c : ChargeSlot) : (s.setCharge i c).lamps = s.lamps := rfl
@[simp] theorem setCharge_wire (i : SlotNo) (c : ChargeSlot) : (s.setCharge i c).wire = s.wire := rfl
@[simp] theorem setCharge_free (i : SlotNo) (c : ChargeSlot) : (s.setCharge i c).free = s.free := rfl
@[simp] theorem setCharge_pending (i : SlotNo) (c : ChargeSlot) : (s.setCharge i c).pending = s.pending := rfl

@[simp] theorem setLatch_clock (i : SlotNo) (l : LatchSlot) : (s.setLatch i l).clock = s.clock := rfl
@[simp] theorem setLatch_baseAt (i : SlotNo) (l : LatchSlot) : (s.setLatch i l).baseAt = s.baseAt := rfl
@[simp] theorem setLatch_mode (i : SlotNo) (l : LatchSlot) : (s.setLatch i l).mode = s.mode := rfl
@[simp] theorem setLatch_address (i : SlotNo) (l : LatchSlot) : (s.setLatch i l).address = s.address := rfl
@[simp] theorem setLatch_cfg (i : SlotNo) (l : LatchSlot) : (s.setLatch i l).cfg = s.cfg := rfl
@[simp] theorem setLatch_defaulted (i : SlotNo) (l : LatchSlot) : (s.setLatch i l).defaulted = s.defaulted := rfl
@[simp] theorem setLatch_monitor (i : SlotNo) (l : LatchSlot) : (s.setLatch i l).monitor = s.monitor := rfl
@[simp] theorem setLatch_charge (i : SlotNo) (l : LatchSlot) : (s.setLatch i l).charge = s.charge := rfl
@[simp] theorem setLatch_share (i : SlotNo) (l : LatchSlot) : (s.setLatch i l).share = s.share := rfl
@[simp] theorem setLatch_latch (i : SlotNo) (l : LatchSlot) : (s.setLatch i l).latch = setAt s.latch i l := rfl
@[simp] theorem setLatch_claims (i : SlotNo) (l : LatchSlot) : (s.setLatch i l).claims = s.claims := rfl
@[simp] theorem setLatch_custody (i : SlotNo) (l : LatchSlot) : (s.setLatch i l).custody = s.custody := rfl
@[simp] theorem setLatch_plans (i : SlotNo) (l : LatchSlot) : (s.setLatch i l).plans = s.plans := rfl
@[simp] theorem setLatch_lanes (i : SlotNo) (l : LatchSlot) : (s.setLatch i l).lanes = s.lanes := rfl
@[simp] theorem setLatch_line (i : SlotNo) (l : LatchSlot) : (s.setLatch i l).line = s.line := rfl
@[simp] theorem setLatch_lamps (i : SlotNo) (l : LatchSlot) : (s.setLatch i l).lamps = s.lamps := rfl
@[simp] theorem setLatch_wire (i : SlotNo) (l : LatchSlot) : (s.setLatch i l).wire = s.wire := rfl
@[simp] theorem setLatch_free (i : SlotNo) (l : LatchSlot) : (s.setLatch i l).free = s.free := rfl
@[simp] theorem setLatch_pending (i : SlotNo) (l : LatchSlot) : (s.setLatch i l).pending = s.pending := rfl

@[simp] theorem setCustody_clock (i : SlotNo) (c : CustodySlot) : (s.setCustody i c).clock = s.clock := rfl
@[simp] theorem setCustody_baseAt (i : SlotNo) (c : CustodySlot) : (s.setCustody i c).baseAt = s.baseAt := rfl
@[simp] theorem setCustody_mode (i : SlotNo) (c : CustodySlot) : (s.setCustody i c).mode = s.mode := rfl
@[simp] theorem setCustody_address (i : SlotNo) (c : CustodySlot) : (s.setCustody i c).address = s.address := rfl
@[simp] theorem setCustody_cfg (i : SlotNo) (c : CustodySlot) : (s.setCustody i c).cfg = s.cfg := rfl
@[simp] theorem setCustody_defaulted (i : SlotNo) (c : CustodySlot) : (s.setCustody i c).defaulted = s.defaulted := rfl
@[simp] theorem setCustody_monitor (i : SlotNo) (c : CustodySlot) : (s.setCustody i c).monitor = s.monitor := rfl
@[simp] theorem setCustody_charge (i : SlotNo) (c : CustodySlot) : (s.setCustody i c).charge = s.charge := rfl
@[simp] theorem setCustody_share (i : SlotNo) (c : CustodySlot) : (s.setCustody i c).share = s.share := rfl
@[simp] theorem setCustody_latch (i : SlotNo) (c : CustodySlot) : (s.setCustody i c).latch = s.latch := rfl
@[simp] theorem setCustody_claims (i : SlotNo) (c : CustodySlot) : (s.setCustody i c).claims = s.claims := rfl
@[simp] theorem setCustody_custody (i : SlotNo) (c : CustodySlot) : (s.setCustody i c).custody = { s.custody with slots := setAt s.custody.slots i c } := rfl
@[simp] theorem setCustody_plans (i : SlotNo) (c : CustodySlot) : (s.setCustody i c).plans = s.plans := rfl
@[simp] theorem setCustody_lanes (i : SlotNo) (c : CustodySlot) : (s.setCustody i c).lanes = s.lanes := rfl
@[simp] theorem setCustody_line (i : SlotNo) (c : CustodySlot) : (s.setCustody i c).line = s.line := rfl
@[simp] theorem setCustody_lamps (i : SlotNo) (c : CustodySlot) : (s.setCustody i c).lamps = s.lamps := rfl
@[simp] theorem setCustody_wire (i : SlotNo) (c : CustodySlot) : (s.setCustody i c).wire = s.wire := rfl
@[simp] theorem setCustody_free (i : SlotNo) (c : CustodySlot) : (s.setCustody i c).free = s.free := rfl
@[simp] theorem setCustody_pending (i : SlotNo) (c : CustodySlot) : (s.setCustody i c).pending = s.pending := rfl

@[simp] theorem setPlan_clock (i : SlotNo) (p : PlanSlot) : (s.setPlan i p).clock = s.clock := rfl
@[simp] theorem setPlan_baseAt (i : SlotNo) (p : PlanSlot) : (s.setPlan i p).baseAt = s.baseAt := rfl
@[simp] theorem setPlan_mode (i : SlotNo) (p : PlanSlot) : (s.setPlan i p).mode = s.mode := rfl
@[simp] theorem setPlan_address (i : SlotNo) (p : PlanSlot) : (s.setPlan i p).address = s.address := rfl
@[simp] theorem setPlan_cfg (i : SlotNo) (p : PlanSlot) : (s.setPlan i p).cfg = s.cfg := rfl
@[simp] theorem setPlan_defaulted (i : SlotNo) (p : PlanSlot) : (s.setPlan i p).defaulted = s.defaulted := rfl
@[simp] theorem setPlan_monitor (i : SlotNo) (p : PlanSlot) : (s.setPlan i p).monitor = s.monitor := rfl
@[simp] theorem setPlan_charge (i : SlotNo) (p : PlanSlot) : (s.setPlan i p).charge = s.charge := rfl
@[simp] theorem setPlan_share (i : SlotNo) (p : PlanSlot) : (s.setPlan i p).share = s.share := rfl
@[simp] theorem setPlan_latch (i : SlotNo) (p : PlanSlot) : (s.setPlan i p).latch = s.latch := rfl
@[simp] theorem setPlan_claims (i : SlotNo) (p : PlanSlot) : (s.setPlan i p).claims = s.claims := rfl
@[simp] theorem setPlan_custody (i : SlotNo) (p : PlanSlot) : (s.setPlan i p).custody = s.custody := rfl
@[simp] theorem setPlan_plans (i : SlotNo) (p : PlanSlot) : (s.setPlan i p).plans = { s.plans with slots := setAt s.plans.slots i p } := rfl
@[simp] theorem setPlan_lanes (i : SlotNo) (p : PlanSlot) : (s.setPlan i p).lanes = s.lanes := rfl
@[simp] theorem setPlan_line (i : SlotNo) (p : PlanSlot) : (s.setPlan i p).line = s.line := rfl
@[simp] theorem setPlan_lamps (i : SlotNo) (p : PlanSlot) : (s.setPlan i p).lamps = s.lamps := rfl
@[simp] theorem setPlan_wire (i : SlotNo) (p : PlanSlot) : (s.setPlan i p).wire = s.wire := rfl
@[simp] theorem setPlan_free (i : SlotNo) (p : PlanSlot) : (s.setPlan i p).free = s.free := rfl
@[simp] theorem setPlan_pending (i : SlotNo) (p : PlanSlot) : (s.setPlan i p).pending = s.pending := rfl

@[simp] theorem setLane_clock (l : LaneNo) (x : Lane) : (s.setLane l x).clock = s.clock := rfl
@[simp] theorem setLane_baseAt (l : LaneNo) (x : Lane) : (s.setLane l x).baseAt = s.baseAt := rfl
@[simp] theorem setLane_mode (l : LaneNo) (x : Lane) : (s.setLane l x).mode = s.mode := rfl
@[simp] theorem setLane_address (l : LaneNo) (x : Lane) : (s.setLane l x).address = s.address := rfl
@[simp] theorem setLane_cfg (l : LaneNo) (x : Lane) : (s.setLane l x).cfg = s.cfg := rfl
@[simp] theorem setLane_defaulted (l : LaneNo) (x : Lane) : (s.setLane l x).defaulted = s.defaulted := rfl
@[simp] theorem setLane_monitor (l : LaneNo) (x : Lane) : (s.setLane l x).monitor = s.monitor := rfl
@[simp] theorem setLane_charge (l : LaneNo) (x : Lane) : (s.setLane l x).charge = s.charge := rfl
@[simp] theorem setLane_share (l : LaneNo) (x : Lane) : (s.setLane l x).share = s.share := rfl
@[simp] theorem setLane_latch (l : LaneNo) (x : Lane) : (s.setLane l x).latch = s.latch := rfl
@[simp] theorem setLane_claims (l : LaneNo) (x : Lane) : (s.setLane l x).claims = s.claims := rfl
@[simp] theorem setLane_custody (l : LaneNo) (x : Lane) : (s.setLane l x).custody = s.custody := rfl
@[simp] theorem setLane_plans (l : LaneNo) (x : Lane) : (s.setLane l x).plans = s.plans := rfl
@[simp] theorem setLane_lanes (l : LaneNo) (x : Lane) : (s.setLane l x).lanes = { s.lanes with table := setAt s.lanes.table l x } := rfl
@[simp] theorem setLane_line (l : LaneNo) (x : Lane) : (s.setLane l x).line = s.line := rfl
@[simp] theorem setLane_lamps (l : LaneNo) (x : Lane) : (s.setLane l x).lamps = s.lamps := rfl
@[simp] theorem setLane_wire (l : LaneNo) (x : Lane) : (s.setLane l x).wire = s.wire := rfl
@[simp] theorem setLane_free (l : LaneNo) (x : Lane) : (s.setLane l x).free = s.free := rfl
@[simp] theorem setLane_pending (l : LaneNo) (x : Lane) : (s.setLane l x).pending = s.pending := rfl

@[simp] theorem setRequests_clock (rs : List Request) : (s.setRequests rs).clock = s.clock := rfl
@[simp] theorem setRequests_baseAt (rs : List Request) : (s.setRequests rs).baseAt = s.baseAt := rfl
@[simp] theorem setRequests_mode (rs : List Request) : (s.setRequests rs).mode = s.mode := rfl
@[simp] theorem setRequests_address (rs : List Request) : (s.setRequests rs).address = s.address := rfl
@[simp] theorem setRequests_cfg (rs : List Request) : (s.setRequests rs).cfg = s.cfg := rfl
@[simp] theorem setRequests_defaulted (rs : List Request) : (s.setRequests rs).defaulted = s.defaulted := rfl
@[simp] theorem setRequests_monitor (rs : List Request) : (s.setRequests rs).monitor = s.monitor := rfl
@[simp] theorem setRequests_charge (rs : List Request) : (s.setRequests rs).charge = s.charge := rfl
@[simp] theorem setRequests_share (rs : List Request) : (s.setRequests rs).share = s.share := rfl
@[simp] theorem setRequests_latch (rs : List Request) : (s.setRequests rs).latch = s.latch := rfl
@[simp] theorem setRequests_claims (rs : List Request) : (s.setRequests rs).claims = { s.claims with requests := rs } := rfl
@[simp] theorem setRequests_custody (rs : List Request) : (s.setRequests rs).custody = s.custody := rfl
@[simp] theorem setRequests_plans (rs : List Request) : (s.setRequests rs).plans = s.plans := rfl
@[simp] theorem setRequests_lanes (rs : List Request) : (s.setRequests rs).lanes = s.lanes := rfl
@[simp] theorem setRequests_line (rs : List Request) : (s.setRequests rs).line = s.line := rfl
@[simp] theorem setRequests_lamps (rs : List Request) : (s.setRequests rs).lamps = s.lamps := rfl
@[simp] theorem setRequests_wire (rs : List Request) : (s.setRequests rs).wire = s.wire := rfl
@[simp] theorem setRequests_free (rs : List Request) : (s.setRequests rs).free = s.free := rfl
@[simp] theorem setRequests_pending (rs : List Request) : (s.setRequests rs).pending = s.pending := rfl

@[simp] theorem setSilence_clock (t : Option Nat) : (s.setSilence t).clock = s.clock := rfl
@[simp] theorem setSilence_baseAt (t : Option Nat) : (s.setSilence t).baseAt = s.baseAt := rfl
@[simp] theorem setSilence_mode (t : Option Nat) : (s.setSilence t).mode = s.mode := rfl
@[simp] theorem setSilence_address (t : Option Nat) : (s.setSilence t).address = s.address := rfl
@[simp] theorem setSilence_cfg (t : Option Nat) : (s.setSilence t).cfg = s.cfg := rfl
@[simp] theorem setSilence_defaulted (t : Option Nat) : (s.setSilence t).defaulted = s.defaulted := rfl
@[simp] theorem setSilence_monitor (t : Option Nat) : (s.setSilence t).monitor = s.monitor := rfl
@[simp] theorem setSilence_charge (t : Option Nat) : (s.setSilence t).charge = s.charge := rfl
@[simp] theorem setSilence_share (t : Option Nat) : (s.setSilence t).share = { s.share with silenceAt := t } := rfl
@[simp] theorem setSilence_latch (t : Option Nat) : (s.setSilence t).latch = s.latch := rfl
@[simp] theorem setSilence_claims (t : Option Nat) : (s.setSilence t).claims = s.claims := rfl
@[simp] theorem setSilence_custody (t : Option Nat) : (s.setSilence t).custody = s.custody := rfl
@[simp] theorem setSilence_plans (t : Option Nat) : (s.setSilence t).plans = s.plans := rfl
@[simp] theorem setSilence_lanes (t : Option Nat) : (s.setSilence t).lanes = s.lanes := rfl
@[simp] theorem setSilence_line (t : Option Nat) : (s.setSilence t).line = s.line := rfl
@[simp] theorem setSilence_lamps (t : Option Nat) : (s.setSilence t).lamps = s.lamps := rfl
@[simp] theorem setSilence_wire (t : Option Nat) : (s.setSilence t).wire = s.wire := rfl
@[simp] theorem setSilence_free (t : Option Nat) : (s.setSilence t).free = s.free := rfl
@[simp] theorem setSilence_pending (t : Option Nat) : (s.setSilence t).pending = s.pending := rfl

@[simp] theorem setPeer_clock (a : Station) (p : Option Peer) : (s.setPeer a p).clock = s.clock := rfl
@[simp] theorem setPeer_baseAt (a : Station) (p : Option Peer) : (s.setPeer a p).baseAt = s.baseAt := rfl
@[simp] theorem setPeer_mode (a : Station) (p : Option Peer) : (s.setPeer a p).mode = s.mode := rfl
@[simp] theorem setPeer_address (a : Station) (p : Option Peer) : (s.setPeer a p).address = s.address := rfl
@[simp] theorem setPeer_cfg (a : Station) (p : Option Peer) : (s.setPeer a p).cfg = s.cfg := rfl
@[simp] theorem setPeer_defaulted (a : Station) (p : Option Peer) : (s.setPeer a p).defaulted = s.defaulted := rfl
@[simp] theorem setPeer_monitor (a : Station) (p : Option Peer) : (s.setPeer a p).monitor = s.monitor := rfl
@[simp] theorem setPeer_charge (a : Station) (p : Option Peer) : (s.setPeer a p).charge = s.charge := rfl
@[simp] theorem setPeer_share (a : Station) (p : Option Peer) : (s.setPeer a p).share = { s.share with peers := setAt s.share.peers a p } := rfl
@[simp] theorem setPeer_latch (a : Station) (p : Option Peer) : (s.setPeer a p).latch = s.latch := rfl
@[simp] theorem setPeer_claims (a : Station) (p : Option Peer) : (s.setPeer a p).claims = s.claims := rfl
@[simp] theorem setPeer_custody (a : Station) (p : Option Peer) : (s.setPeer a p).custody = s.custody := rfl
@[simp] theorem setPeer_plans (a : Station) (p : Option Peer) : (s.setPeer a p).plans = s.plans := rfl
@[simp] theorem setPeer_lanes (a : Station) (p : Option Peer) : (s.setPeer a p).lanes = s.lanes := rfl
@[simp] theorem setPeer_line (a : Station) (p : Option Peer) : (s.setPeer a p).line = s.line := rfl
@[simp] theorem setPeer_lamps (a : Station) (p : Option Peer) : (s.setPeer a p).lamps = s.lamps := rfl
@[simp] theorem setPeer_wire (a : Station) (p : Option Peer) : (s.setPeer a p).wire = s.wire := rfl
@[simp] theorem setPeer_free (a : Station) (p : Option Peer) : (s.setPeer a p).free = s.free := rfl
@[simp] theorem setPeer_pending (a : Station) (p : Option Peer) : (s.setPeer a p).pending = s.pending := rfl

@[simp] theorem setCeilings_clock (rs : List CeilingRecord) : (s.setCeilings rs).clock = s.clock := rfl
@[simp] theorem setCeilings_baseAt (rs : List CeilingRecord) : (s.setCeilings rs).baseAt = s.baseAt := rfl
@[simp] theorem setCeilings_mode (rs : List CeilingRecord) : (s.setCeilings rs).mode = s.mode := rfl
@[simp] theorem setCeilings_address (rs : List CeilingRecord) : (s.setCeilings rs).address = s.address := rfl
@[simp] theorem setCeilings_cfg (rs : List CeilingRecord) : (s.setCeilings rs).cfg = s.cfg := rfl
@[simp] theorem setCeilings_defaulted (rs : List CeilingRecord) : (s.setCeilings rs).defaulted = s.defaulted := rfl
@[simp] theorem setCeilings_monitor (rs : List CeilingRecord) : (s.setCeilings rs).monitor = s.monitor := rfl
@[simp] theorem setCeilings_charge (rs : List CeilingRecord) : (s.setCeilings rs).charge = s.charge := rfl
@[simp] theorem setCeilings_share (rs : List CeilingRecord) : (s.setCeilings rs).share = { s.share with ceilings := rs } := rfl
@[simp] theorem setCeilings_latch (rs : List CeilingRecord) : (s.setCeilings rs).latch = s.latch := rfl
@[simp] theorem setCeilings_claims (rs : List CeilingRecord) : (s.setCeilings rs).claims = s.claims := rfl
@[simp] theorem setCeilings_custody (rs : List CeilingRecord) : (s.setCeilings rs).custody = s.custody := rfl
@[simp] theorem setCeilings_plans (rs : List CeilingRecord) : (s.setCeilings rs).plans = s.plans := rfl
@[simp] theorem setCeilings_lanes (rs : List CeilingRecord) : (s.setCeilings rs).lanes = s.lanes := rfl
@[simp] theorem setCeilings_line (rs : List CeilingRecord) : (s.setCeilings rs).line = s.line := rfl
@[simp] theorem setCeilings_lamps (rs : List CeilingRecord) : (s.setCeilings rs).lamps = s.lamps := rfl
@[simp] theorem setCeilings_wire (rs : List CeilingRecord) : (s.setCeilings rs).wire = s.wire := rfl
@[simp] theorem setCeilings_free (rs : List CeilingRecord) : (s.setCeilings rs).free = s.free := rfl
@[simp] theorem setCeilings_pending (rs : List CeilingRecord) : (s.setCeilings rs).pending = s.pending := rfl

@[simp] theorem setLine_clock (l : Line) : (s.setLine l).clock = s.clock := rfl
@[simp] theorem setLine_baseAt (l : Line) : (s.setLine l).baseAt = s.baseAt := rfl
@[simp] theorem setLine_mode (l : Line) : (s.setLine l).mode = s.mode := rfl
@[simp] theorem setLine_address (l : Line) : (s.setLine l).address = s.address := rfl
@[simp] theorem setLine_cfg (l : Line) : (s.setLine l).cfg = s.cfg := rfl
@[simp] theorem setLine_defaulted (l : Line) : (s.setLine l).defaulted = s.defaulted := rfl
@[simp] theorem setLine_monitor (l : Line) : (s.setLine l).monitor = s.monitor := rfl
@[simp] theorem setLine_charge (l : Line) : (s.setLine l).charge = s.charge := rfl
@[simp] theorem setLine_share (l : Line) : (s.setLine l).share = s.share := rfl
@[simp] theorem setLine_latch (l : Line) : (s.setLine l).latch = s.latch := rfl
@[simp] theorem setLine_claims (l : Line) : (s.setLine l).claims = s.claims := rfl
@[simp] theorem setLine_custody (l : Line) : (s.setLine l).custody = s.custody := rfl
@[simp] theorem setLine_plans (l : Line) : (s.setLine l).plans = s.plans := rfl
@[simp] theorem setLine_lanes (l : Line) : (s.setLine l).lanes = s.lanes := rfl
@[simp] theorem setLine_line (l : Line) : (s.setLine l).line = l := rfl
@[simp] theorem setLine_lamps (l : Line) : (s.setLine l).lamps = s.lamps := rfl
@[simp] theorem setLine_wire (l : Line) : (s.setLine l).wire = s.wire := rfl
@[simp] theorem setLine_free (l : Line) : (s.setLine l).free = s.free := rfl
@[simp] theorem setLine_pending (l : Line) : (s.setLine l).pending = s.pending := rfl

@[simp] theorem hand_clock (f : TxFrame) : (s.hand f).clock = s.clock := rfl
@[simp] theorem hand_baseAt (f : TxFrame) : (s.hand f).baseAt = s.baseAt := rfl
@[simp] theorem hand_mode (f : TxFrame) : (s.hand f).mode = s.mode := rfl
@[simp] theorem hand_address (f : TxFrame) : (s.hand f).address = s.address := rfl
@[simp] theorem hand_cfg (f : TxFrame) : (s.hand f).cfg = s.cfg := rfl
@[simp] theorem hand_defaulted (f : TxFrame) : (s.hand f).defaulted = s.defaulted := rfl
@[simp] theorem hand_monitor (f : TxFrame) : (s.hand f).monitor = s.monitor := rfl
@[simp] theorem hand_charge (f : TxFrame) : (s.hand f).charge = s.charge := rfl
@[simp] theorem hand_share (f : TxFrame) : (s.hand f).share = s.share := rfl
@[simp] theorem hand_latch (f : TxFrame) : (s.hand f).latch = s.latch := rfl
@[simp] theorem hand_claims (f : TxFrame) : (s.hand f).claims = s.claims := rfl
@[simp] theorem hand_custody (f : TxFrame) : (s.hand f).custody = s.custody := rfl
@[simp] theorem hand_plans (f : TxFrame) : (s.hand f).plans = s.plans := rfl
@[simp] theorem hand_lanes (f : TxFrame) : (s.hand f).lanes = s.lanes := rfl
@[simp] theorem hand_line (f : TxFrame) : (s.hand f).line = s.line.hand f := rfl
@[simp] theorem hand_lamps (f : TxFrame) : (s.hand f).lamps = s.lamps := rfl
@[simp] theorem hand_wire (f : TxFrame) : (s.hand f).wire = s.wire := rfl
@[simp] theorem hand_free (f : TxFrame) : (s.hand f).free = s.free := rfl
@[simp] theorem hand_pending (f : TxFrame) : (s.hand f).pending = s.pending := rfl

end Sys2Proof.Machine
end

