-- ==== Sys2Proof/Laws/Keeps.lean ====
section
/-! SUPPORT. What each shared operation leaves alone: one frame lemma for each, composed from the frames of what it calls. -/

namespace Sys2Proof.Machine

/-! ## Frames compose -/

theorem same_self (s : State) (p : Part) : same s s p := by cases p <;> simp [same]

theorem Keeps.refl (ps : List Part) (s : State) : Keeps ps s s := fun p _ => same_self s p

theorem same.trans {s t u : State} {p : Part} (h : same s t p) (k : same t u p) : same s u p := by
  cases p <;> simp_all [same]

theorem Keeps.trans {ps : List Part} {s t u : State} (h : Keeps ps s t) (k : Keeps ps t u) : Keeps ps s u :=
  fun p hp => (h p hp).trans (k p hp)

theorem Keeps.mono {ps qs : List Part} {s t : State} (h : Keeps ps s t) (sub : ps ⊆ qs) : Keeps qs s t :=
  fun p hp => h p (fun m => hp (sub m))

theorem Keeps.ite {ps : List Part} {s t u : State} {c : Prop} [Decidable c] (h : Keeps ps s t) (k : Keeps ps s u) :
    Keeps ps s (if c then t else u) := by split <;> assumption

/-- A fold keeps what its step keeps. -/
theorem keeps_foldl {α : Type} {ps : List Part} (f : State → α → State) (h : ∀ s a, Keeps ps s (f s a)) :
    ∀ (l : List α) (s : State), Keeps ps s (l.foldl f s)
  | [], s => Keeps.refl ps s
  | a :: l, s => (h s a).trans (keeps_foldl f h l (f s a))

theorem keeps_forSlots {ps : List Part} (f : SlotNo → State → State) (h : ∀ i s, Keeps ps s (f i s)) (ks : List SlotNo)
    (s : State) : Keeps ps s (forSlots ks f s) := keeps_foldl (fun t k => f k t) (fun t k => h k t) ks s

/-! ## Plain updates -/

theorem reach_keeps (t : Nat) (s : State) : Keeps [.clock] s (s.reach t) := by
  intro p hp; cases p <;> simp_all [same, State.reach]
theorem setMonitor_keeps (i : SlotNo) (m : MonitorSlot) (s : State) : Keeps [.monitor] s (s.setMonitor i m) := by
  intro p hp; cases p <;> simp_all [same]
theorem setCharge_keeps (i : SlotNo) (c : ChargeSlot) (s : State) : Keeps [.charge] s (s.setCharge i c) := by
  intro p hp; cases p <;> simp_all [same]
theorem setLatch_keeps (i : SlotNo) (l : LatchSlot) (s : State) : Keeps [.latch] s (s.setLatch i l) := by
  intro p hp; cases p <;> simp_all [same]
theorem setCustody_keeps (i : SlotNo) (c : CustodySlot) (s : State) : Keeps [.custody] s (s.setCustody i c) := by
  intro p hp; cases p <;> simp_all [same]
theorem setPlan_keeps (i : SlotNo) (x : PlanSlot) (s : State) : Keeps [.runs] s (s.setPlan i x) := by
  intro p hp; cases p <;> simp_all [same]
theorem setLane_keeps (l : LaneNo) (x : Lane) (s : State) : Keeps [.lanes] s (s.setLane l x) := by
  intro p hp; cases p <;> simp_all [same]
theorem setRequests_keeps (rs : List Request) (s : State) : Keeps [.requests] s (s.setRequests rs) := by
  intro p hp; cases p <;> simp_all [same]

/-! ## The transmit queue -/

theorem enter_errors (f : TxFrame) (l : Line) : (l.enter f).errors = l.errors := rfl
theorem enter_phase (f : TxFrame) (l : Line) : (l.enter f).phase = l.phase := rfl

@[simp] theorem hand_errors (f : TxFrame) (l : Line) : (l.hand f).errors = l.errors := by
  unfold Line.hand; split <;> rfl
@[simp] theorem hand_phase (f : TxFrame) (l : Line) : (l.hand f).phase = l.phase := by
  unfold Line.hand; split <;> rfl
@[simp] theorem lineHandNeed_errors (f : TxFrame) (l : Line) : (l.handNeed f).errors = l.errors := by
  unfold Line.handNeed; split <;> simp
@[simp] theorem lineHandNeed_phase (f : TxFrame) (l : Line) : (l.handNeed f).phase = l.phase := by
  unfold Line.handNeed; split <;> simp

theorem hand_keeps (f : TxFrame) (s : State) : Keeps [.queue] s (s.hand f) := by
  intro p hp; cases p <;> simp_all [same]

theorem notice_keeps (k : NoticeKind) (i : Option SlotNo) (d : Nat) (s : State) : Keeps [.queue] s (s.notice k i d) :=
  Keeps.ite (hand_keeps _ _) (Keeps.refl _ _)

/-! ## Power -/

theorem updateCharge_keeps (i : SlotNo) (f : ChargeSlot → ChargeSlot) (s : State) :
    Keeps powerParts s (s.updateCharge i f) := by
  unfold State.updateCharge
  have h : Keeps powerParts s (s.setCharge i (f (s.charge.get i))) := (setCharge_keeps _ _ _).mono (by decide)
  exact Keeps.ite (h.trans ((notice_keeps _ _ _ _).mono (by decide))) h

theorem setShareResults_keeps (s : State) (o : Demand) (a b : Nat) (n : Option Nat) (e f : Bool) (g : Nat)
    (v : Vector Nat 6) :
    Keeps powerParts s { s with share := { s.share with
      own := o, target := a, alloc := b, lastNeed := n, earlyDue := e, floorShort := f, lastSum := g, slotAlloc := v } } := by
  intro p hp; cases p <;> simp_all [same, powerParts]

theorem handAllocation_keeps (k : SlotNo) (p : Nat) (s : State) : Keeps powerParts s (handAllocation k p s) := by
  unfold handAllocation
  refine Keeps.ite (Keeps.refl _ _) (Keeps.trans ?_ (updateCharge_keeps _ _ _))
  intro p hp; cases p <;> simp_all [same, powerParts]

theorem distribute_keeps (s : State) : Keeps powerParts s s.distribute :=
  keeps_forSlots _ (fun _ _ => handAllocation_keeps _ _ _) _ _

theorem judgeFloorShort_keeps (s : State) : Keeps powerParts s s.judgeFloorShort := by
  unfold State.judgeFloorShort
  refine Keeps.ite (Keeps.ite (Keeps.refl _ _) (Keeps.trans ?_ ((notice_keeps _ _ _ _).mono (by decide)))) ?_ <;>
    (intro p hp; cases p <;> simp_all [same, powerParts])

theorem computeOnce_keeps (r : Bool) (s : State) : Keeps powerParts s (s.computeOnce r) := by
  unfold State.computeOnce
  refine (judgeFloorShort_keeps s).trans (Keeps.trans ?_ (distribute_keeps _))
  intro p hp; cases p <;> simp_all [same, powerParts]

theorem handNeed_keeps (s : State) : Keeps powerParts s s.handNeed := by
  intro p hp; cases p <;> simp_all [same, powerParts, State.handNeed]

theorem judgeEarlyNeed_keeps (s : State) : Keeps powerParts s s.judgeEarlyNeed := by
  unfold State.judgeEarlyNeed
  refine Keeps.ite (Keeps.ite (handNeed_keeps s) ?_) (Keeps.refl _ _)
  intro p hp; cases p <;> simp_all [same, powerParts]

theorem takeDemands_keeps (s : State) : Keeps powerParts s s.takeDemands := by
  intro p hp; cases p <;> simp_all [same, powerParts, State.takeDemands]

theorem demandRound_keeps (s : State) : Keeps powerParts s s.demandRound := by
  unfold State.demandRound
  refine (takeDemands_keeps s).trans (Keeps.ite (distribute_keeps _)
    (Keeps.trans ?_ ((judgeEarlyNeed_keeps _).trans (computeOnce_keeps _ _))))
  intro p hp; cases p <;> simp_all [same, powerParts]

theorem settle_keeps : ∀ (n : Nat) (s : State), Keeps powerParts s (settle n s)
  | 0, s => Keeps.refl _ s
  | n + 1, s => by
    unfold settle
    exact Keeps.ite ((demandRound_keeps s).trans (settle_keeps n _)) (Keeps.refl _ _)

theorem settled_keeps (s : State) : Keeps powerParts s s.settled := settle_keeps _ s

theorem compute_keeps (r : Bool) (s : State) : Keeps powerParts s (s.compute r) :=
  (computeOnce_keeps r s).trans (settled_keeps _)

theorem chargeEvent_keeps (i : SlotNo) (f : ChargeSlot → ChargeSlot) (s : State) :
    Keeps powerParts s (s.chargeEvent i f) := (updateCharge_keeps i f s).trans (settled_keeps _)

end Sys2Proof.Machine
end

