-- ==== Sys2Proof/Laws/KeepsLatch.lean ====
section
/-! SUPPORT. Frames of the Latch Driver's and the Claim Unit's operations. -/

namespace Sys2Proof.Machine

/-- What a pulse's end, a request or a report can move. -/
def latchParts : List Part := [.latch, .requests, .queue, .custody]

/-- What an admission or an expiry can move. -/
def claimParts : List Part := [.claimList, .reserve, .latch, .requests, .charge, .share, .queue]

/-! ## Reports -/

theorem setHold_keeps (i : SlotNo) (h : Option Hold) (s : State) : Keeps [.custody] s (s.setHold i h) :=
  setCustody_keeps _ _ _

theorem tamperReport_keeps (i : SlotNo) (c : TamperCause) (found : Bool) (s : State) :
    Keeps [.custody, .queue] s (s.tamperReport i c found) := by
  unfold State.tamperReport
  exact Keeps.ite (Keeps.refl _ _) (((setHold_keeps _ _ _).mono (by decide)).trans ((notice_keeps _ _ _ _).mono (by decide)))

theorem jamReport_keeps (i : SlotNo) (s : State) : Keeps [.custody] s (s.jamReport i) := setHold_keeps _ _ _

/-! ## Claims -/

theorem reportReserve_keeps (s : State) : Keeps [.reserve, .charge, .share, .queue] s s.reportReserve := by
  unfold State.reportReserve
  refine Keeps.trans ?_ ((compute_keeps _ _).mono (by decide))
  intro p hp; cases p <;> simp_all [same]

theorem enterClaim_keeps (e : ClaimEntry) (s : State) : Keeps [.claimList, .reserve, .charge, .share, .queue] s (s.enterClaim e) := by
  unfold State.enterClaim
  refine Keeps.trans ?_ ((reportReserve_keeps _).mono (by decide))
  intro p hp; cases p <;> simp_all [same]

theorem handClaim_keeps (s : State) : Keeps [.requests, .queue] s s.handClaim := by
  unfold State.handClaim
  split
  · split
    · exact Keeps.refl _ _
    · intro p hp; cases p <;> simp_all [same]
  · exact Keeps.refl _ _

theorem handClaims_keeps (s : State) : Keeps [.requests, .queue] s s.handClaims :=
  (handClaim_keeps s).trans (handClaim_keeps _)

theorem addRequest_keeps (i : SlotNo) (op : LatchOp) (n : Nat) (s : State) :
    Keeps [.requests, .queue] s (s.addRequest i op n) :=
  ((setRequests_keeps _ _).mono (by decide)).trans (handClaims_keeps _)

theorem withdrawClaims_keeps (s : State) : Keeps [.requests, .queue] s s.withdrawClaims := by
  intro p hp; cases p <;> simp_all [same, State.withdrawClaims]

theorem disownClaim_keeps (i : SlotNo) (s : State) : Keeps [.requests, .queue] s (s.disownClaim i) := by
  unfold State.disownClaim
  split
  · exact Keeps.refl _ _
  · refine Keeps.ite ?_ ?_ <;> (intro p hp; cases p <;> simp_all [same])

theorem endOwnClaim_keeps (f : Bool) (tag : Nat) (op : LatchOp) (i : SlotNo) (s : State) :
    Keeps [.requests] s (s.endOwnClaim f tag op i) := by
  unfold State.endOwnClaim
  split
  · exact Keeps.refl _ _
  · intro p hp; cases p <;> simp_all [same]

/-! ## The bolt -/

theorem setLatchState_keeps (i : SlotNo) (x : LatchState) (s : State) : Keeps [.latch] s (s.setLatchState i x) :=
  setLatch_keeps _ _ _

theorem startOpenTimer_keeps (i : SlotNo) (x : OpenTimer) (s : State) : Keeps [.latch] s (s.startOpenTimer i x) :=
  setLatchState_keeps _ _ _

theorem openLatch_keeps (i : SlotNo) (s : State) : Keeps [.latch] s (s.openLatch i) := startOpenTimer_keeps _ _ _

theorem learnLatch_keeps (i : SlotNo) (s : State) : Keeps [.latch] s (s.learnLatch i) := by
  unfold State.learnLatch
  dsimp only
  split
  · exact (setLatch_keeps _ _ _).trans (setLatchState_keeps _ _ _)
  · exact (setLatch_keeps _ _ _).trans (openLatch_keeps _ _)
  · exact (setLatch_keeps _ _ _).trans (setLatchState_keeps _ _ _)

theorem learnAtStart_keeps (i : SlotNo) (s : State) : Keeps [.latch] s (s.learnAtStart i) :=
  Keeps.ite (learnLatch_keeps _ _) (Keeps.refl _ _)

theorem relearn_keeps (i : SlotNo) (s : State) : Keeps [.latch] s (s.relearn i) :=
  Keeps.ite (learnLatch_keeps _ _) (Keeps.refl _ _)

theorem grantRelease_keeps (i : SlotNo) (s : State) : Keeps [.latch, .requests, .queue] s (s.grantRelease i) :=
  ((setLatch_keeps _ _ _).mono (by decide)).trans ((addRequest_keeps _ _ _ _).mono (by decide))

theorem drivePulse_keeps (i : SlotNo) (op : LatchOp) (d : Nat) (s : State) : Keeps [.latch] s (s.drivePulse i op d) := by
  unfold State.drivePulse
  dsimp only
  split
  · exact setLatch_keeps _ _ _
  · exact setLatch_keeps _ _ _
  · exact Keeps.refl _ _

theorem jam_keeps (i : SlotNo) (op : LatchOp) (s : State) : Keeps latchParts s (s.jam i op) :=
  (((setLatchState_keeps _ _ _).mono (by decide)).trans ((notice_keeps _ _ _ _).mono (by decide))).trans
    ((jamReport_keeps _ _).mono (by decide))

theorem throwWait_keeps (i : SlotNo) (n : Nat) (s : State) : Keeps [.latch, .requests, .queue] s (s.throwWait i n) :=
  ((setLatch_keeps _ _ _).mono (by decide)).trans ((addRequest_keeps _ _ _ _).mono (by decide))

theorem withdrawEnded_keeps (i : SlotNo) (n : Nat) (s : State) : Keeps latchParts s (s.withdrawEnded i n) := by
  unfold State.withdrawEnded
  split
  · exact (openLatch_keeps _ _).mono (by decide)
  · exact Keeps.ite (((setLatch_keeps _ _ _).mono (by decide)).trans ((addRequest_keeps _ _ _ _).mono (by decide)))
      (jam_keeps _ _ _)
  · exact (setLatchState_keeps _ _ _).mono (by decide)

theorem endWithdraw_keeps (i : SlotNo) (s : State) : Keeps latchParts s (s.endWithdraw i) := by
  unfold State.endWithdraw
  have h : ∀ l, Keeps latchParts s (s.setLatch i l) := fun l => (setLatch_keeps _ _ _).mono (by decide)
  have k : ∀ l a, Keeps latchParts s
      (if a = true then (s.setLatch i l).learnLatch i else (s.setLatch i l).withdrawEnded i (s.latch.get i).attempt) :=
    fun l a => Keeps.ite ((h l).trans ((learnLatch_keeps _ _).mono (by decide))) ((h l).trans (withdrawEnded_keeps _ _ _))
  exact Keeps.ite ((k _ _).trans ((tamperReport_keeps _ _ _ _).mono (by decide))) (k _ _)

theorem endThrow_keeps (i : SlotNo) (s : State) : Keeps latchParts s (s.endThrow i) := by
  unfold State.endThrow
  refine Keeps.trans ((setLatch_keeps i _ s).mono (by decide)) (Keeps.ite ((learnLatch_keeps _ _).mono (by decide)) ?_)
  split
  · exact (setLatch_keeps _ _ _).mono (by decide)
  · exact Keeps.ite ((throwWait_keeps _ _ _).mono (by decide)) (jam_keeps _ _ _)
  · exact (setLatchState_keeps _ _ _).mono (by decide)

theorem latchInsertion_keeps (i : SlotNo) (f : Bool) (s : State) :
    Keeps [.latch, .custody, .queue] s (s.latchInsertion i f) := by
  unfold State.latchInsertion
  dsimp only
  split
  · exact (tamperReport_keeps _ _ _ _).mono (by decide)
  · exact (tamperReport_keeps _ _ _ _).mono (by decide)
  · exact (setLatch_keeps _ _ _).mono (by decide)
  · exact (startOpenTimer_keeps _ _ _).mono (by decide)
  · exact Keeps.refl _ _

theorem latchExtraction_keeps (i : SlotNo) (s : State) : Keeps [.latch, .custody, .queue] s (s.latchExtraction i) := by
  unfold State.latchExtraction
  dsimp only
  split
  · exact (tamperReport_keeps _ _ _ _).mono (by decide)
  · exact (tamperReport_keeps _ _ _ _).mono (by decide)
  · exact (setLatch_keeps _ _ _).mono (by decide)
  · exact (startOpenTimer_keeps _ _ _).mono (by decide)
  · exact Keeps.refl _ _

/-! ## A CLAIM at its line position -/

theorem takeClaim_keeps (e : ClaimEntry) (s : State) : Keeps claimParts s (s.takeClaim e) :=
  Keeps.ite ((enterClaim_keeps _ _).mono (by decide)) (Keeps.refl _ _)

theorem ownAdmitted_keeps (c : OwnClaim) (e : ClaimEntry) (s : State) : Keeps claimParts s (s.ownAdmitted c e) := by
  unfold State.ownAdmitted
  have h : ∀ own, Keeps claimParts s (({ s with claims := { s.claims with own := own } } : State).enterClaim e) := fun own =>
    Keeps.trans (by intro p hp; cases p <;> simp_all [same, claimParts]) ((enterClaim_keeps _ _).mono (by decide))
  exact Keeps.ite (((h _).trans ((setRequests_keeps _ _).mono (by decide))).trans ((drivePulse_keeps _ _ _ _).mono (by decide)))
    (h _)

theorem ownRefused_keeps (c : OwnClaim) (s : State) : Keeps [.requests, .queue] s (s.ownRefused c) := by
  unfold State.ownRefused
  refine Keeps.trans (Keeps.ite ?_ ?_) (handClaims_keeps _) <;> (intro p hp; cases p <;> simp_all [same])

theorem completeOwnClaim_keeps (tag : Nat) (op : LatchOp) (i : SlotNo) (a d : Nat) (s : State) :
    Keeps claimParts s (s.completeOwnClaim tag op i a d) := by
  unfold State.completeOwnClaim
  dsimp only
  split
  · exact takeClaim_keeps _ _
  · exact Keeps.ite (ownAdmitted_keeps _ _ _) ((ownRefused_keeps _ _).mono (by decide))

theorem expireClaims_keeps (s : State) : Keeps claimParts s s.expireClaims := by
  unfold State.expireClaims
  refine Keeps.trans (Keeps.trans ?_ ((reportReserve_keeps _).mono (by decide))) ((handClaims_keeps _).mono (by decide))
  intro p hp; cases p <;> simp_all [same, claimParts]

theorem timeOutRelease_keeps (i : SlotNo) (s : State) : Keeps [.latch, .requests, .queue] s (s.timeOutRelease i) := by
  unfold State.timeOutRelease
  exact ((((setLatch_keeps _ _ _).mono (by decide)).trans ((setRequests_keeps _ _).mono (by decide))).trans
    ((notice_keeps _ _ _ _).mono (by decide))).trans
      (((disownClaim_keeps _ _).mono (by decide)).trans ((handClaims_keeps _).mono (by decide)))

end Sys2Proof.Machine
end

