-- ==== Sys2Proof/Laws/KeepsProvision.lean ====
section
/-! SUPPORT. Frames of the Plan Engine's and the Lane Switch's operations. -/

namespace Sys2Proof.Machine

/-- What a run, a step, a grant or a detach can move. -/
def planParts : List Part := [.runs, .lanes, .free, .charge, .share, .queue]

/-! ## Lanes -/

@[simp] theorem Lane.move_state (now : Nat) (x : LaneState) (l : Lane) : (l.move now x).state = x := by cases x <;> rfl
@[simp] theorem Lane.move_faults (now : Nat) (x : LaneState) (l : Lane) : (l.move now x).faults = l.faults := by cases x <;> rfl

/-- When the sampling of a lane starts (R131). -/
theorem Lane.move_sampledFrom (now : Nat) (x : LaneState) (l : Lane) :
    (l.move now x).sampledFrom =
      match x with
      | .waking _ => now
      | .scrubbing _ => if l.state = .retired then now else l.sampledFrom
      | _ => l.sampledFrom := by
  cases x <;> rfl

theorem moveLane_keeps (l : LaneNo) (x : LaneState) (s : State) : Keeps [.lanes] s (s.moveLane l x) := setLane_keeps _ _ _

theorem laneDetached_keeps (i : SlotNo) (s : State) : Keeps [.free, .charge, .share, .queue] s (s.laneDetached i) := by
  unfold State.laneDetached
  refine Keeps.trans ?_ ((chargeEvent_keeps _ _ _).mono (by decide))
  intro p hp; cases p <;> simp_all [same]

theorem laneAttached_keeps (i : SlotNo) (s : State) : Keeps powerParts s (s.laneAttached i) := chargeEvent_keeps _ _ _

theorem detachLane_keeps (l : LaneNo) (i : SlotNo) (s : State) :
    Keeps [.lanes, .free, .charge, .share, .queue] s (s.detachLane l i) :=
  ((moveLane_keeps _ _ _).mono (by decide)).trans ((laneDetached_keeps _ _).mono (by decide))

theorem releaseLane_keeps (i : SlotNo) (s : State) : Keeps [.lanes, .free, .charge, .share, .queue] s (s.releaseLane i) := by
  unfold State.releaseLane
  split
  · exact detachLane_keeps _ _ _
  · exact Keeps.refl _ _

theorem forceRelease_keeps (i : SlotNo) (s : State) : Keeps [.lanes, .free, .charge, .share, .queue] s (s.forceRelease i) := by
  unfold State.forceRelease
  split
  · exact detachLane_keeps _ _ _
  · exact Keeps.refl _ _

theorem laneSide_keeps (i : SlotNo) (x : LaneSide) (s : State) :
    Keeps [.lanes, .free, .charge, .share, .queue] s (s.laneSide i x) := by
  cases x
  · exact releaseLane_keeps _ _
  · exact forceRelease_keeps _ _
  · exact Keeps.refl _ _

theorem wakeOne_keeps (s : State) : Keeps [.lanes] s s.wakeOne := by
  unfold State.wakeOne
  refine Keeps.ite ?_ (Keeps.refl _ _)
  split
  · exact moveLane_keeps _ _ _
  · exact Keeps.refl _ _

theorem wakeLanes_keeps (s : State) : Keeps [.lanes] s s.wakeLanes :=
  (((wakeOne_keeps s).trans (wakeOne_keeps _)).trans (wakeOne_keeps _)).trans (wakeOne_keeps _)

theorem startIdle_keeps (s : State) : Keeps [.lanes] s s.startIdle := by
  unfold State.startIdle
  refine Keeps.ite (keeps_foldl _ ?_ _ _) (Keeps.refl _ _)
  intro t l
  split
  · exact moveLane_keeps _ _ _
  · exact Keeps.refl _ _

/-! ## Runs -/

theorem reportRun_keeps (i : SlotNo) (r : Run) (o : Answer) (n : Nat) (s : State) :
    Keeps [.runs, .queue] s (s.reportRun i r o n) := by
  unfold State.reportRun
  split
  · exact Keeps.refl _ _
  · intro q hq; cases q <;> simp_all [same, State.result]

theorem endRun_keeps (i : SlotNo) (o : Answer) (n : Nat) (s : State) : Keeps [.runs, .queue] s (s.endRun i o n) := by
  unfold State.endRun
  split
  · exact Keeps.refl _ _
  · exact (reportRun_keeps _ _ _ _ _).trans ((setPlan_keeps _ _ _).mono (by decide))

theorem setFloor_keeps (i : SlotNo) (q : Nat) (s : State) : Keeps [.runs, .charge, .share, .queue] s (s.setFloor i q) :=
  ((setPlan_keeps _ _ _).mono (by decide)).trans ((settled_keeps _).mono (by decide))

theorem setRun_keeps (i : SlotNo) (r : Run) (s : State) : Keeps [.runs] s (s.setRun i r) := setPlan_keeps _ _ _

theorem leaveWaitList_keeps (i : SlotNo) (s : State) : Keeps [.lanes] s (s.leaveWaitList i) := by
  intro p hp; cases p <;> simp_all [same, State.leaveWaitList]

theorem finishHead_keeps (i : SlotNo) (o : Answer) (x : LaneSide) (s : State) : Keeps planParts s (s.finishHead i o x) := by
  unfold State.finishHead
  split
  · exact Keeps.refl _ _
  · exact ((((setFloor_keeps _ _ _).mono (by decide)).trans ((leaveWaitList_keeps _ _).mono (by decide))).trans
      ((laneSide_keeps _ _ _).mono (by decide))).trans ((endRun_keeps _ _ _ _).mono (by decide))

theorem startRun_keeps (i : SlotNo) (s : State) : Keeps planParts s (s.startRun i).1 := by
  unfold State.startRun
  split
  · exact Keeps.refl _ _
  split
  · exact Keeps.refl _ _
  split
  · exact Keeps.refl _ _
  split
  · exact (endRun_keeps _ _ _ _).mono (by decide)
  · exact (setPlan_keeps _ _ _).mono (by decide)

theorem attachStep_keeps (i : SlotNo) (r : Run) (p : PlanRecord) (s : State) : Keeps planParts s (s.attachStep i r p).1 := by
  unfold State.attachStep
  split
  · exact (setRun_keeps _ _ _).mono (by decide)
  split
  · exact finishHead_keeps _ _ _ _
  · intro q hq; cases q <;> simp_all [same, planParts, State.setRun]

theorem performStep_keeps (i : SlotNo) (s : State) : Keeps planParts s (s.performStep i).1 := by
  unfold State.performStep
  split
  · exact Keeps.refl _ _
  split
  · exact Keeps.refl _ _
  split
  · exact Keeps.refl _ _
  split
  · exact Keeps.refl _ _
  · exact attachStep_keeps _ _ _ _
  · exact (setFloor_keeps _ _ _).mono (by decide)
  · exact (setRun_keeps _ _ _).mono (by decide)
  · split
    · exact Keeps.refl _ _
    · exact (setRun_keeps _ _ _).mono (by decide)
  · exact ((releaseLane_keeps _ _).mono (by decide)).trans ((setRun_keeps _ _ _).mono (by decide))
  · exact (setPlan_keeps _ _ _).mono (by decide)

theorem advanceRun_keeps (i : SlotNo) (s : State) : Keeps planParts s (s.advanceRun i).1 := by
  unfold State.advanceRun
  split
  · exact Keeps.refl _ _
  split
  · exact Keeps.refl _ _
  split
  · exact (setRun_keeps _ _ _).mono (by decide)
  · exact finishHead_keeps _ _ _ _

theorem takeGrant_keeps (i : SlotNo) (s : State) : Keeps planParts s (s.takeGrant i).1 := by
  unfold State.takeGrant
  split
  · exact Keeps.refl _ _
  split
  · exact (setRun_keeps _ _ _).mono (by decide)
  · exact Keeps.refl _ _

theorem grantStep_keeps (s : State) : Keeps planParts s s.grantStep.1 := by
  unfold State.grantStep
  split
  · refine Keeps.trans (Keeps.trans (Keeps.trans ?_ ((moveLane_keeps _ _ _).mono (by decide)))
      ((laneAttached_keeps _ _).mono (by decide))) (takeGrant_keeps _ _)
    intro p hp; cases p <;> simp_all [same, planParts]
  · exact ((wakeLanes_keeps _).trans (startIdle_keeps _)).mono (by decide)

theorem workStep_keeps (w : Work) (s : State) : Keeps planParts s (s.workStep w).1 := by
  cases w
  · exact startRun_keeps _ _
  · exact performStep_keeps _ _
  · exact advanceRun_keeps _ _
  · exact grantStep_keeps _

theorem runWork_keeps : ∀ (n : Nat) (ws : List Work) (s : State), Keeps planParts s (runWork n ws s)
  | 0, _, s => Keeps.refl _ s
  | _ + 1, [], s => Keeps.refl _ s
  | n + 1, w :: _, s => (workStep_keeps w s).trans (runWork_keeps n _ _)

theorem work_keeps (ws : List Work) (s : State) : Keeps planParts s (s.work ws) := runWork_keeps _ _ _

theorem finishAndStart_keeps (i : SlotNo) (o : Answer) (x : LaneSide) (s : State) :
    Keeps planParts s (s.finishAndStart i o x) := (finishHead_keeps _ _ _ _).trans (work_keeps _ _)

/-! ## Frames of class 5 -/

theorem appendRun_keeps (id : PlanId) (i : SlotNo) (s : State) : Keeps [.runs] s (s.appendRun id i) := setPlan_keeps _ _ _

theorem takePlan_keeps (src : Source) (p : List Byte) (s : State) : Keeps planParts s (s.takePlan src p) := by
  unfold State.takePlan
  split
  · exact (hand_keeps _ _).mono (by decide)
  · refine Keeps.trans (Keeps.trans (Keeps.trans ?_ ((hand_keeps _ _).mono (by decide)))
      ((keeps_forSlots _ (fun i s => appendRun_keeps _ i s) _ _).mono (by decide))) (work_keeps _ _)
    intro p hp; cases p <;> simp_all [same, planParts]

theorem takeGo_keeps (p : List Byte) (s : State) : Keeps planParts s (s.takeGo p) := by
  unfold State.takeGo
  split
  · exact Keeps.refl _ _
  split
  · exact Keeps.refl _ _
  split
  · exact Keeps.ite (work_keeps _ _) (Keeps.refl _ _)
  · exact Keeps.refl _ _

theorem cancelSlot_keeps (id : PlanId) (i : SlotNo) (s : State) : Keeps planParts s (s.cancelSlot id i) := by
  unfold State.cancelSlot
  split
  · exact Keeps.refl _ _
  split
  · exact finishAndStart_keeps _ _ _ _
  split
  · exact Keeps.refl _ _
  · exact ((reportRun_keeps _ _ _ _ _).mono (by decide)).trans ((setPlan_keeps _ _ _).mono (by decide))

theorem takeCancel_keeps (p : List Byte) (s : State) : Keeps planParts s (s.takeCancel p) :=
  Keeps.ite (keeps_forSlots _ (fun i s => cancelSlot_keeps _ i s) _ _) (Keeps.refl _ _)

theorem takeBuild_keeps (p : List Byte) (s : State) : Keeps [.required] s (s.takeBuild p) := by
  intro p hp; cases p <;> simp_all [same, State.takeBuild]

theorem takeUnpin_keeps (src : Source) (p : List Byte) (s : State) : Keeps planParts s (s.takeUnpin src p) := by
  unfold State.takeUnpin
  dsimp only
  split
  · exact (hand_keeps _ _).mono (by decide)
  · exact Keeps.ite ((hand_keeps _ _).mono (by decide))
      (((forceRelease_keeps _ _).mono (by decide)).trans ((hand_keeps _ _).mono (by decide)))

theorem takeClass5_keeps (src : Source) (p : List Byte) (s : State) : Keeps (.required :: planParts) s (s.takeClass5 src p) := by
  unfold State.takeClass5
  exact Keeps.ite (Keeps.refl _ _) (Keeps.ite (Keeps.ite ((takeBuild_keeps _ _).mono (by decide)) (Keeps.refl _ _))
    (Keeps.ite (Keeps.refl _ _) (Keeps.ite ((takePlan_keeps _ _ _).mono (by decide))
      (Keeps.ite ((takeGo_keeps _ _).mono (by decide)) (Keeps.ite ((takeCancel_keeps _ _).mono (by decide))
        ((takeUnpin_keeps _ _ _).mono (by decide)))))))

/-! ## The rows of the Plan Engine and the Lane Switch -/

theorem enumAsserted_keeps (i : SlotNo) (s : State) : Keeps planParts s (s.enumAsserted i) := by
  unfold State.enumAsserted
  split
  · exact Keeps.refl _ _
  split
  · exact work_keeps _ _
  · exact (setRun_keeps _ _ _).mono (by decide)
  · exact (setRun_keeps _ _ _).mono (by decide)
  · exact Keeps.refl _ _

theorem enumReleased_keeps (i : SlotNo) (s : State) : Keeps planParts s (s.enumReleased i) := by
  unfold State.enumReleased
  split
  · exact Keeps.refl _ _
  refine Keeps.ite ?_ (Keeps.refl _ _)
  split
  · exact (setRun_keeps _ _ _).mono (by decide)
  · exact (setRun_keeps _ _ _).mono (by decide)
  · exact Keeps.refl _ _

theorem changeEnumerated_keeps (l : LaneNo) (v : Level) (s : State) : Keeps planParts s (s.changeEnumerated l v) := by
  unfold State.changeEnumerated
  dsimp only
  split
  · exact ((setLane_keeps _ _ _).mono (by decide)).trans (enumAsserted_keeps _ _)
  · exact ((setLane_keeps _ _ _).mono (by decide)).trans (enumReleased_keeps _ _)
  · exact (setLane_keeps _ _ _).mono (by decide)

theorem planLaneFault_keeps (i : SlotNo) (s : State) : Keeps planParts s (s.planLaneFault i) :=
  Keeps.ite (finishAndStart_keeps _ _ _ _) (Keeps.refl _ _)

theorem faultLane_keeps (l : LaneNo) (s : State) : Keeps planParts s (s.faultLane l) := by
  unfold State.faultLane
  dsimp only
  have h : ∀ t : State, Keeps planParts s t →
      Keeps planParts s (match (s.lanes.table.get l).state.slot with
        | some i => (t.laneDetached i).planLaneFault i
        | none => t) := by
    intro t h
    split
    · exact (h.trans ((laneDetached_keeps _ _).mono (by decide))).trans (planLaneFault_keeps _ _)
    · exact h
  have k := h _ ((setLane_keeps l ({ s.lanes.table.get l with
    faults := (s.lanes.table.get l).faults + 1, faultIn := .asserted, faultPin := true, faultRun := {} }.move s.clock
      (if decide (faultLimit ≤ (s.lanes.table.get l).faults + 1) then .retired else .faulted none)) s).mono (by decide))
  exact Keeps.ite ((k.trans ((notice_keeps _ _ _ _).mono (by decide))).trans ((wakeLanes_keeps _).mono (by decide)))
    (k.trans ((notice_keeps _ _ _ _).mono (by decide)))

theorem endWake_keeps (t : Nat) (s : State) : Keeps [.lanes] s (s.endWake t) := by
  unfold State.endWake
  refine keeps_foldl _ ?_ _ _
  intro u l
  split
  · exact Keeps.ite (moveLane_keeps _ _ _) (Keeps.refl _ _)
  · exact Keeps.refl _ _

end Sys2Proof.Machine
end

