-- ==== Sys2Proof/Laws/KeepsRows.lean ====
section
/-! SUPPORT. Frames of the remaining operations, and the frame of every command outside the Start-up Loader. -/

namespace Sys2Proof.Machine

/-! ## Slot Monitor and Charge Controller -/

theorem settleStart_keeps (i : SlotNo) (s : State) : Keeps [.monitor, .latch] s (s.settleStart i) :=
  ((setMonitor_keeps _ _ _).mono (by decide)).trans ((learnAtStart_keeps _ _).mono (by decide))

theorem changePresent_keeps (i : SlotNo) (v : Level) (s : State) : Keeps [.monitor, .latch] s (s.changePresent i v) := by
  unfold State.changePresent
  exact Keeps.ite (((setMonitor_keeps _ _ _).mono (by decide)).trans (settleStart_keeps _ _))
    ((setMonitor_keeps _ _ _).mono (by decide))

theorem changeBolt_keeps (i : SlotNo) (v : BoltReading) (s : State) : Keeps [.monitor, .latch] s (s.changeBolt i v) := by
  unfold State.changeBolt
  exact Keeps.ite (((setMonitor_keeps _ _ _).mono (by decide)).trans ((learnAtStart_keeps _ _).mono (by decide)))
    ((setMonitor_keeps _ _ _).mono (by decide))

/-- What an insertion can move. -/
def insertParts : List Part := [.monitor, .latch, .custody, .charge, .share, .queue]

theorem insert_keeps (i : SlotNo) (c : Option Nat) (f : Bool) (s : State) : Keeps insertParts s (s.insert i c f) := by
  unfold State.insert
  have h : ∀ m : MonitorSlot, ∀ k d g,
      Keeps insertParts s (((((s.setMonitor i m).notice .inserted k d).chargeEvent i g).latchInsertion i f)) := fun m k d g =>
    ((((setMonitor_keeps _ _ _).mono (by decide)).trans ((notice_keeps _ _ _ _).mono (by decide))).trans
      ((chargeEvent_keeps _ _ _).mono (by decide))).trans ((latchInsertion_keeps _ _ _).mono (by decide))
  exact Keeps.ite ((h _ _ _ _).trans ((settleStart_keeps _ _).mono (by decide))) (h _ _ _ _)

theorem failQueued_keeps (i : SlotNo) (s : State) : Keeps [.runs, .queue] s (s.failQueued i) :=
  (keeps_foldl _ (fun _ _ => reportRun_keeps _ _ _ _ _) _ _).trans ((setPlan_keeps _ _ _).mono (by decide))

theorem planExtraction_keeps (i : SlotNo) (s : State) : Keeps planParts s (s.planExtraction i) :=
  (((setPlan_keeps _ _ _).mono (by decide)).trans (finishHead_keeps _ _ _ _)).trans
    ((failQueued_keeps _ _).mono (by decide))

/-- What an extraction can move. -/
def extractParts : List Part := [.monitor, .latch, .custody, .runs, .lanes, .free, .charge, .share, .queue]

theorem extract_keeps (i : SlotNo) (s : State) : Keeps extractParts s (s.extract i) := by
  unfold State.extract
  exact (((((((setMonitor_keeps _ _ _).mono (by decide)).trans ((notice_keeps _ _ _ _).mono (by decide))).trans
    ((chargeEvent_keeps _ _ _).mono (by decide))).trans ((latchExtraction_keeps _ _).mono (by decide))).trans
    ((setCustody_keeps _ _ _).mono (by decide))).trans ((planExtraction_keeps _ _).mono (by decide))).trans
    (((leaveWaitList_keeps _ _).mono (by decide)).trans ((forceRelease_keeps _ _).mono (by decide)))

theorem faultSlot_keeps (i : SlotNo) (k : FaultKind) (f : ChargeSlot → ChargeSlot) (s : State) :
    Keeps powerParts s (s.faultSlot i k f) :=
  ((notice_keeps _ _ _ _).mono (by decide)).trans (chargeEvent_keeps _ _ _)

theorem publish_keeps (i : SlotNo) (v a : Nat) (s : State) : Keeps (.monitor :: powerParts) s (s.publish i v a) := by
  unfold State.publish
  have h : ∀ m : MonitorSlot, Keeps (.monitor :: powerParts) s (s.setMonitor i m) := fun m =>
    (setMonitor_keeps _ _ _).mono (by decide)
  exact Keeps.ite ((h _).trans ((faultSlot_keeps _ _ _ _).mono (by decide)))
    ((h _).trans ((chargeEvent_keeps _ _ _).mono (by decide)))

theorem integrate_keeps (i : SlotNo) (m e : Nat) (s : State) : Keeps (.monitor :: powerParts) s (s.integrate i m e) :=
  ((setMonitor_keeps _ _ _).mono (by decide)).trans ((chargeEvent_keeps _ _ _).mono (by decide))

theorem endDetect_keeps (i : SlotNo) (s : State) : Keeps powerParts s (s.endDetect i) :=
  Keeps.ite (chargeEvent_keeps _ _ _) (chargeEvent_keeps _ _ _)

theorem passDue_keeps (i : SlotNo) (s : State) : Keeps (.custody :: powerParts) s (s.passDue i) :=
  ((setCustody_keeps _ _ _).mono (by decide)).trans ((settled_keeps _).mono (by decide))

/-! ## Share Unit -/

theorem setSilence_keeps (t : Option Nat) (s : State) : Keeps [.standing] s (s.setSilence t) := by
  intro p hp; cases p <;> simp_all [same]

theorem setPeer_keeps (a : Station) (x : Option Peer) (s : State) : Keeps [.peers] s (s.setPeer a x) := by
  intro p hp; cases p <;> simp_all [same]

theorem setCeilings_keeps (rs : List CeilingRecord) (s : State) : Keeps [.ceilings] s (s.setCeilings rs) := by
  intro p hp; cases p <;> simp_all [same]

theorem changeShare_keeps (x : ShareState) (s : State) : Keeps [.standing, .queue] s (s.changeShare x) := by
  unfold State.changeShare
  refine Keeps.ite (Keeps.refl _ _) (Keeps.trans ?_ ((notice_keeps _ _ _ _).mono (by decide)))
  intro p hp; cases p <;> simp_all [same]

theorem enterJoined_keeps (s : State) : Keeps [.standing, .queue] s s.enterJoined :=
  ((setSilence_keeps _ _).mono (by decide)).trans (changeShare_keeps _ _)

theorem enterIsolated_keeps (s : State) : Keeps [.standing, .queue] s s.enterIsolated :=
  ((setSilence_keeps _ _).mono (by decide)).trans (changeShare_keeps _ _)

theorem countListen_keeps (s : State) : Keeps [.standing, .queue] s s.countListen := by
  unfold State.countListen
  have h : ∀ n, Keeps [.standing, .queue] s { s with share := { s.share with listenCount := n } } := by
    intro n p hp; cases p <;> simp_all [same]
  exact Keeps.ite (Keeps.ite (h _) (Keeps.ite ((h _).trans (enterJoined_keeps _)) ((h _).trans (enterIsolated_keeps _))))
    (Keeps.refl _ _)

theorem report_keeps (s : State) : Keeps (.standing :: powerParts) s s.report := by
  unfold State.report
  refine Keeps.trans (Keeps.trans (Keeps.trans (t := { s with share := { s.share with
    reportAt := momentAfter s.share.reportAt s.cfg.reportPeriod } }) ?_ ((countListen_keeps _).mono (by decide)))
    ((handNeed_keeps _).mono (by decide))) ((compute_keeps _ _).mono (by decide))
  intro p hp; cases p <;> simp_all [same]

theorem spaceNeed_keeps (s : State) : Keeps powerParts s s.spaceNeed := by
  unfold State.spaceNeed
  refine Keeps.ite (handNeed_keeps s) ?_
  intro p hp; cases p <;> simp_all [same, powerParts]

/-- What the Share Unit's taking of a frame can move. -/
def shareParts : List Part := [.standing, .peers, .ceilings, .requests, .charge, .share, .queue]

theorem takeCeiling_keeps (src : Source) (p : List Byte) (s : State) : Keeps shareParts s (s.takeCeiling src p) := by
  unfold State.takeCeiling
  split
  · exact ((setCeilings_keeps _ _).mono (by decide)).trans ((compute_keeps _ _).mono (by decide))
  · exact Keeps.refl _ _

theorem takeNeed_keeps (a : Station) (p : List Byte) (s : State) : Keeps shareParts s (s.takeNeed a p) := by
  unfold State.takeNeed
  have h : ∀ x, Keeps shareParts s (s.setPeer a x) := fun x => (setPeer_keeps _ _ _).mono (by decide)
  exact (Keeps.ite ((h _).trans ((enterJoined_keeps _).mono (by decide))) (h _)).trans ((compute_keeps _ _).mono (by decide))

theorem takeLeave_keeps (a : Station) (s : State) : Keeps shareParts s (s.takeLeave a) :=
  ((setPeer_keeps _ _ _).mono (by decide)).trans ((compute_keeps _ _).mono (by decide))

theorem watchPeer_keeps (s : State) : Keeps [.standing] s s.watchPeer := by
  unfold State.watchPeer
  split
  · intro p hp; cases p <;> simp_all [same]
  · exact setSilence_keeps _ _
  · exact Keeps.refl _ _
  · exact Keeps.refl _ _

theorem clash_keeps (s : State) : Keeps shareParts s s.clash :=
  Keeps.ite (Keeps.refl _ _) (((((setSilence_keeps _ _).mono (by decide)).trans
    ((changeShare_keeps _ _).mono (by decide))).trans ((withdrawClaims_keeps _).mono (by decide))).trans
    ((compute_keeps _ _).mono (by decide)))

theorem watch_keeps (src : Source) (s : State) : Keeps shareParts s (s.watch src) := by
  unfold State.watch
  split
  · exact Keeps.refl _ _
  · exact Keeps.ite (clash_keeps s) ((watchPeer_keeps s).mono (by decide))

/-! ## Custody Unit -/

/-- What a permit can move. -/
def permitParts : List Part := [.latch, .requests, .custody, .permits, .runs, .lanes, .free, .charge, .share, .queue]

theorem forceSlot_keeps (i : SlotNo) (s : State) : Keeps planParts s (s.forceSlot i) :=
  (finishHead_keeps _ _ _ _).trans ((forceRelease_keeps _ _).mono (by decide))

theorem finishOpen_keeps (k : PermitKind) (n : Nat) (i : SlotNo) (s : State) :
    Keeps [.latch, .requests, .queue] s (s.finishOpen k n i).1 := by
  unfold State.finishOpen
  split
  · exact Keeps.refl _ _
  · exact grantRelease_keeps _ _

theorem judgeOpen_keeps (k : PermitKind) (n : Nat) (f : Bool) (i : SlotNo) (s : State) :
    Keeps permitParts s (s.judgeOpen k n f i).1 := by
  unfold State.judgeOpen
  split
  · exact Keeps.refl _ _
  split
  · split
    · exact ((forceSlot_keeps _ _).mono (by decide)).trans ((finishOpen_keeps _ _ _ _).mono (by decide))
    · exact Keeps.refl _ _
  · exact (finishOpen_keeps _ _ _ _).mono (by decide)

theorem judgeDue_keeps (n : Nat) (i : SlotNo) (s : State) : Keeps (.custody :: powerParts) s (s.judgeDue n i).1 :=
  ((setCustody_keeps _ _ _).mono (by decide)).trans ((settled_keeps _).mono (by decide))

theorem judgeLift_keeps (n : Nat) (i : SlotNo) (s : State) : Keeps [.custody, .latch] s (s.judgeLift n i).1 := by
  unfold State.judgeLift
  split
  · exact Keeps.refl _ _
  split
  · exact Keeps.refl _ _
  split
  · exact ((setHold_keeps _ _ _).mono (by decide)).trans ((relearn_keeps _ _).mono (by decide))
  · exact (setHold_keeps _ _ _).mono (by decide)

theorem judgeSlot_keeps (p : Permit) (k : PermitKind) (i : SlotNo) (s : State) :
    Keeps permitParts s (s.judgeSlot p k i).1 := by
  unfold State.judgeSlot
  split
  · exact judgeOpen_keeps _ _ _ _ _
  · exact judgeOpen_keeps _ _ _ _ _
  · split
    · exact (judgeDue_keeps _ _ _).mono (by decide)
    · exact Keeps.refl _ _
  · split
    · exact (setHold_keeps _ _ _).mono (by decide)
    · exact Keeps.refl _ _
  · split
    · exact (judgeLift_keeps _ _ _).mono (by decide)
    · exact Keeps.refl _ _
  · split <;> exact Keeps.refl _ _

theorem addOutcome_keeps (a : Answer) (s : State) : Keeps [.permits] s (s.addOutcome a) := by
  intro p hp; cases p <;> simp_all [same, State.addOutcome]

theorem judgeSlots_keeps (p : Permit) (k : PermitKind) : ∀ (is : List SlotNo) (s : State),
    Keeps permitParts s (judgeSlots p k is s)
  | [], s => Keeps.refl _ s
  | i :: is, s => ((judgeSlot_keeps p k i s).trans ((addOutcome_keeps _ _).mono (by decide))).trans
      (judgeSlots_keeps p k is _)

theorem handVerdict_keeps (n : Byte) (src : Source) (f : Nat) (s : State) :
    Keeps [.permits, .queue] s (s.handVerdict n src f) := by
  intro p hp; cases p <;> simp_all [same, State.handVerdict]

theorem afterPermit_keeps (k : PermitKind) (is : List SlotNo) (s : State) :
    Keeps (.permits :: planParts) s (s.afterPermit k is) := by
  unfold State.afterPermit
  split
  · intro p hp; cases p <;> simp_all [same]
  · exact (work_keeps _ _).mono (by decide)

theorem judgeIn_keeps (p : Permit) (f : SlotNo) (is : List SlotNo) (s : State) :
    Keeps permitParts s (s.judgeIn p f is) := by
  unfold State.judgeIn
  dsimp only
  split
  · exact ((keeps_foldl _ (fun _ _ => addOutcome_keeps _ _) _ _).mono (by decide)).trans
      ((handVerdict_keeps _ _ _ _).mono (by decide))
  · exact ((judgeSlots_keeps _ _ _ _).trans ((handVerdict_keeps _ _ _ _).mono (by decide))).trans
      ((afterPermit_keeps _ _ _).mono (by decide))

theorem judgePermit_keeps (p : Permit) (s : State) : Keeps permitParts s (s.judgePermit p) := by
  unfold State.judgePermit
  split
  · exact Keeps.refl _ _
  · exact judgeIn_keeps _ _ _ _

theorem takePermit_keeps (src : Source) (p : List Byte) (s : State) : Keeps permitParts s (s.takePermit src p) := by
  unfold State.takePermit
  refine Keeps.ite ?_ (judgePermit_keeps _ _)
  intro p hp; cases p <;> simp_all [same, permitParts]

/-! ## Frames -/

theorem answer_keeps (b : List Byte) (s : State) : Keeps [.free, .queue] s (s.answer b) := by
  intro p hp; cases p <;> simp_all [same, State.answer]

theorem takeQuery_keeps (src : Source) (p : List Byte) (s : State) : Keeps [.free, .queue] s (s.takeQuery src p) := by
  unfold State.takeQuery
  refine Keeps.ite (Keeps.refl _ _) (Keeps.ite (answer_keeps _ _) (Keeps.ite ?_ (Keeps.refl _ _)))
  split
  · exact answer_keeps _ _
  · exact Keeps.refl _ _

/-- What a frame from the line can move: all but the clock, the Start-up Loader's items, the Slot Monitor, the lamps and the
waiting commands. -/
def frameParts : List Part :=
  [.charge, .standing, .peers, .ceilings, .reserve, .share, .latch, .requests, .claimList, .custody, .permits, .runs,
    .required, .lanes, .queue, .errors, .linePhase, .free]

theorem takeClass2_keeps (src : Source) (p : List Byte) (s : State) : Keeps shareParts s (s.takeClass2 src p) := by
  unfold State.takeClass2
  split
  · exact Keeps.refl _ _
  · exact Keeps.ite (takeNeed_keeps _ _ _) (takeLeave_keeps _ _)

theorem consume_keeps (c : Nat) (src : Source) (p : List Byte) (s : State) : Keeps frameParts s (s.consume c src p) := by
  unfold State.consume
  split
  · exact (takeClaim_keeps _ _).mono (by decide)
  · exact (takeCeiling_keeps _ _ _).mono (by decide)
  · exact (takeClass2_keeps _ _ _).mono (by decide)
  · exact (takePermit_keeps _ _ _).mono (by decide)
  · exact (takeClass5_keeps _ _ _).mono (by decide)
  · exact (takeQuery_keeps _ _ _).mono (by decide)
  · exact Keeps.refl _ _

theorem abandonFrame_keeps (s : State) : Keeps [.errors, .linePhase] s s.abandonFrame := by
  intro p hp; cases p <;> simp_all [same, State.abandonFrame, Line.countError, Line.frameBreaks]

theorem countError_keeps (s : State) : Keeps [.errors] s s.countError := by
  intro p hp; cases p <;> simp_all [same, State.countError, Line.countError]

theorem frameEnds_keeps (s : State) : Keeps [.linePhase] s { s with line := s.line.frameEnds } := by
  intro p hp; cases p <;> simp_all [same, Line.frameEnds]

theorem takeFrame_keeps (c : Nat) (src : Source) (p : List Byte) (s : State) : Keeps frameParts s (s.takeFrame c src p) := by
  unfold State.takeFrame
  refine Keeps.ite (Keeps.refl _ _) (Keeps.ite ((abandonFrame_keeps _).mono (by decide)) ?_)
  have h := ((frameEnds_keeps s).mono (qs := frameParts) (by decide)).trans
    ((watch_keeps src { s with line := s.line.frameEnds }).mono (by decide))
  exact Keeps.ite (h.trans ((countError_keeps _).mono (by decide))) (h.trans (consume_keeps _ _ _ _))

/-! ## Line Interface -/

theorem setLine_keeps (l : Line) (s : State) : Keeps [.queue, .errors, .linePhase] s (s.setLine l) := by
  intro p hp; cases p <;> simp_all [same]

theorem attempt_keeps (e : TxEntry) (s : State) : Keeps [.queue, .linePhase] s (s.attempt e) := by
  intro p hp; cases p <;> simp_all [same, State.attempt]

theorem claimGone_keeps (f : Bool) (x : TxFrame) (s : State) : Keeps [.requests, .queue] s (s.claimGone f x) := by
  unfold State.claimGone
  split
  · exact ((endOwnClaim_keeps _ _ _ _ _).mono (by decide)).trans (handClaims_keeps _)
  · exact Keeps.refl _ _

theorem setQueue_keeps (q : List TxEntry) (s : State) : Keeps [.queue] s (s.setLine { s.line with queue := q }) := by
  intro p hp; cases p <;> simp_all [same]

theorem setLinePhase_keeps (x : LinePhase) (s : State) : Keeps [.linePhase] s (s.setLine { s.line with phase := x }) := by
  intro p hp; cases p <;> simp_all [same]

theorem backToWaiting_keeps (e : TxEntry) (s : State) : Keeps [.requests, .queue] s (s.backToWaiting e) :=
  Keeps.ite (((setQueue_keeps _ _).mono (by decide)).trans (claimGone_keeps _ _ _)) ((setQueue_keeps _ _).mono (by decide))

theorem breakAttempt_keeps (e : TxEntry) (s : State) : Keeps [.requests, .queue, .linePhase] s (s.breakAttempt e) := by
  unfold State.breakAttempt
  have h := (setLinePhase_keeps (.breaking breakBits) s).mono (qs := [.requests, .queue, .linePhase]) (by decide)
  refine Keeps.ite (Keeps.trans (h.trans ?_) ((claimGone_keeps _ _ _).mono (by decide)))
    (h.trans ((backToWaiting_keeps _ _).mono (by decide)))
  intro p hp; cases p <;> simp_all [same, Line.countLost]

theorem completeAttempt_keeps (e : TxEntry) (s : State) : Keeps (.linePhase :: claimParts) s (s.completeAttempt e) := by
  unfold State.completeAttempt State.ownFrame
  have h : Keeps (.linePhase :: claimParts) s
      (s.setLine { s.line with queue := removeEntry e s.line.queue, phase := .ended idleAfterFrame }) := by
    intro p hp; cases p <;> simp_all [same, claimParts]
  split
  · exact h.trans ((completeOwnClaim_keeps _ _ _ _ _ _).mono (by decide))
  · exact h

/-! ## Restart -/

theorem restartShare_keeps (s : State) : Keeps shareParts s s.restartShare := by
  unfold State.restartShare
  refine Keeps.trans ?_ (((changeShare_keeps _ _).mono (by decide)).trans ((compute_keeps _ _).mono (by decide)))
  intro p hp; cases p <;> simp_all [same, shareParts]

theorem restartLatch_keeps (i : SlotNo) (s : State) : Keeps [.latch] s (s.restartLatch i) := by
  unfold State.restartLatch
  split
  · exact learnLatch_keeps _ _
  · exact learnLatch_keeps _ _
  · exact setLatch_keeps _ _ _
  · exact setLatch_keeps _ _ _
  · exact Keeps.refl _ _

theorem restartClaims_keeps (s : State) : Keeps claimParts s s.restartClaims := by
  intro p hp; cases p <;> simp_all [same, claimParts, State.restartClaims]

theorem restartPulses_keeps (s : State) : Keeps claimParts s s.restartPulses :=
  ((restartClaims_keeps s).trans ((keeps_forSlots _ (fun i s => restartLatch_keeps i s) _ _).mono (by decide))).trans
    ((reportReserve_keeps _).mono (by decide))

theorem reportRestarted_keeps (i : SlotNo) : ∀ (rs : List Run) (s : State),
    Keeps [.runs, .queue] s (s.reportRestarted i rs)
  | [], s => Keeps.refl _ s
  | _ :: _, _ => (reportRun_keeps _ _ _ _ _).trans (keeps_foldl _ (fun _ _ => reportRun_keeps _ _ _ _ _) _ _)

theorem restartPlan_keeps (i : SlotNo) (s : State) : Keeps [.runs, .queue] s (s.restartPlan i) :=
  (reportRestarted_keeps _ _ _).trans ((setPlan_keeps _ _ _).mono (by decide))

theorem restartPlans_keeps (s : State) : Keeps planParts s s.restartPlans := by
  unfold State.restartPlans
  refine Keeps.trans (Keeps.trans (t := forSlots allSlots State.restartPlan s)
    ((keeps_forSlots _ (fun i s => restartPlan_keeps i s) _ _).mono (by decide)) ?_) ((settled_keeps _).mono (by decide))
  intro p hp; cases p <;> simp_all [same, planParts]

theorem restartLane_keeps (l : LaneNo) (s : State) : Keeps planParts s (s.restartLane l) := by
  unfold State.restartLane
  dsimp only
  split
  · exact ((setLane_keeps _ _ _).mono (by decide)).trans ((detachLane_keeps _ _ _).mono (by decide))
  · exact ((setLane_keeps _ _ _).mono (by decide)).trans ((moveLane_keeps _ _ _).mono (by decide))
  · exact (setLane_keeps _ _ _).mono (by decide)

theorem restartLanes_keeps (s : State) : Keeps planParts s s.restartLanes := by
  unfold State.restartLanes
  refine Keeps.trans ?_ (keeps_foldl _ (fun _ _ => restartLane_keeps _ _) _ _)
  intro p hp; cases p <;> simp_all [same, planParts]

/-- What the five stages of a restart can move. -/
def restartParts : List Part :=
  [.standing, .peers, .ceilings, .claimList, .reserve, .latch, .requests, .runs, .lanes, .free, .charge, .share, .queue]

theorem restartStages_keeps (s : State) : Keeps restartParts s s.restartStages :=
  (((((hand_keeps _ _).mono (by decide)).trans ((restartShare_keeps _).mono (by decide))).trans
    ((restartPulses_keeps _).mono (by decide))).trans ((restartPlans_keeps _).mono (by decide))).trans
    ((restartLanes_keeps _).mono (by decide))

theorem judgeWaiting_keeps : ∀ (ps : List (Source × List Byte)) (s : State), Keeps permitParts s (judgeWaiting ps s)
  | [], s => Keeps.refl _ s
  | (src, p) :: rest, s => by
    unfold judgeWaiting
    refine Keeps.ite ?_ ((judgePermit_keeps _ _).trans (judgeWaiting_keeps rest _))
    intro p hp; cases p <;> simp_all [same, permitParts]

theorem completeRestart_keeps (s : State) : Keeps permitParts s s.completeRestart := by
  unfold State.completeRestart
  refine Keeps.trans ?_ (judgeWaiting_keeps _ _)
  intro p hp; cases p <;> simp_all [same, permitParts]

/-! ## Every command outside the Start-up Loader -/

/-- What an outcome's next state keeps. -/
theorem whileRunning_keeps {ps : List Part} {s t : State} {f : State → State} (h : whileRunning s f = .next t)
    (k : Keeps ps s (f s)) : Keeps ps s t := by
  unfold whileRunning at h
  cases h
  exact Keeps.ite k (Keeps.refl _ _)

theorem reach_then {ps qs : List Part} {s u : State} (t : Nat) (h : Keeps qs (s.reach t) u) (a : [Part.clock] ⊆ ps)
    (b : qs ⊆ ps) : Keeps ps s u := ((reach_keeps t s).mono a).trans (h.mono b)

theorem execFilteredPresentChange_keeps (i : SlotNo) (v : Level) (s t : State) (h : execFilteredPresentChange i v s = .next t) :
    Keeps [.monitor, .latch] s t := by
  unfold execFilteredPresentChange at h
  refine whileRunning_keeps h ?_
  exact Keeps.ite (changePresent_keeps _ _ _) (Keeps.refl _ _)

theorem execFilteredBoltSenseChange_keeps (i : SlotNo) (v : BoltReading) (s t : State) (h : execFilteredBoltSenseChange i v s = .next t) :
    Keeps [.monitor, .latch] s t := by
  unfold execFilteredBoltSenseChange at h
  refine whileRunning_keeps h ?_
  exact Keeps.ite (changeBolt_keeps _ _ _) (Keeps.refl _ _)

theorem execInsertion_keeps (i : SlotNo) (c : Option Nat) (s t : State) (h : execInsertion i c s = .next t) :
    Keeps (.clock :: insertParts) s t := by
  unfold execInsertion at h
  refine whileRunning_keeps h ?_
  split
  · exact reach_then _ (insert_keeps _ _ _ _) (by decide) (by decide)
  · exact Keeps.refl _ _

theorem execExtraction_keeps (i : SlotNo) (s t : State) (h : execExtraction i s = .next t) :
    Keeps (.clock :: extractParts) s t := by
  unfold execExtraction at h
  refine whileRunning_keeps h ?_
  split
  · exact reach_then _ (extract_keeps _ _) (by decide) (by decide)
  · exact Keeps.refl _ _

theorem execMeasurementPublication_keeps (i : SlotNo) (v a : Nat) (s t : State) (h : execMeasurementPublication i v a s = .next t) :
    Keeps (.monitor :: powerParts) s t := by
  unfold execMeasurementPublication at h
  refine whileRunning_keeps h ?_
  exact Keeps.ite (publish_keeps _ _ _ _) (Keeps.refl _ _)

theorem execOverCurrentCheck_keeps (i : SlotNo) (s t : State) (h : execOverCurrentCheck i s = .next t) :
    Keeps (.clock :: powerParts) s t := by
  unfold execOverCurrentCheck at h
  refine whileRunning_keeps h ?_
  split
  · exact Keeps.ite (reach_then _ (faultSlot_keeps _ _ _ _) (by decide) (by decide)) (Keeps.refl _ _)
  · exact Keeps.refl _ _

theorem execIntegrationPeriodEnd_keeps (i : SlotNo) (a : Nat) (s t : State) (h : execIntegrationPeriodEnd i a s = .next t) :
    Keeps (.clock :: .monitor :: powerParts) s t := by
  unfold execIntegrationPeriodEnd at h
  refine whileRunning_keeps h ?_
  split
  · exact reach_then _ (integrate_keeps _ _ _ _) (by decide) (by decide)
  · exact Keeps.refl _ _

theorem execDetectTimerExpiry_keeps (i : SlotNo) (s t : State) (h : execDetectTimerExpiry i s = .next t) :
    Keeps (.clock :: powerParts) s t := by
  unfold execDetectTimerExpiry at h
  refine whileRunning_keeps h ?_
  split
  · exact reach_then _ (endDetect_keeps _ _) (by decide) (by decide)
  · exact Keeps.refl _ _

theorem execTaperDwell_keeps (i : SlotNo) (s t : State) (h : execTaperDwell i s = .next t) :
    Keeps (.clock :: powerParts) s t := by
  unfold execTaperDwell at h
  refine whileRunning_keeps h ?_
  split
  · exact reach_then _ (chargeEvent_keeps _ _ _) (by decide) (by decide)
  · exact Keeps.refl _ _

theorem execToppedDwell_keeps (i : SlotNo) (s t : State) (h : execToppedDwell i s = .next t) :
    Keeps (.clock :: powerParts) s t := by
  unfold execToppedDwell at h
  refine whileRunning_keeps h ?_
  split
  · exact reach_then _ (chargeEvent_keeps _ _ _) (by decide) (by decide)
  · exact Keeps.refl _ _

theorem execTaperToBulkDwell_keeps (i : SlotNo) (s t : State) (h : execTaperToBulkDwell i s = .next t) :
    Keeps (.clock :: powerParts) s t := by
  unfold execTaperToBulkDwell at h
  refine whileRunning_keeps h ?_
  split
  · exact reach_then _ (chargeEvent_keeps _ _ _) (by decide) (by decide)
  · exact Keeps.refl _ _

theorem execToppedToBulkDwell_keeps (i : SlotNo) (s t : State) (h : execToppedToBulkDwell i s = .next t) :
    Keeps (.clock :: powerParts) s t := by
  unfold execToppedToBulkDwell at h
  refine whileRunning_keeps h ?_
  split
  · exact reach_then _ (chargeEvent_keeps _ _ _) (by decide) (by decide)
  · exact Keeps.refl _ _

theorem execRestartHoldExpiry_keeps (i : SlotNo) (s t : State) (h : execRestartHoldExpiry i s = .next t) :
    Keeps (.clock :: powerParts) s t := by
  unfold execRestartHoldExpiry at h
  refine whileRunning_keeps h ?_
  split
  · exact reach_then _ (chargeEvent_keeps _ _ _) (by decide) (by decide)
  · exact Keeps.refl _ _

theorem execRetryWaitExpiry_keeps (i : SlotNo) (s t : State) (h : execRetryWaitExpiry i s = .next t) :
    Keeps (.clock :: powerParts) s t := by
  unfold execRetryWaitExpiry at h
  refine whileRunning_keeps h ?_
  split
  · exact reach_then _ (chargeEvent_keeps _ _ _) (by decide) (by decide)
  · exact Keeps.refl _ _

theorem execDueUntilPasses_keeps (i : SlotNo) (s t : State) (h : execDueUntilPasses i s = .next t) :
    Keeps (.clock :: .custody :: powerParts) s t := by
  unfold execDueUntilPasses at h
  refine whileRunning_keeps h ?_
  split
  · exact Keeps.ite (Keeps.refl _ _) (reach_then _ (passDue_keeps _ _) (by decide) (by decide))
  · exact Keeps.refl _ _

theorem execReportTimerExpiry_keeps (s t : State) (h : execReportTimerExpiry s = .next t) :
    Keeps (.clock :: .standing :: powerParts) s t := by
  unfold execReportTimerExpiry at h
  refine whileRunning_keeps h ?_
  exact reach_then _ (report_keeps _) (by decide) (by decide)

theorem execEarlyNeedSpacing_keeps (s t : State) (h : execEarlyNeedSpacing s = .next t) :
    Keeps (.clock :: powerParts) s t := by
  unfold execEarlyNeedSpacing at h
  refine whileRunning_keeps h ?_
  split
  · exact reach_then _ (spaceNeed_keeps _) (by decide) (by decide)
  · exact Keeps.refl _ _

theorem execSilenceTimerExpiry_keeps (s t : State) (h : execSilenceTimerExpiry s = .next t) :
    Keeps (.clock :: .standing :: powerParts) s t := by
  unfold execSilenceTimerExpiry at h
  refine whileRunning_keeps h ?_
  split
  · exact (reach_then _ (enterIsolated_keeps _) (by decide) (by decide)).trans ((compute_keeps _ _).mono (by decide))
  · exact Keeps.refl _ _

theorem execPeerAging_keeps (a : Station) (s t : State) (h : execPeerAging a s = .next t) :
    Keeps (.clock :: .peers :: powerParts) s t := by
  unfold execPeerAging at h
  refine whileRunning_keeps h ?_
  split
  · exact Keeps.ite ((reach_then _ (setPeer_keeps _ _ _) (by decide) (by decide)).trans ((compute_keeps _ _).mono (by decide))) (Keeps.refl _ _)
  · exact Keeps.refl _ _

theorem execCeilingRecordExpiry_keeps (a : Source) (s t : State) (h : execCeilingRecordExpiry a s = .next t) :
    Keeps (.clock :: .ceilings :: powerParts) s t := by
  unfold execCeilingRecordExpiry at h
  refine whileRunning_keeps h ?_
  split
  · exact (reach_then _ (setCeilings_keeps _ _) (by decide) (by decide)).trans ((compute_keeps _ _).mono (by decide))
  · exact Keeps.refl _ _

theorem execClaimExpiry_keeps (s t : State) (h : execClaimExpiry s = .next t) :
    Keeps (.clock :: claimParts) s t := by
  unfold execClaimExpiry at h
  refine whileRunning_keeps h ?_
  split
  · exact Keeps.refl _ _
  · exact ((reach_keeps _ _).mono (by decide)).trans ((expireClaims_keeps _).mono (by decide))

theorem execWithdrawPulseEnd_keeps (i : SlotNo) (s t : State) (h : execWithdrawPulseEnd i s = .next t) :
    Keeps (.clock :: latchParts) s t := by
  unfold execWithdrawPulseEnd at h
  refine whileRunning_keeps h ?_
  split
  · exact reach_then _ (endWithdraw_keeps _ _) (by decide) (by decide)
  · exact Keeps.refl _ _

theorem execThrowPulseEnd_keeps (i : SlotNo) (s t : State) (h : execThrowPulseEnd i s = .next t) :
    Keeps (.clock :: latchParts) s t := by
  unfold execThrowPulseEnd at h
  refine whileRunning_keeps h ?_
  split
  · exact reach_then _ (endThrow_keeps _ _) (by decide) (by decide)
  · exact Keeps.refl _ _

theorem execClaimWaitTimeout_keeps (i : SlotNo) (s t : State) (h : execClaimWaitTimeout i s = .next t) :
    Keeps [.clock, .latch, .requests, .queue] s t := by
  unfold execClaimWaitTimeout at h
  refine whileRunning_keeps h ?_
  split
  · exact reach_then _ (timeOutRelease_keeps _ _) (by decide) (by decide)
  · exact Keeps.refl _ _

theorem execOpenTimerExpiry_keeps (i : SlotNo) (s t : State) (h : execOpenTimerExpiry i s = .next t) :
    Keeps [.clock, .latch, .requests, .queue] s t := by
  unfold execOpenTimerExpiry at h
  refine whileRunning_keeps h ?_
  split
  · exact reach_then _ (throwWait_keeps _ _ _) (by decide) (by decide)
  · exact Keeps.refl _ _

theorem execStationRestart_keeps (s t : State) (h : execStationRestart s = .next t) :
    Keeps (.custody :: .permits :: restartParts) s t := by
  unfold execStationRestart at h
  refine whileRunning_keeps h ?_
  exact Keeps.ite (((restartStages_keeps _).mono (by decide)).trans ((completeRestart_keeps _).mono (by decide)))
    (Keeps.refl _ _)

theorem execEnumerationTimeout_keeps (i : SlotNo) (s t : State) (h : execEnumerationTimeout i s = .next t) :
    Keeps (.clock :: planParts) s t := by
  unfold execEnumerationTimeout at h
  refine whileRunning_keeps h ?_
  split
  · exact reach_then _ (finishAndStart_keeps _ _ _ _) (by decide) (by decide)
  · exact Keeps.refl _ _

theorem execAwaitTimeout_keeps (i : SlotNo) (s t : State) (h : execAwaitTimeout i s = .next t) :
    Keeps (.clock :: planParts) s t := by
  unfold execAwaitTimeout at h
  refine whileRunning_keeps h ?_
  split
  · exact reach_then _ (finishAndStart_keeps _ _ _ _) (by decide) (by decide)
  · exact Keeps.refl _ _

theorem execPauseExpiry_keeps (i : SlotNo) (s t : State) (h : execPauseExpiry i s = .next t) :
    Keeps (.clock :: planParts) s t := by
  unfold execPauseExpiry at h
  refine whileRunning_keeps h ?_
  split
  · exact reach_then _ (work_keeps _ _) (by decide) (by decide)
  · exact Keeps.refl _ _

theorem execReenumGraceExpiry_keeps (i : SlotNo) (s t : State) (h : execReenumGraceExpiry i s = .next t) :
    Keeps (.clock :: planParts) s t := by
  unfold execReenumGraceExpiry at h
  refine whileRunning_keeps h ?_
  split
  · exact reach_then _ (finishAndStart_keeps _ _ _ _) (by decide) (by decide)
  · exact Keeps.refl _ _

theorem execEnumeratedChange_keeps (l : LaneNo) (v : Level) (s t : State) (h : execEnumeratedChange l v s = .next t) :
    Keeps planParts s t := by
  unfold execEnumeratedChange at h
  refine whileRunning_keeps h ?_
  exact Keeps.ite (changeEnumerated_keeps _ _ _) (Keeps.refl _ _)

theorem execLaneFault_keeps (l : LaneNo) (s t : State) (h : execLaneFault l s = .next t) :
    Keeps planParts s t := by
  unfold execLaneFault at h
  refine whileRunning_keeps h ?_
  dsimp only
  refine Keeps.ite ?_ (Keeps.refl _ _)
  split
  · exact (setLane_keeps _ _ _).mono (by decide)
  · exact faultLane_keeps _ _

theorem execFaultLineReleased_keeps (l : LaneNo) (s t : State) (h : execFaultLineReleased l s = .next t) :
    Keeps [.lanes] s t := by
  unfold execFaultLineReleased at h
  refine whileRunning_keeps h ?_
  dsimp only
  refine Keeps.ite ?_ (Keeps.refl _ _)
  split <;> exact setLane_keeps _ _ _

theorem execFaultClearExpiry_keeps (l : LaneNo) (s t : State) (h : execFaultClearExpiry l s = .next t) :
    Keeps [.clock, .lanes] s t := by
  unfold execFaultClearExpiry at h
  refine whileRunning_keeps h ?_
  split
  · exact reach_then _ (moveLane_keeps _ _ _) (by decide) (by decide)
  · exact Keeps.refl _ _

theorem execWakeTimerExpiry_keeps (s t : State) (h : execWakeTimerExpiry s = .next t) :
    Keeps (.clock :: planParts) s t := by
  unfold execWakeTimerExpiry at h
  refine whileRunning_keeps h ?_
  split
  · exact Keeps.refl _ _
  · exact (reach_then _ (endWake_keeps _ _) (by decide) (by decide)).trans ((work_keeps _ _).mono (by decide))

theorem execIdleTimerExpiry_keeps (l : LaneNo) (s t : State) (h : execIdleTimerExpiry l s = .next t) :
    Keeps [.clock, .lanes] s t := by
  unfold execIdleTimerExpiry at h
  refine whileRunning_keeps h ?_
  split
  · exact (reach_then _ (moveLane_keeps _ _ _) (by decide) (by decide)).trans ((wakeLanes_keeps _).mono (by decide))
  · exact Keeps.refl _ _

theorem execScrubTimerExpiry_keeps (l : LaneNo) (s t : State) (h : execScrubTimerExpiry l s = .next t) :
    Keeps (.clock :: planParts) s t := by
  unfold execScrubTimerExpiry at h
  refine whileRunning_keeps h ?_
  split
  · exact (reach_then _ (moveLane_keeps _ _ _) (by decide) (by decide)).trans ((work_keeps _ _).mono (by decide))
  · exact Keeps.refl _ _

theorem execFrameAbandoned_keeps (s t : State) (h : execFrameAbandoned s = .next t) :
    Keeps [.errors, .linePhase] s t := by
  unfold execFrameAbandoned at h
  exact whileRunning_keeps h (Keeps.ite (abandonFrame_keeps _) (Keeps.refl _ _))

theorem execCrcError_keeps (s t : State) (h : execCrcError s = .next t) :
    Keeps [.errors, .linePhase] s t := by
  unfold execCrcError at h
  refine whileRunning_keeps h (Keeps.ite ?_ (Keeps.refl _ _))
  intro p hp; cases p <;> simp_all [same, Line.countError, Line.frameEnds]

theorem becomeIdle_keeps (s : State) : Keeps [.clock, .linePhase] s s.becomeIdle := by
  intro p hp; cases p <;> simp_all [same, State.becomeIdle]

theorem execLineIdle_keeps (s t : State) (h : execLineIdle s = .next t) :
    Keeps [.clock, .linePhase] s t := by
  unfold execLineIdle at h
  refine whileRunning_keeps h ?_
  split
  · exact Keeps.refl _ _
  · exact becomeIdle_keeps _

theorem execTransmitAttempt_keeps (s t : State) (h : execTransmitAttempt s = .next t) :
    Keeps [.queue, .linePhase] s t := by
  unfold execTransmitAttempt at h
  refine whileRunning_keeps h ?_
  split
  · exact attempt_keeps _ _
  · exact Keeps.refl _ _

theorem execArbitrationLost_keeps (s t : State) (h : execArbitrationLost s = .next t) :
    Keeps [.requests, .queue, .linePhase] s t := by
  unfold execArbitrationLost at h
  refine whileRunning_keeps h ?_
  split
  · exact ((setLinePhase_keeps _ _).mono (by decide)).trans ((backToWaiting_keeps _ _).mono (by decide))
  · exact Keeps.refl _ _

theorem execBitError_keeps (s t : State) (h : execBitError s = .next t) :
    Keeps [.requests, .queue, .linePhase] s t := by
  unfold execBitError at h
  refine whileRunning_keeps h ?_
  split
  · exact breakAttempt_keeps _ _
  · exact Keeps.refl _ _

theorem execTransmitComplete_keeps (s t : State) (h : execTransmitComplete s = .next t) :
    Keeps (.clock :: .linePhase :: claimParts) s t := by
  unfold execTransmitComplete at h
  refine whileRunning_keeps h ?_
  split
  · exact ((reach_keeps _ _).mono (by decide)).trans ((completeAttempt_keeps _ _).mono (by decide))
  · exact Keeps.refl _ _

theorem execLampBlinkTick_keeps (s t : State) (h : execLampBlinkTick s = .next t) :
    Keeps [.clock, .lamps] s t := by
  unfold execLampBlinkTick at h
  refine whileRunning_keeps h ?_
  intro p hp; cases p <;> simp_all [same]

/-- Every row of a received frame answers with what its class and bytes say. -/
theorem frame_keeps (c : Nat) (src : Source) (p : List Byte) (s t : State)
    (h : whileRunning s (State.takeFrame c src p) = .next t) : Keeps frameParts s t :=
  whileRunning_keeps h (takeFrame_keeps _ _ _ _)

theorem exec_keeps (c : Instr) (s t : State) (hc : isLoaderCommand c = false) (h : exec c s = .next t) :
    Keeps runningParts s t := by
  cases c <;> simp only [isLoaderCommand, reduceCtorEq] at hc
  case filteredPresentChange => exact (execFilteredPresentChange_keeps _ _ _ _ h).mono (by decide)
  case filteredBoltSenseChange => exact (execFilteredBoltSenseChange_keeps _ _ _ _ h).mono (by decide)
  case insertion => exact (execInsertion_keeps _ _ _ _ h).mono (by decide)
  case extraction => exact (execExtraction_keeps _ _ _ h).mono (by decide)
  case measurementPublication => exact (execMeasurementPublication_keeps _ _ _ _ _ h).mono (by decide)
  case overCurrentCheck => exact (execOverCurrentCheck_keeps _ _ _ h).mono (by decide)
  case integrationPeriodEnd => exact (execIntegrationPeriodEnd_keeps _ _ _ _ h).mono (by decide)
  case detectTimerExpiry => exact (execDetectTimerExpiry_keeps _ _ _ h).mono (by decide)
  case taperDwell => exact (execTaperDwell_keeps _ _ _ h).mono (by decide)
  case toppedDwell => exact (execToppedDwell_keeps _ _ _ h).mono (by decide)
  case taperToBulkDwell => exact (execTaperToBulkDwell_keeps _ _ _ h).mono (by decide)
  case toppedToBulkDwell => exact (execToppedToBulkDwell_keeps _ _ _ h).mono (by decide)
  case restartHoldExpiry => exact (execRestartHoldExpiry_keeps _ _ _ h).mono (by decide)
  case retryWaitExpiry => exact (execRetryWaitExpiry_keeps _ _ _ h).mono (by decide)
  case dueUntilPasses => exact (execDueUntilPasses_keeps _ _ _ h).mono (by decide)
  case reportTimerExpiry => exact (execReportTimerExpiry_keeps _ _ h).mono (by decide)
  case earlyNeedSpacing => exact (execEarlyNeedSpacing_keeps _ _ h).mono (by decide)
  case silenceTimerExpiry => exact (execSilenceTimerExpiry_keeps _ _ h).mono (by decide)
  case peerAging => exact (execPeerAging_keeps _ _ _ h).mono (by decide)
  case ceilingRecordExpiry => exact (execCeilingRecordExpiry_keeps _ _ _ h).mono (by decide)
  case claimExpiry => exact (execClaimExpiry_keeps _ _ h).mono (by decide)
  case withdrawPulseEnd => exact (execWithdrawPulseEnd_keeps _ _ _ h).mono (by decide)
  case throwPulseEnd => exact (execThrowPulseEnd_keeps _ _ _ h).mono (by decide)
  case claimWaitTimeout => exact (execClaimWaitTimeout_keeps _ _ _ h).mono (by decide)
  case openTimerExpiry => exact (execOpenTimerExpiry_keeps _ _ _ h).mono (by decide)
  case stationRestart => exact (execStationRestart_keeps _ _ h).mono (by decide)
  case enumerationTimeout => exact (execEnumerationTimeout_keeps _ _ _ h).mono (by decide)
  case awaitTimeout => exact (execAwaitTimeout_keeps _ _ _ h).mono (by decide)
  case pauseExpiry => exact (execPauseExpiry_keeps _ _ _ h).mono (by decide)
  case reenumGraceExpiry => exact (execReenumGraceExpiry_keeps _ _ _ h).mono (by decide)
  case enumeratedChange => exact (execEnumeratedChange_keeps _ _ _ _ h).mono (by decide)
  case laneFault => exact (execLaneFault_keeps _ _ _ h).mono (by decide)
  case faultLineReleased => exact (execFaultLineReleased_keeps _ _ _ h).mono (by decide)
  case faultClearExpiry => exact (execFaultClearExpiry_keeps _ _ _ h).mono (by decide)
  case wakeTimerExpiry => exact (execWakeTimerExpiry_keeps _ _ h).mono (by decide)
  case idleTimerExpiry => exact (execIdleTimerExpiry_keeps _ _ _ h).mono (by decide)
  case scrubTimerExpiry => exact (execScrubTimerExpiry_keeps _ _ _ h).mono (by decide)
  case frameAbandoned => exact (execFrameAbandoned_keeps _ _ h).mono (by decide)
  case crcError => exact (execCrcError_keeps _ _ h).mono (by decide)
  case lineIdle => exact (execLineIdle_keeps _ _ h).mono (by decide)
  case transmitAttempt => exact (execTransmitAttempt_keeps _ _ h).mono (by decide)
  case arbitrationLost => exact (execArbitrationLost_keeps _ _ h).mono (by decide)
  case bitError => exact (execBitError_keeps _ _ h).mono (by decide)
  case transmitComplete => exact (execTransmitComplete_keeps _ _ h).mono (by decide)
  case lampBlinkTick => exact (execLampBlinkTick_keeps _ _ h).mono (by decide)
  case need => exact (frame_keeps _ _ _ _ _ h).mono (by decide)
  case leave => exact (frame_keeps _ _ _ _ _ h).mono (by decide)
  case ceiling => exact (frame_keeps _ _ _ _ _ h).mono (by decide)
  case claim => exact (frame_keeps _ _ _ _ _ h).mono (by decide)
  case otherFrame => exact (frame_keeps _ _ _ _ _ h).mono (by decide)
  case permitOpen => exact (frame_keeps _ _ _ _ _ h).mono (by decide)
  case permitReturn => exact (frame_keeps _ _ _ _ _ h).mono (by decide)
  case permitDue => exact (frame_keeps _ _ _ _ _ h).mono (by decide)
  case permitHold => exact (frame_keeps _ _ _ _ _ h).mono (by decide)
  case permitLift => exact (frame_keeps _ _ _ _ _ h).mono (by decide)
  case permitRestart => exact (frame_keeps _ _ _ _ _ h).mono (by decide)
  case permitUnknownKind => exact (frame_keeps _ _ _ _ _ h).mono (by decide)
  case plan => exact (frame_keeps _ _ _ _ _ h).mono (by decide)
  case go => exact (frame_keeps _ _ _ _ _ h).mono (by decide)
  case cancel => exact (frame_keeps _ _ _ _ _ h).mono (by decide)
  case build => exact (frame_keeps _ _ _ _ _ h).mono (by decide)
  case unpin => exact (frame_keeps _ _ _ _ _ h).mono (by decide)
  case queryStation => exact (frame_keeps _ _ _ _ _ h).mono (by decide)
  case querySlot => exact (frame_keeps _ _ _ _ _ h).mono (by decide)

/-! ## The clock -/

theorem reach_clock_le {ps : List Part} {s u : State} (x : Nat) (h : Keeps ps (s.reach x) u) (n : .clock ∉ ps) :
    s.clock ≤ u.clock := by
  have k : u.clock = (s.reach x).clock := h .clock n
  rw [k]; exact Nat.le_max_left _ _

theorem clock_le_of_keeps {ps : List Part} {s u : State} (h : Keeps ps s u) (n : .clock ∉ ps) : s.clock ≤ u.clock :=
  Nat.le_of_eq (h .clock n : u.clock = s.clock).symm

theorem whileRunning_clock {s t : State} {f : State → State} (h : whileRunning s f = .next t) (k : s.clock ≤ (f s).clock) :
    s.clock ≤ t.clock := by
  unfold whileRunning at h
  cases h
  split
  · exact k
  · exact Nat.le_refl _

/-- The clock never goes back. -/
theorem exec_clock (c : Instr) (s t : State) (hc : isLoaderCommand c = false) (h : exec c s = .next t) :
    s.clock ≤ t.clock := by
  cases c <;> simp only [isLoaderCommand, reduceCtorEq] at hc
  case filteredPresentChange => exact clock_le_of_keeps (execFilteredPresentChange_keeps _ _ _ _ h) (by decide)
  case filteredBoltSenseChange => exact clock_le_of_keeps (execFilteredBoltSenseChange_keeps _ _ _ _ h) (by decide)
  case insertion =>
    rw [show exec (.insertion _ _ ) s = execInsertion _ _ s from rfl, execInsertion] at h
    refine whileRunning_clock h ?_
    split
    · exact reach_clock_le _ (insert_keeps _ _ _ _) (by decide)
    · exact Nat.le_refl _
  case extraction =>
    rw [show exec (.extraction _ ) s = execExtraction _ s from rfl, execExtraction] at h
    refine whileRunning_clock h ?_
    split
    · exact reach_clock_le _ (extract_keeps _ _) (by decide)
    · exact Nat.le_refl _
  case measurementPublication => exact clock_le_of_keeps (execMeasurementPublication_keeps _ _ _ _ _ h) (by decide)
  case overCurrentCheck =>
    rw [show exec (.overCurrentCheck _ ) s = execOverCurrentCheck _ s from rfl, execOverCurrentCheck] at h
    refine whileRunning_clock h ?_
    split
    · split
      · exact reach_clock_le _ (faultSlot_keeps _ _ _ _) (by decide)
      · exact Nat.le_refl _
    · exact Nat.le_refl _
  case integrationPeriodEnd =>
    rw [show exec (.integrationPeriodEnd _ _ ) s = execIntegrationPeriodEnd _ _ s from rfl, execIntegrationPeriodEnd] at h
    refine whileRunning_clock h ?_
    split
    · exact reach_clock_le _ (integrate_keeps _ _ _ _) (by decide)
    · exact Nat.le_refl _
  case detectTimerExpiry =>
    rw [show exec (.detectTimerExpiry _ ) s = execDetectTimerExpiry _ s from rfl, execDetectTimerExpiry] at h
    refine whileRunning_clock h ?_
    split
    · exact reach_clock_le _ (endDetect_keeps _ _) (by decide)
    · exact Nat.le_refl _
  case taperDwell =>
    rw [show exec (.taperDwell _ ) s = execTaperDwell _ s from rfl, execTaperDwell] at h
    refine whileRunning_clock h ?_
    split
    · exact reach_clock_le _ (chargeEvent_keeps _ _ _) (by decide)
    · exact Nat.le_refl _
  case toppedDwell =>
    rw [show exec (.toppedDwell _ ) s = execToppedDwell _ s from rfl, execToppedDwell] at h
    refine whileRunning_clock h ?_
    split
    · exact reach_clock_le _ (chargeEvent_keeps _ _ _) (by decide)
    · exact Nat.le_refl _
  case taperToBulkDwell =>
    rw [show exec (.taperToBulkDwell _ ) s = execTaperToBulkDwell _ s from rfl, execTaperToBulkDwell] at h
    refine whileRunning_clock h ?_
    split
    · exact reach_clock_le _ (chargeEvent_keeps _ _ _) (by decide)
    · exact Nat.le_refl _
  case toppedToBulkDwell =>
    rw [show exec (.toppedToBulkDwell _ ) s = execToppedToBulkDwell _ s from rfl, execToppedToBulkDwell] at h
    refine whileRunning_clock h ?_
    split
    · exact reach_clock_le _ (chargeEvent_keeps _ _ _) (by decide)
    · exact Nat.le_refl _
  case restartHoldExpiry =>
    rw [show exec (.restartHoldExpiry _ ) s = execRestartHoldExpiry _ s from rfl, execRestartHoldExpiry] at h
    refine whileRunning_clock h ?_
    split
    · exact reach_clock_le _ (chargeEvent_keeps _ _ _) (by decide)
    · exact Nat.le_refl _
  case retryWaitExpiry =>
    rw [show exec (.retryWaitExpiry _ ) s = execRetryWaitExpiry _ s from rfl, execRetryWaitExpiry] at h
    refine whileRunning_clock h ?_
    split
    · exact reach_clock_le _ (chargeEvent_keeps _ _ _) (by decide)
    · exact Nat.le_refl _
  case dueUntilPasses =>
    rw [show exec (.dueUntilPasses _ ) s = execDueUntilPasses _ s from rfl, execDueUntilPasses] at h
    refine whileRunning_clock h ?_
    split
    · split
      · exact Nat.le_refl _
      · exact reach_clock_le _ (passDue_keeps _ _) (by decide)
    · exact Nat.le_refl _
  case reportTimerExpiry =>
    rw [show exec (.reportTimerExpiry ) s = execReportTimerExpiry s from rfl, execReportTimerExpiry] at h
    refine whileRunning_clock h ?_
    exact reach_clock_le _ (report_keeps _) (by decide)
  case earlyNeedSpacing =>
    rw [show exec (.earlyNeedSpacing ) s = execEarlyNeedSpacing s from rfl, execEarlyNeedSpacing] at h
    refine whileRunning_clock h ?_
    split
    · exact reach_clock_le _ (spaceNeed_keeps _) (by decide)
    · exact Nat.le_refl _
  case silenceTimerExpiry =>
    rw [show exec (.silenceTimerExpiry ) s = execSilenceTimerExpiry s from rfl, execSilenceTimerExpiry] at h
    refine whileRunning_clock h ?_
    split
    · exact reach_clock_le _ (((enterIsolated_keeps _).mono (by decide)).trans ((compute_keeps _ _).mono (qs := runningParts.filter (· ≠ .clock)) (by decide))) (by decide)
    · exact Nat.le_refl _
  case peerAging =>
    rw [show exec (.peerAging _ ) s = execPeerAging _ s from rfl, execPeerAging] at h
    refine whileRunning_clock h ?_
    split
    · split
      · exact reach_clock_le _ (((setPeer_keeps _ _ _).mono (by decide)).trans ((compute_keeps _ _).mono (qs := runningParts.filter (· ≠ .clock)) (by decide))) (by decide)
      · exact Nat.le_refl _
    · exact Nat.le_refl _
  case ceilingRecordExpiry =>
    rw [show exec (.ceilingRecordExpiry _ ) s = execCeilingRecordExpiry _ s from rfl, execCeilingRecordExpiry] at h
    refine whileRunning_clock h ?_
    split
    · exact reach_clock_le _ (((setCeilings_keeps _ _).mono (by decide)).trans ((compute_keeps _ _).mono (qs := runningParts.filter (· ≠ .clock)) (by decide))) (by decide)
    · exact Nat.le_refl _
  case claimExpiry =>
    rw [show exec (.claimExpiry ) s = execClaimExpiry s from rfl, execClaimExpiry] at h
    refine whileRunning_clock h ?_
    split
    · exact Nat.le_refl _
    · exact reach_clock_le _ (expireClaims_keeps _) (by decide)
  case withdrawPulseEnd =>
    rw [show exec (.withdrawPulseEnd _ ) s = execWithdrawPulseEnd _ s from rfl, execWithdrawPulseEnd] at h
    refine whileRunning_clock h ?_
    split
    · exact reach_clock_le _ (endWithdraw_keeps _ _) (by decide)
    · exact Nat.le_refl _
  case throwPulseEnd =>
    rw [show exec (.throwPulseEnd _ ) s = execThrowPulseEnd _ s from rfl, execThrowPulseEnd] at h
    refine whileRunning_clock h ?_
    split
    · exact reach_clock_le _ (endThrow_keeps _ _) (by decide)
    · exact Nat.le_refl _
  case claimWaitTimeout =>
    rw [show exec (.claimWaitTimeout _ ) s = execClaimWaitTimeout _ s from rfl, execClaimWaitTimeout] at h
    refine whileRunning_clock h ?_
    split
    · exact reach_clock_le _ (timeOutRelease_keeps _ _) (by decide)
    · exact Nat.le_refl _
  case openTimerExpiry =>
    rw [show exec (.openTimerExpiry _ ) s = execOpenTimerExpiry _ s from rfl, execOpenTimerExpiry] at h
    refine whileRunning_clock h ?_
    split
    · exact reach_clock_le _ (throwWait_keeps _ _ _) (by decide)
    · exact Nat.le_refl _
  case stationRestart => exact clock_le_of_keeps (execStationRestart_keeps _ _ h) (by decide)
  case enumerationTimeout =>
    rw [show exec (.enumerationTimeout _ ) s = execEnumerationTimeout _ s from rfl, execEnumerationTimeout] at h
    refine whileRunning_clock h ?_
    split
    · exact reach_clock_le _ (finishAndStart_keeps _ _ _ _) (by decide)
    · exact Nat.le_refl _
  case awaitTimeout =>
    rw [show exec (.awaitTimeout _ ) s = execAwaitTimeout _ s from rfl, execAwaitTimeout] at h
    refine whileRunning_clock h ?_
    split
    · exact reach_clock_le _ (finishAndStart_keeps _ _ _ _) (by decide)
    · exact Nat.le_refl _
  case pauseExpiry =>
    rw [show exec (.pauseExpiry _ ) s = execPauseExpiry _ s from rfl, execPauseExpiry] at h
    refine whileRunning_clock h ?_
    split
    · exact reach_clock_le _ (work_keeps _ _) (by decide)
    · exact Nat.le_refl _
  case reenumGraceExpiry =>
    rw [show exec (.reenumGraceExpiry _ ) s = execReenumGraceExpiry _ s from rfl, execReenumGraceExpiry] at h
    refine whileRunning_clock h ?_
    split
    · exact reach_clock_le _ (finishAndStart_keeps _ _ _ _) (by decide)
    · exact Nat.le_refl _
  case enumeratedChange => exact clock_le_of_keeps (execEnumeratedChange_keeps _ _ _ _ h) (by decide)
  case laneFault => exact clock_le_of_keeps (execLaneFault_keeps _ _ _ h) (by decide)
  case faultLineReleased => exact clock_le_of_keeps (execFaultLineReleased_keeps _ _ _ h) (by decide)
  case faultClearExpiry =>
    rw [show exec (.faultClearExpiry _ ) s = execFaultClearExpiry _ s from rfl, execFaultClearExpiry] at h
    refine whileRunning_clock h ?_
    split
    · exact reach_clock_le _ (moveLane_keeps _ _ _) (by decide)
    · exact Nat.le_refl _
  case wakeTimerExpiry =>
    rw [show exec (.wakeTimerExpiry ) s = execWakeTimerExpiry s from rfl, execWakeTimerExpiry] at h
    refine whileRunning_clock h ?_
    split
    · exact Nat.le_refl _
    · exact reach_clock_le _ (((endWake_keeps _ _).mono (by decide)).trans ((work_keeps _ _).mono (qs := runningParts.filter (· ≠ .clock)) (by decide))) (by decide)
  case idleTimerExpiry =>
    rw [show exec (.idleTimerExpiry _ ) s = execIdleTimerExpiry _ s from rfl, execIdleTimerExpiry] at h
    refine whileRunning_clock h ?_
    split
    · exact reach_clock_le _ (((moveLane_keeps _ _ _).mono (by decide)).trans ((wakeLanes_keeps _).mono (qs := runningParts.filter (· ≠ .clock)) (by decide))) (by decide)
    · exact Nat.le_refl _
  case scrubTimerExpiry =>
    rw [show exec (.scrubTimerExpiry _ ) s = execScrubTimerExpiry _ s from rfl, execScrubTimerExpiry] at h
    refine whileRunning_clock h ?_
    split
    · exact reach_clock_le _ (((moveLane_keeps _ _ _).mono (by decide)).trans ((work_keeps _ _).mono (qs := runningParts.filter (· ≠ .clock)) (by decide))) (by decide)
    · exact Nat.le_refl _
  case frameAbandoned => exact clock_le_of_keeps (execFrameAbandoned_keeps _ _ h) (by decide)
  case crcError => exact clock_le_of_keeps (execCrcError_keeps _ _ h) (by decide)
  case lineIdle =>
    rw [show exec (.lineIdle ) s = execLineIdle s from rfl, execLineIdle] at h
    refine whileRunning_clock h ?_
    split
    · exact Nat.le_refl _
    · exact Nat.le_max_left _ _
  case transmitAttempt => exact clock_le_of_keeps (execTransmitAttempt_keeps _ _ h) (by decide)
  case arbitrationLost => exact clock_le_of_keeps (execArbitrationLost_keeps _ _ h) (by decide)
  case bitError => exact clock_le_of_keeps (execBitError_keeps _ _ h) (by decide)
  case transmitComplete =>
    rw [show exec (.transmitComplete ) s = execTransmitComplete s from rfl, execTransmitComplete] at h
    refine whileRunning_clock h ?_
    split
    · exact reach_clock_le _ (completeAttempt_keeps _ _) (by decide)
    · exact Nat.le_refl _
  case lampBlinkTick =>
    rw [show exec (.lampBlinkTick ) s = execLampBlinkTick s from rfl, execLampBlinkTick] at h
    refine whileRunning_clock h ?_
    exact Nat.le_max_left _ _
  case need => exact clock_le_of_keeps (frame_keeps _ _ _ _ _ h) (by decide)
  case leave => exact clock_le_of_keeps (frame_keeps _ _ _ _ _ h) (by decide)
  case ceiling => exact clock_le_of_keeps (frame_keeps _ _ _ _ _ h) (by decide)
  case claim => exact clock_le_of_keeps (frame_keeps _ _ _ _ _ h) (by decide)
  case otherFrame => exact clock_le_of_keeps (frame_keeps _ _ _ _ _ h) (by decide)
  case permitOpen => exact clock_le_of_keeps (frame_keeps _ _ _ _ _ h) (by decide)
  case permitReturn => exact clock_le_of_keeps (frame_keeps _ _ _ _ _ h) (by decide)
  case permitDue => exact clock_le_of_keeps (frame_keeps _ _ _ _ _ h) (by decide)
  case permitHold => exact clock_le_of_keeps (frame_keeps _ _ _ _ _ h) (by decide)
  case permitLift => exact clock_le_of_keeps (frame_keeps _ _ _ _ _ h) (by decide)
  case permitRestart => exact clock_le_of_keeps (frame_keeps _ _ _ _ _ h) (by decide)
  case permitUnknownKind => exact clock_le_of_keeps (frame_keeps _ _ _ _ _ h) (by decide)
  case plan => exact clock_le_of_keeps (frame_keeps _ _ _ _ _ h) (by decide)
  case go => exact clock_le_of_keeps (frame_keeps _ _ _ _ _ h) (by decide)
  case cancel => exact clock_le_of_keeps (frame_keeps _ _ _ _ _ h) (by decide)
  case build => exact clock_le_of_keeps (frame_keeps _ _ _ _ _ h) (by decide)
  case unpin => exact clock_le_of_keeps (frame_keeps _ _ _ _ _ h) (by decide)
  case queryStation => exact clock_le_of_keeps (frame_keeps _ _ _ _ _ h) (by decide)
  case querySlot => exact clock_le_of_keeps (frame_keeps _ _ _ _ _ h) (by decide)

end Sys2Proof.Machine
end

