-- ==== Sys2Proof/Laws/Follow.lean ====
section
/-! SUPPORT. The charge records follow their allocations through every computation and settling, and the moves of one record. -/

namespace Sys2Proof.Machine

/-! ## Following is reflexive and transitive -/

theorem Phase.Follows.refl (p : Phase) : p.Follows p := by
  cases p <;> simp [Phase.Follows]

theorem Phase.Follows.trans {p q r : Phase} (h : p.Follows q) (k : q.Follows r) : p.Follows r := by
  cases p <;> simp only [Phase.Follows] at h ⊢
  case off => subst h; simpa [Phase.Follows] using k
  case detect => obtain ⟨t, rfl⟩ := h; simpa [Phase.Follows] using k
  case charging => rcases h with rfl | rfl <;> simpa [Phase.Follows] using k
  case deferred => rcases h with rfl | rfl <;> simpa [Phase.Follows] using k
  case restart => subst h; simpa [Phase.Follows] using k
  case faulted => subst h; simpa [Phase.Follows] using k

theorem Phase.Follows.of_charging {ph : ChargePhase} {q r : Phase} (h : q = .charging ph ∨ q = .deferred ph)
    (k : q.Follows r) : r = .charging ph ∨ r = .deferred ph := by
  rcases h with rfl | rfl <;> simpa [Phase.Follows] using k

theorem ChargeSlot.Follows.refl (c : ChargeSlot) : c.Follows c where
  phase := Phase.Follows.refl _
  path := rfl
  working := rfl
  retries := rfl
  ready := .inl rfl
  downSince := .inl rfl
  upSince := .inl rfl
  overSince := rfl
  unheeding := fun _ => ⟨rfl, rfl, rfl⟩

theorem ChargeSlot.Follows.trans {c d e : ChargeSlot} (h : c.Follows d) (k : d.Follows e) : c.Follows e where
  phase := h.phase.trans k.phase
  path := k.path.trans h.path
  working := k.working.trans h.working
  retries := k.retries.trans h.retries
  ready := by
    rcases k.ready with kr | kr
    · rcases h.ready with hr | ⟨ph, hb, hp, hr⟩
      · exact .inl (kr.trans hr)
      · exact .inr ⟨ph, hb, Phase.Follows.of_charging hp k.phase, kr.trans hr⟩
    · exact .inr kr
  downSince := by
    rcases k.downSince with kr | kr
    · rw [kr]; exact h.downSince
    · exact .inr kr
  upSince := by
    rcases k.upSince with kr | kr
    · rw [kr]; exact h.upSince
    · exact .inr kr
  overSince := k.overSince.trans h.overSince
  unheeding n := by
    have m : d.phase.heedsAllocation = false := by
      have p := h.phase
      cases hc : c.phase <;> rw [hc] at p n <;> simp [Phase.heedsAllocation] at n <;> simp only [Phase.Follows] at p <;>
        rw [p] <;> rfl
    have a := h.unheeding n
    have b := k.unheeding m
    exact ⟨b.1.trans a.1, b.2.1.trans a.2.1, b.2.2.trans a.2.2⟩

theorem AllFollow.refl (s : State) : AllFollow s s := fun _ => ChargeSlot.Follows.refl _

theorem AllFollow.trans {s t u : State} (h : AllFollow s t) (k : AllFollow t u) : AllFollow s u :=
  fun i => (h i).trans (k i)

theorem AllFollow.ite {s t u : State} {c : Prop} [Decidable c] (h : AllFollow s t) (k : AllFollow s u) :
    AllFollow s (if c then t else u) := by split <;> assumption

theorem AllFollow.of_keeps {ps : List Part} {s t : State} (h : Keeps ps s t) (n : .charge ∉ ps) : AllFollow s t := by
  have e : t.charge = s.charge := h .charge n
  intro k; rw [e]; exact ChargeSlot.Follows.refl _

theorem OthersFollow.trans {i : SlotNo} {s t u : State} (h : OthersFollow i s t) (k : OthersFollow i t u) :
    OthersFollow i s u := fun j n => (h j n).trans (k j n)

theorem AllFollow.others {s t : State} (h : AllFollow s t) (i : SlotNo) : OthersFollow i s t := fun k _ => h k

/-! ## A change of allocation -/

theorem onAllocation_follows (cfg : Record) (ms : Nat) (m : MonitorSlot) (p : Nat) (c : ChargeSlot) :
    c.Follows (c.onAllocation cfg ms m p) := by
  unfold ChargeSlot.onAllocation
  split
  · exact ChargeSlot.Follows.refl _
  case h_2 t h =>
    split
    · split
      · exact ChargeSlot.Follows.refl _
      · constructor <;> simp [h, Phase.Follows, Phase.heedsAllocation]
    · split
      · constructor <;> simp [h, Phase.Follows, Phase.heedsAllocation, ChargeSlot.turnOff]
      · exact ChargeSlot.Follows.refl _
  case h_3 ph h =>
    split
    · constructor <;> simp [h, Phase.Follows, Phase.heedsAllocation]
    · constructor <;> simp [h, Phase.Follows, Phase.heedsAllocation, ChargeSlot.noDwells, ChargeSlot.turnOff]
  case h_4 ph h =>
    split
    · next hp =>
      unfold ChargeSlot.enter
      rw [if_pos hp]
      constructor <;> simp only [h, Phase.Follows, Phase.heedsAllocation, ChargeSlot.noDwells, true_or, or_true, reduceCtorEq,
        false_implies]
      cases ph <;> simp
    · exact ChargeSlot.Follows.refl _
  · exact ChargeSlot.Follows.refl _
  · exact ChargeSlot.Follows.refl _

theorem notice_charge (k : NoticeKind) (i : Option SlotNo) (d : Nat) (s : State) : (s.notice k i d).charge = s.charge :=
  notice_keeps k i d s .charge (by decide)

@[simp] theorem updateCharge_charge (i : SlotNo) (f : ChargeSlot → ChargeSlot) (s : State) :
    (s.updateCharge i f).charge = setAt s.charge i (f (s.charge.get i)) := by
  unfold State.updateCharge
  dsimp only
  split
  · rw [notice_charge]; rfl
  · rfl

theorem updateCharge_follows (i : SlotNo) (f : ChargeSlot → ChargeSlot) (s : State)
    (h : (s.charge.get i).Follows (f (s.charge.get i))) : AllFollow s (s.updateCharge i f) := by
  intro k
  rw [updateCharge_charge, get_setAt]
  split
  · next e => subst e; exact h
  · exact ChargeSlot.Follows.refl _

theorem handAllocation_follows (k : SlotNo) (p : Nat) (s : State) : AllFollow s (handAllocation k p s) := by
  unfold handAllocation
  refine AllFollow.ite (AllFollow.refl _) ?_
  exact AllFollow.trans (t := { s with share := { s.share with slotAlloc := setAt s.share.slotAlloc k p } })
    (AllFollow.refl _) (updateCharge_follows _ _ _ (onAllocation_follows _ _ _ _ _))

theorem foldl_follows {α : Type} (f : State → α → State) (h : ∀ s a, AllFollow s (f s a)) :
    ∀ (l : List α) (s : State), AllFollow s (l.foldl f s)
  | [], s => AllFollow.refl s
  | a :: l, s => (h s a).trans (foldl_follows f h l _)

theorem distribute_follows (s : State) : AllFollow s s.distribute :=
  foldl_follows _ (fun _ _ => handAllocation_follows _ _ _) _ _

theorem judgeFloorShort_charge (s : State) : s.judgeFloorShort.charge = s.charge := by
  unfold State.judgeFloorShort
  split
  · split
    · rfl
    · rw [notice_charge]
  · rfl

theorem computeOnce_follows (r : Bool) (s : State) : AllFollow s (s.computeOnce r) := by
  unfold State.computeOnce
  refine AllFollow.trans ?_ (distribute_follows _)
  intro k
  show ChargeSlot.Follows _ (s.judgeFloorShort.charge.get k)
  rw [judgeFloorShort_charge]
  exact ChargeSlot.Follows.refl _

@[simp] theorem handNeed_charge (s : State) : s.handNeed.charge = s.charge := rfl

@[simp] theorem judgeEarlyNeed_charge (s : State) : s.judgeEarlyNeed.charge = s.charge := by
  unfold State.judgeEarlyNeed
  split
  · split <;> rfl
  · rfl

theorem takeDemands_follows (s : State) : AllFollow s s.takeDemands := by
  intro k
  show ChargeSlot.Follows _ ((sixOf _).get k)
  rw [sixOf_get]
  constructor <;> simp [Phase.Follows.refl]

theorem demandRound_follows (s : State) : AllFollow s s.demandRound := by
  unfold State.demandRound
  dsimp only
  refine (takeDemands_follows s).trans (AllFollow.ite (distribute_follows _) (AllFollow.trans ?_ (computeOnce_follows _ _)))
  intro k
  rw [judgeEarlyNeed_charge]
  exact ChargeSlot.Follows.refl _

theorem settle_follows : ∀ (n : Nat) (s : State), AllFollow s (settle n s)
  | 0, s => AllFollow.refl s
  | n + 1, s => by
    unfold settle
    exact AllFollow.ite ((demandRound_follows s).trans (settle_follows n _)) (AllFollow.refl _)

/-- A settling whose demands have come to rest has made its rounds and no more (R28). -/
theorem settle_settles : ∀ (n : Nat) (s : State), (settle n s).demandsMoved = false → Settles s (settle n s)
  | 0, _, h => .rest h
  | n + 1, s, h => by
    unfold settle at h ⊢
    split at h
    next m => rw [if_pos m]; exact .round m (settle_settles n _ h)
    next m => rw [if_neg m]; exact .rest h

/-- Where no demand has moved, nothing is to settle. -/
theorem settled_of_still {s : State} (h : s.demandsMoved = false) : s.settled = s := by
  simp [State.settled, settleRounds, settle, h]

theorem settled_follows (s : State) : AllFollow s s.settled := settle_follows _ s

theorem compute_follows (r : Bool) (s : State) : AllFollow s (s.compute r) :=
  (computeOnce_follows r s).trans (settled_follows _)

/-- What a charge event does: the slot's record follows from the event's, every other from its own. -/
theorem chargeEvent_follows (i : SlotNo) (f : ChargeSlot → ChargeSlot) (s : State) :
    (f (s.charge.get i)).Follows ((s.chargeEvent i f).charge.get i) ∧ OthersFollow i s (s.chargeEvent i f) := by
  have h := settled_follows (s.updateCharge i f)
  constructor
  · have k := h i
    rw [updateCharge_charge, get_setAt_same] at k
    exact k
  · intro j n
    have k := h j
    rw [updateCharge_charge, get_setAt_ne _ _ _ _ n] at k
    exact k

end Sys2Proof.Machine
end

