-- ==== Sys2Proof/Laws/Steady.lean ====
section
/-! SUPPORT. The relation that every operation of a running part keeps: counts only rise, and the conditions on claims, bolts,
power stages and shares stand after it if they stood before. -/

namespace Sys2Proof.Machine

/-- What no operation of a running part undoes. -/
structure Steady (s t : State) : Prop where
  counts : s.CountsWithin → t.CountsWithin ∧ s.line.errors ≤ t.line.errors ∧ s.line.lost ≤ t.line.lost
  claims : s.ClaimsWithin → t.ClaimsWithin
  bolts : s.BoltsClaimed → t.BoltsClaimed
  power : s.PowerRight → t.PowerRight
  share : s.ShareRight → t.ShareRight

theorem Steady.refl (s : State) : Steady s s := ⟨fun h => ⟨h, Nat.le_refl _, Nat.le_refl _⟩, id, id, id, id⟩

theorem Steady.trans {s t u : State} (h : Steady s t) (k : Steady t u) : Steady s u where
  counts w := by
    obtain ⟨a, b, c⟩ := h.counts w
    obtain ⟨a', b', c'⟩ := k.counts a
    exact ⟨a', Nat.le_trans b b', Nat.le_trans c c'⟩
  claims w := k.claims (h.claims w)
  bolts w := k.bolts (h.bolts w)
  power w := k.power (h.power w)
  share w := k.share (h.share w)

theorem Steady.ite {s t u : State} {c : Prop} [Decidable c] (h : Steady s t) (k : Steady s u) :
    Steady s (if c then t else u) := by split <;> assumption

theorem steady_foldl {α : Type} (f : State → α → State) (h : ∀ s a, Steady s (f s a)) :
    ∀ (l : List α) (s : State), Steady s (l.foldl f s)
  | [], s => Steady.refl s
  | a :: l, s => (h s a).trans (steady_foldl f h l (f s a))

theorem steady_forSlots (f : SlotNo → State → State) (h : ∀ i s, Steady s (f i s)) (ks : List SlotNo) (s : State) :
    Steady s (forSlots ks f s) := steady_foldl (fun t k => f k t) (fun t k => h k t) ks s

/-! ## Each condition reads only its own parts -/

theorem counts_of_eq {s t : State} (e : t.line.errors = s.line.errors) (l : t.line.lost = s.line.lost) :
    s.CountsWithin → t.CountsWithin ∧ s.line.errors ≤ t.line.errors ∧ s.line.lost ≤ t.line.lost := by
  intro h; unfold State.CountsWithin at *; omega

theorem claims_of_eq {s t : State} (c : t.clock = s.clock) (g : t.cfg = s.cfg) (e : t.claims.entries = s.claims.entries) :
    s.ClaimsWithin → t.ClaimsWithin := by
  intro h; unfold State.ClaimsWithin at *; rw [c, g, e]; exact h

theorem bolts_of_eq {s t : State} (c : t.clock = s.clock) (l : t.latch = s.latch) (o : t.claims.own = s.claims.own) :
    s.BoltsClaimed → t.BoltsClaimed := by
  intro h; unfold State.BoltsClaimed State.OwnsLive at *; rw [c, l, o]; exact h

theorem power_of_eq {s t : State} (g : t.cfg = s.cfg) (c : t.charge = s.charge) (a : t.share.slotAlloc = s.share.slotAlloc)
    (m : t.monitor = s.monitor) : s.PowerRight → t.PowerRight := by
  intro h; unfold State.PowerRight at *; rw [g, c, a, m]; exact h

theorem totals_of_eq {s t : State} (o : t.share.own = s.share.own) (p : t.share.peers = s.share.peers)
    (e : t.share.ceilings = s.share.ceilings) (g : t.cfg = s.cfg) : t.totals = s.totals := by
  unfold State.totals State.isoAllowance State.ceff; rw [o, p, e, g]

theorem cappedTarget_of_eq {s t : State} (x : t.share.state = s.share.state) (o : t.share.own = s.share.own)
    (p : t.share.peers = s.share.peers) (e : t.share.ceilings = s.share.ceilings) (r : t.share.reserve = s.share.reserve)
    (g : t.cfg = s.cfg) : t.cappedTarget = s.cappedTarget := by
  have a : t.available = s.available := by unfold State.available State.ceff; rw [e, g, r]
  have u : t.uncappedTarget = s.uncappedTarget := by unfold State.uncappedTarget; rw [totals_of_eq o p e g, a, o]
  have i : t.isoAllowance = s.isoAllowance := by unfold State.isoAllowance State.ceff; rw [e, g]
  unfold State.cappedTarget; rw [x, u, i, g]

theorem sums_of_eq {s t : State} (c : t.charge = s.charge) : t.sums = s.sums := by unfold State.sums; rw [c]

theorem share_of_keeps {ps : List Part} {s t : State} (h : Keeps ps s t) (c : .cfg ∉ ps) (d : t.sums = s.sums)
    (x : .standing ∉ ps) (p : .peers ∉ ps) (e : .ceilings ∉ ps) (r : .reserve ∉ ps) (w : .share ∉ ps) :
    s.ShareRight → t.ShareRight := by
  have a := h .share w
  intro k
  unfold State.ShareRight at *
  rw [cappedTarget_of_eq (h .standing x).1 a.1 (h .peers p) (h .ceilings e) (h .reserve r) (h .cfg c), d, a.1, a.2.2.2.2.1,
    a.2.2.2.2.2.1, a.2.2.2.2.2.2.2]
  exact k

/-- The parts that the conditions read. -/
def steadyParts : List Part :=
  [.clock, .cfg, .monitor, .charge, .standing, .peers, .ceilings, .reserve, .share, .latch, .requests, .claimList, .queue,
    .errors]

theorem Steady.of_keeps {ps : List Part} {s t : State} (h : Keeps ps s t) (n : ∀ p ∈ steadyParts, p ∉ ps) : Steady s t where
  counts := counts_of_eq (h .errors (n _ (by decide))) (h .queue (n _ (by decide))).2.2
  claims := claims_of_eq (h .clock (n _ (by decide))) (h .cfg (n _ (by decide))) (h .claimList (n _ (by decide)))
  bolts := bolts_of_eq (h .clock (n _ (by decide))) (h .latch (n _ (by decide))) (h .requests (n _ (by decide))).2.1
  power := power_of_eq (h .cfg (n _ (by decide))) (h .charge (n _ (by decide)))
    (h .share (n _ (by decide))).2.2.2.2.2.2.2 (h .monitor (n _ (by decide)))
  share := share_of_keeps h (n _ (by decide)) (sums_of_eq (h .charge (n _ (by decide)))) (n _ (by decide))
    (n _ (by decide)) (n _ (by decide)) (n _ (by decide)) (n _ (by decide))

/-! ## The clock -/

theorem liveClaims_later (es : List ClaimEntry) {a b : Nat} (h : a ≤ b) : (liveClaims b es).Sublist (liveClaims a es) := by
  have e : liveClaims b es = (liveClaims a es).filter (fun x => x.admitted && b < x.expiry) := by
    unfold liveClaims
    rw [List.filter_filter]
    congr 1
    funext x
    cases x.admitted <;> simp
    intro k; omega
  rw [e]; exact List.filter_sublist

theorem sumAmounts_sublist {as bs : List ClaimEntry} (h : as.Sublist bs) : sumAmounts as ≤ sumAmounts bs :=
  (h.map _).sum_le_sum (fun _ _ => Nat.zero_le _)

theorem claims_of_sublist {s t : State} (g : t.cfg = s.cfg)
    (h : (liveClaims t.clock t.claims.entries).Sublist (liveClaims s.clock s.claims.entries)) :
    s.ClaimsWithin → t.ClaimsWithin := by
  intro w
  obtain ⟨a, b, c⟩ := w
  refine ⟨Nat.le_trans (sumAmounts_sublist h) (g ▸ a), fun o => Nat.le_trans (h.filter _).length_le (b o), ?_⟩
  exact Nat.le_trans h.length_le c

theorem bolts_later {s t : State} (c : s.clock ≤ t.clock) (l : t.latch = s.latch) (o : t.claims.own = s.claims.own) :
    s.BoltsClaimed → t.BoltsClaimed := by
  intro h i u k
  have := h i u (Nat.lt_of_le_of_lt c k)
  unfold State.OwnsLive at *
  rw [l, o]; exact this

theorem clockUp_steady {s : State} (x : Nat) (h : s.clock ≤ x) : Steady s { s with clock := x } where
  counts := counts_of_eq rfl rfl
  claims := claims_of_sublist rfl (liveClaims_later _ h)
  bolts := bolts_later h rfl rfl
  power := power_of_eq rfl rfl rfl rfl
  share := id

theorem reach_steady (x : Nat) (s : State) : Steady s (s.reach x) := clockUp_steady _ (Nat.le_max_left _ _)

/-! ## The transmit queue -/

theorem bump_le (n : Nat) (h : n ≤ maxCount) : n ≤ bump n ∧ bump n ≤ maxCount := by
  unfold bump; omega

theorem lineHand_counts (f : TxFrame) (l : Line) (h : l.lost ≤ maxCount) :
    l.lost ≤ (l.hand f).lost ∧ (l.hand f).lost ≤ maxCount := by
  unfold Line.hand
  split
  · exact bump_le _ h
  · exact ⟨Nat.le_refl _, h⟩

theorem steady_of_line {s : State} (l : Line) (e : l.errors = s.line.errors)
    (h : s.line.lost ≤ maxCount → s.line.lost ≤ l.lost ∧ l.lost ≤ maxCount) : Steady s { s with line := l } where
  counts := by
    intro w
    obtain ⟨a, b⟩ := h w.2
    exact ⟨⟨e ▸ w.1, b⟩, Nat.le_of_eq e.symm, a⟩
  claims := id
  bolts := id
  power := id
  share := id

theorem hand_steady (f : TxFrame) (s : State) : Steady s (s.hand f) :=
  steady_of_line _ (hand_errors _ _) (lineHand_counts f _)

theorem notice_steady (k : NoticeKind) (i : Option SlotNo) (d : Nat) (s : State) : Steady s (s.notice k i d) :=
  Steady.ite (hand_steady _ _) (Steady.refl _)

theorem lineHandNeed_counts (f : TxFrame) (l : Line) (h : l.lost ≤ maxCount) :
    l.lost ≤ (l.handNeed f).lost ∧ (l.handNeed f).lost ≤ maxCount := by
  unfold Line.handNeed
  split
  · exact ⟨Nat.le_refl _, h⟩
  · exact lineHand_counts f l h

end Sys2Proof.Machine
end

