-- ==== Sys2Proof/Laws/SteadyPower.lean ====
section
/-! SUPPORT. The conditions through the Charge Controller's moves and the Share Unit's computation. -/

namespace Sys2Proof.Machine

/-! ## Counts and power alone -/

/-- The counts part of Steady. -/
def CountsUp (s t : State) : Prop :=
  s.CountsWithin → t.CountsWithin ∧ s.line.errors ≤ t.line.errors ∧ s.line.lost ≤ t.line.lost

theorem CountsUp.trans {s t u : State} (h : CountsUp s t) (k : CountsUp t u) : CountsUp s u := by
  intro w
  obtain ⟨a, b, c⟩ := h w
  obtain ⟨a', b', c'⟩ := k a
  exact ⟨a', Nat.le_trans b b', Nat.le_trans c c'⟩

theorem CountsUp.refl (s : State) : CountsUp s s := (Steady.refl s).counts

theorem CountsUp.ite {s t u : State} {c : Prop} [Decidable c] (h : CountsUp s t) (k : CountsUp s u) :
    CountsUp s (if c then t else u) := by split <;> assumption

theorem Steady.of_power {s t : State} (h : Keeps powerParts s t) (c : CountsUp s t) (p : s.PowerRight → t.PowerRight)
    (r : s.ShareRight → t.ShareRight) : Steady s t where
  counts := c
  claims := claims_of_eq (h .clock (by decide)) (h .cfg (by decide)) (h .claimList (by decide))
  bolts := bolts_of_eq (h .clock (by decide)) (h .latch (by decide)) (h .requests (by decide)).2.1
  power := p
  share := r

/-! ## Charge records -/

theorem served_of_follows {cable : CableClass} {c d : ChargeSlot} (h : c.Follows d) (s : c.Served cable) : d.Served cable := by
  have k := h.phase
  unfold ChargeSlot.Served at *
  cases hc : c.phase <;> simp only [hc, Phase.Follows] at k s
  case off => simp [k]
  case detect => obtain ⟨t, e⟩ := k; simpa [e] using s
  case charging => rcases k with e | e <;> simpa [e] using s
  case deferred => rcases k with e | e <;> simpa [e] using s
  case restart => simpa [k] using s
  case faulted => simpa [k] using s

theorem convert_congr (cfg : Record) (cable : CableClass) {c d : ChargeSlot} (p : Nat) (h : d.path = c.path)
    (k : d.working = c.working) : convert cfg cable d p = convert cfg cable c p := by
  unfold convert; rw [h, k]

theorem enter_right (cfg : Record) (m : MonitorSlot) (p : Nat) (dest : ChargePhase) (c : ChargeSlot) :
    (c.enter cfg m p dest).Right cfg m.cable p := by
  unfold ChargeSlot.enter
  split
  · next h => exact ⟨rfl, rfl, h⟩
  · next h => exact ⟨rfl, rfl, Nat.lt_of_not_le h⟩

theorem enter_phase' (cfg : Record) (m : MonitorSlot) (p : Nat) (dest : ChargePhase) (c : ChargeSlot) :
    (c.enter cfg m p dest).phase = .charging dest ∨ (c.enter cfg m p dest).phase = .deferred dest := by
  unfold ChargeSlot.enter
  split
  · exact .inl rfl
  · exact .inr rfl

theorem enterDetect_right (cfg : Record) (cable : CableClass) (ms p : Nat) (c : ChargeSlot) :
    (c.enterDetect ms p).Right cfg cable p := by
  unfold ChargeSlot.enterDetect
  dsimp only
  split
  · next h => exact ⟨rfl, .inl ⟨h, rfl, rfl, rfl⟩⟩
  · next h => exact ⟨rfl, .inr ⟨Nat.lt_of_not_le h, rfl, rfl, rfl⟩⟩

theorem onAllocation_right (cfg : Record) (ms : Nat) (m : MonitorSlot) (p q : Nat) (c : ChargeSlot)
    (h : c.Right cfg m.cable q) : (c.onAllocation cfg ms m p).Right cfg m.cable p := by
  unfold ChargeSlot.onAllocation
  split
  case h_1 e => simpa [ChargeSlot.Right, e] using h
  case h_2 t e =>
    simp only [ChargeSlot.Right, e] at h
    split
    · next hp =>
      split
      · next on =>
        rcases h.2 with ⟨_, b, c', d⟩ | ⟨_, b, _⟩
        · simp only [ChargeSlot.Right, e]; exact ⟨h.1, .inl ⟨hp, b, c', d⟩⟩
        · simp [on] at b
      · exact ⟨h.1, .inl ⟨hp, rfl, rfl, rfl⟩⟩
    · next hp =>
      split
      · exact ⟨h.1, .inr ⟨Nat.lt_of_not_le hp, rfl, rfl, rfl⟩⟩
      · next off =>
        rcases h.2 with ⟨_, b, _⟩ | ⟨_, b, c', d⟩
        · simp [b] at off
        · simp only [ChargeSlot.Right, e]; exact ⟨h.1, .inr ⟨Nat.lt_of_not_le hp, b, c', d⟩⟩
  case h_3 ph e =>
    simp only [ChargeSlot.Right, e] at h
    split
    · next k =>
      simp only [ChargeSlot.Right, e]
      exact ⟨h.1, rfl, k⟩
    · next k => exact ⟨rfl, rfl, Nat.lt_of_not_le k⟩
  case h_4 ph e =>
    simp only [ChargeSlot.Right, e] at h
    split
    · exact enter_right _ _ _ _ _
    · next k => simp only [ChargeSlot.Right, e]; exact ⟨h.1, h.2.1, Nat.lt_of_not_le k⟩
  case h_5 e => simpa [ChargeSlot.Right, e] using h
  case h_6 e => simpa [ChargeSlot.Right, e] using h

theorem enterRestart_right (cfg : Record) (cable : CableClass) (p ms : Nat) (m : MonitorSlot) (x : Path) (v : Volts)
    (b : ChargePhase) (d : Demand) (c : ChargeSlot) : (c.enterRestart cfg ms m x v b d).Right cfg cable p := ⟨rfl, rfl⟩

theorem enterFaulted_right (cfg : Record) (cable : CableClass) (p ms : Nat) (m : MonitorSlot) (k : FaultKind)
    (c : ChargeSlot) : (c.enterFaulted ms m k).Right cfg cable p := ⟨rfl, rfl⟩

theorem onLane_right (cfg : Record) (ms : Nat) (m : MonitorSlot) (x : Path) (v : Volts) (p : Nat) (c : ChargeSlot)
    (h : c.Right cfg m.cable p) : (c.onLane cfg ms m x v).Right cfg m.cable p := by
  unfold ChargeSlot.onLane
  split
  case h_1 e => simp only [ChargeSlot.Right, e] at h ⊢; exact h
  case h_6 e => simp only [ChargeSlot.Right, e] at h ⊢; exact h
  all_goals exact enterRestart_right _ _ _ _ _ _ _ _ _ _

theorem onLane_served (cfg : Record) (ms : Nat) (m : MonitorSlot) (x : Path) (v : Volts) (c : ChargeSlot)
    (h : c.Served m.cable) : (c.onLane cfg ms m x v).Served m.cable := by
  unfold ChargeSlot.onLane
  split
  case h_1 e => simp [ChargeSlot.Served, e]
  case h_6 k r e => cases r <;> simp_all [ChargeSlot.Served]
  all_goals next e => simp only [ChargeSlot.Served, e] at h; exact h

/-! ## One record changes -/

theorem updateCharge_share (i : SlotNo) (f : ChargeSlot → ChargeSlot) (s : State) :
    (s.updateCharge i f).share = s.share := by
  unfold State.updateCharge
  dsimp only
  split
  · unfold State.notice; split <;> rfl
  · rfl

theorem updateCharge_counts (i : SlotNo) (f : ChargeSlot → ChargeSlot) (s : State) : CountsUp s (s.updateCharge i f) := by
  unfold State.updateCharge
  have h : CountsUp s (s.setCharge i (f (s.charge.get i))) := counts_of_eq rfl rfl
  exact CountsUp.ite (h.trans (notice_steady _ _ _ _).counts) h

/-- Every other slot's power stage is set right, and slot i's record is about to change. -/
def State.PowerRightBut (i : SlotNo) (s : State) : Prop :=
  ∀ k, k ≠ i → (s.charge.get k).Right s.cfg (s.monitor.get k).cable (s.share.slotAlloc.get k) ∧
    (s.charge.get k).Served (s.monitor.get k).cable

theorem State.PowerRight.but {s : State} (h : s.PowerRight) (i : SlotNo) : s.PowerRightBut i := fun k _ => h k

theorem updateCharge_power (i : SlotNo) (f : ChargeSlot → ChargeSlot) (s : State) (h : s.PowerRightBut i)
    (r : (f (s.charge.get i)).Right s.cfg (s.monitor.get i).cable (s.share.slotAlloc.get i))
    (v : (f (s.charge.get i)).Served (s.monitor.get i).cable) : (s.updateCharge i f).PowerRight := by
  intro k
  have hk := updateCharge_keeps i f s
  rw [updateCharge_charge, updateCharge_share, (hk .cfg (by decide) : (s.updateCharge i f).cfg = s.cfg),
    (hk .monitor (by decide) : (s.updateCharge i f).monitor = s.monitor), get_setAt]
  split
  · next e => subst e; exact ⟨r, v⟩
  · next e => exact h k e

theorem updateCharge_demand (i : SlotNo) (f : ChargeSlot → ChargeSlot) (s : State)
    (d : (f (s.charge.get i)).demand = (s.charge.get i).demand) (k : SlotNo) :
    ((s.updateCharge i f).charge.get k).demand = (s.charge.get k).demand := by
  rw [updateCharge_charge, get_setAt]
  split
  · next e => subst e; exact d
  · rfl

theorem sums_of_demand {s t : State} (h : ∀ k, (t.charge.get k).demand = (s.charge.get k).demand) : t.sums = s.sums := by
  unfold State.sums sumSix
  simp only [h]

theorem updateCharge_steady (i : SlotNo) (f : ChargeSlot → ChargeSlot) (s : State)
    (r : s.PowerRight → (f (s.charge.get i)).Right s.cfg (s.monitor.get i).cable (s.share.slotAlloc.get i))
    (v : s.PowerRight → (f (s.charge.get i)).Served (s.monitor.get i).cable)
    (d : (f (s.charge.get i)).demand = (s.charge.get i).demand) : Steady s (s.updateCharge i f) := by
  refine Steady.of_power (updateCharge_keeps _ _ _) (updateCharge_counts _ _ _)
    (fun h => updateCharge_power _ _ _ (h.but i) (r h) (v h)) ?_
  intro h
  unfold State.ShareRight at *
  have hk := updateCharge_keeps i f s
  have q := updateCharge_share i f s
  rw [sums_of_demand (updateCharge_demand i f s d),
    cappedTarget_of_eq (s := s) (by rw [q]) (by rw [q]) (by rw [q]) (by rw [q]) (by rw [q]) (hk .cfg (by decide)), q]
  exact h

/-! ## Distribution -/

theorem setAt_get {α : Type} {n : Nat} (v : Vector α n) (i : Fin n) : setAt v i (v.get i) = v := by
  unfold setAt
  ext j hj
  by_cases h : i.val = j
  · subst h; simp [Vector.get]
  · simp [h]

theorem handAllocation_share (k : SlotNo) (p : Nat) (s : State) :
    (handAllocation k p s).share = { s.share with slotAlloc := setAt s.share.slotAlloc k p } := by
  unfold handAllocation
  split
  · next h => rw [← h, setAt_get]
  · rw [updateCharge_share]

theorem onAllocation_demand (cfg : Record) (ms : Nat) (m : MonitorSlot) (p : Nat) (c : ChargeSlot) :
    (c.onAllocation cfg ms m p).demand = c.demand := by
  unfold ChargeSlot.onAllocation ChargeSlot.enter
  split <;> (try split) <;> (try split) <;> rfl

theorem handAllocation_demand (k : SlotNo) (p : Nat) (s : State) (j : SlotNo) :
    ((handAllocation k p s).charge.get j).demand = (s.charge.get j).demand := by
  unfold handAllocation
  split
  · rfl
  · exact updateCharge_demand _ _ _ (onAllocation_demand _ _ _ _ _) j

theorem handAllocation_counts (k : SlotNo) (p : Nat) (s : State) : CountsUp s (handAllocation k p s) := by
  unfold handAllocation
  refine CountsUp.ite (CountsUp.refl _) (CountsUp.trans ?_ (updateCharge_counts _ _ _))
  exact counts_of_eq rfl rfl

theorem handAllocation_power (k : SlotNo) (p : Nat) (s : State) (h : s.PowerRight) : (handAllocation k p s).PowerRight := by
  unfold handAllocation
  split
  · exact h
  · refine updateCharge_power _ _ _ ?_ ?_ ?_
    · intro j n
      show ChargeSlot.Right _ _ ((setAt s.share.slotAlloc k p).get j) _ ∧ _
      rw [get_setAt_ne _ _ _ _ n]
      exact h j
    · show ChargeSlot.Right _ _ ((setAt s.share.slotAlloc k p).get k) _
      rw [get_setAt_same]
      exact onAllocation_right _ _ _ _ _ _ (h k).1
    · exact served_of_follows (onAllocation_follows _ _ _ _ _) (h k).2

theorem distribute_share (s : State) : s.distribute.share =
    { s.share with slotAlloc := sixOf (slotShare s.share.alloc (fun k => (s.charge.get k).demand)) } := by
  have e : ∀ (v : Vector Nat 6) (f : SlotNo → Nat),
      setAt (setAt (setAt (setAt (setAt (setAt v 0 (f 0)) 1 (f 1)) 2 (f 2)) 3 (f 3)) 4 (f 4)) 5 (f 5) = sixOf f := by
    intro v f
    ext j hj
    have k : ∀ k : SlotNo, (setAt (setAt (setAt (setAt (setAt (setAt v 0 (f 0)) 1 (f 1)) 2 (f 2)) 3 (f 3)) 4 (f 4)) 5
        (f 5)).get k = (sixOf f).get k := by
      intro k
      rw [sixOf_get]
      simp only [get_setAt]
      match k with
      | ⟨0, _⟩ => rfl
      | ⟨1, _⟩ => rfl
      | ⟨2, _⟩ => rfl
      | ⟨3, _⟩ => rfl
      | ⟨4, _⟩ => rfl
      | ⟨5, _⟩ => rfl
    exact k ⟨j, hj⟩
  rw [← e s.share.slotAlloc]
  simp only [State.distribute, forSlots, allSlots, List.foldl, handAllocation_share]

theorem distribute_demand (s : State) (j : SlotNo) : (s.distribute.charge.get j).demand = (s.charge.get j).demand := by
  simp only [State.distribute, forSlots, allSlots, List.foldl, handAllocation_demand]

theorem distribute_counts (s : State) : CountsUp s s.distribute := by
  simp only [State.distribute, forSlots, allSlots, List.foldl]
  exact (((((handAllocation_counts _ _ _).trans (handAllocation_counts _ _ _)).trans (handAllocation_counts _ _ _)).trans
    (handAllocation_counts _ _ _)).trans (handAllocation_counts _ _ _)).trans (handAllocation_counts _ _ _)

theorem distribute_power (s : State) (h : s.PowerRight) : s.distribute.PowerRight := by
  simp only [State.distribute, forSlots, allSlots, List.foldl]
  exact handAllocation_power _ _ _ (handAllocation_power _ _ _ (handAllocation_power _ _ _ (handAllocation_power _ _ _
    (handAllocation_power _ _ _ (handAllocation_power _ _ _ h)))))

/-! ## The slot shares stay within the station allocation -/

theorem sumSix_div_le (f : SlotNo → Nat) (b c : Nat) : sumSix (fun k => f k * b / c) ≤ sumSix f * b / c := by
  unfold sumSix
  have h := fun x y => @Nat.div_add_div_le_add_div x y c
  have h1 := h (f 0 * b) (f 1 * b)
  have h2 := h (f 0 * b + f 1 * b) (f 2 * b)
  have h3 := h (f 0 * b + f 1 * b + f 2 * b) (f 3 * b)
  have h4 := h (f 0 * b + f 1 * b + f 2 * b + f 3 * b) (f 4 * b)
  have h5 := h (f 0 * b + f 1 * b + f 2 * b + f 3 * b + f 4 * b) (f 5 * b)
  rw [Nat.add_mul, Nat.add_mul, Nat.add_mul, Nat.add_mul, Nat.add_mul]
  dsimp only
  omega

theorem sumSix_tierGrant (f : SlotNo → Nat) (left : Nat) :
    sumSix (fun k => tierGrant (f k) (sumSix f) left) ≤ min (sumSix f) left := by
  unfold tierGrant
  by_cases h : sumSix f ≤ left
  · simp only [if_pos h]
    show sumSix f ≤ _
    omega
  · simp only [if_neg h]
    have k := sumSix_div_le f left (sumSix f)
    have p : 0 < sumSix f := by omega
    rw [Nat.mul_div_cancel_left _ p] at k
    omega

theorem sumSix_add (f g : SlotNo → Nat) : sumSix (fun k => f k + g k) = sumSix f + sumSix g := by
  unfold sumSix; dsimp only; omega

theorem slotShare_within (a : Nat) (d : SlotNo → Demand) : sumSix (slotShare a d) ≤ a := by
  by_cases h : a ≤ sumSix (fun i => (d i).floor)
  · have e : slotShare a d = fun k => (d k).floor * a / sumSix (fun i => (d i).floor) := by
      funext k; unfold slotShare; simp only [if_pos h]
    rw [e]
    have k := sumSix_div_le (fun i => (d i).floor) a (sumSix (fun i => (d i).floor))
    rcases Nat.eq_zero_or_pos (sumSix (fun i => (d i).floor)) with z | p
    · simp only [z, Nat.div_zero]
      unfold sumSix; dsimp only; omega
    · rw [Nat.mul_div_cancel_left _ p] at k; exact k
  · have e : slotShare a d = fun k => (d k).floor
        + tierGrant (d k).urgent (sumSix fun i => (d i).urgent) (a - sumSix fun i => (d i).floor)
        + tierGrant (d k).normal (sumSix fun i => (d i).normal)
            (a - (sumSix fun i => (d i).floor) - sumSix fun i => (d i).urgent) := by
      funext k; unfold slotShare; simp only [if_neg h]
    rw [e, sumSix_add, sumSix_add]
    have u := sumSix_tierGrant (fun k => (d k).urgent) (a - sumSix fun i => (d i).floor)
    have n := sumSix_tierGrant (fun k => (d k).normal)
      (a - (sumSix fun i => (d i).floor) - sumSix fun i => (d i).urgent)
    omega

/-! ## A computation -/

theorem judgeFloorShort_share (s : State) :
    ∃ b, s.judgeFloorShort.share = { s.share with floorShort := b } := by
  unfold State.judgeFloorShort
  split
  · split
    · exact ⟨s.share.floorShort, rfl⟩
    · exact ⟨true, by unfold State.notice; split <;> rfl⟩
  · exact ⟨false, rfl⟩

theorem judgeFloorShort_steady (s : State) : Steady s s.judgeFloorShort := by
  unfold State.judgeFloorShort
  have h : ∀ b, Steady s { s with share := { s.share with floorShort := b } } := fun b =>
    ⟨counts_of_eq rfl rfl, id, id, id, id⟩
  exact Steady.ite (Steady.ite (Steady.refl _) ((h _).trans (notice_steady _ _ _ _))) (h _)

theorem rampTo_le (r : Bool) (k t a : Nat) : rampTo r k t a ≤ t := by
  unfold rampTo; split
  · exact Nat.le_refl _
  · split <;> omega

/-- After a computation on true sums the Share Unit's results are right. -/
theorem computeOnce_right (r : Bool) (s : State) (h : s.share.own = s.sums) : (s.computeOnce r).ShareRight := by
  obtain ⟨b, hb⟩ := judgeFloorShort_share s
  have hk := judgeFloorShort_keeps s
  unfold State.computeOnce
  dsimp only
  generalize hu : ({ s.judgeFloorShort with share := { s.judgeFloorShort.share with
    target := s.judgeFloorShort.cappedTarget
    alloc := rampTo r s.judgeFloorShort.cfg.rampStep s.judgeFloorShort.cappedTarget s.judgeFloorShort.share.alloc } } :
      State) = u
  have c : s.judgeFloorShort.cappedTarget = s.cappedTarget :=
    cappedTarget_of_eq (by rw [hb]) (by rw [hb]) (by rw [hb]) (by rw [hb]) (by rw [hb]) (hk .cfg (by decide))
  have uc : u.cappedTarget = s.cappedTarget := by
    subst hu
    exact cappedTarget_of_eq (by simp only [hb]) (by simp only [hb]) (by simp only [hb]) (by simp only [hb])
      (by simp only [hb]) (hk .cfg (by decide))
  have ut : u.share.target = s.cappedTarget := by subst hu; exact c
  have ua : u.share.alloc ≤ u.share.target := by subst hu; exact rampTo_le _ _ _ _
  have uo : u.share.own = u.sums := by
    subst hu
    show s.judgeFloorShort.share.own = State.sums _
    rw [hb]
    show s.share.own = _
    rw [h]
    exact (sums_of_eq (judgeFloorShort_charge s)).symm
  have dk := distribute_keeps u
  have ds := distribute_share u
  refine ⟨?_, ?_, ?_, ?_⟩
  · rw [ds, sums_of_demand (distribute_demand u)]; exact uo
  · rw [cappedTarget_of_eq (s := u) (by rw [ds]) (by rw [ds]) (by rw [ds]) (by rw [ds]) (by rw [ds]) (dk .cfg (by decide)), ds,
      uc]
    exact ut
  · rw [ds]; exact ua
  · rw [ds]
    show sumSix (fun k => (sixOf _).get k) ≤ _
    simp only [sixOf_get]
    exact slotShare_within _ _

theorem computeOnce_counts (r : Bool) (s : State) : CountsUp s (s.computeOnce r) := by
  unfold State.computeOnce
  refine CountsUp.trans (judgeFloorShort_steady s).counts (CountsUp.trans ?_ (distribute_counts _))
  exact counts_of_eq rfl rfl

theorem computeOnce_power (r : Bool) (s : State) (h : s.PowerRight) : (s.computeOnce r).PowerRight := by
  unfold State.computeOnce
  exact distribute_power _ (power_of_eq rfl rfl rfl rfl ((judgeFloorShort_steady s).power h))

/-! ## Settling -/

theorem handNeed_counts (s : State) : CountsUp s s.handNeed := by
  intro w
  obtain ⟨a, b⟩ := lineHandNeed_counts (.need s.share.state s.share.own) s.line w.2
  exact ⟨⟨by show (Line.handNeed _ _).errors ≤ _; rw [lineHandNeed_errors]; exact w.1, b⟩,
    by show _ ≤ (Line.handNeed _ _).errors; rw [lineHandNeed_errors], a⟩

theorem judgeEarlyNeed_counts (s : State) : CountsUp s s.judgeEarlyNeed := by
  unfold State.judgeEarlyNeed
  exact CountsUp.ite (CountsUp.ite (handNeed_counts s) (counts_of_eq rfl rfl)) (CountsUp.refl _)

theorem judgeEarlyNeed_share (s : State) : ∃ a b c, s.judgeEarlyNeed.share =
    { s.share with lastSum := a, lastNeed := b, earlyDue := c } := by
  unfold State.judgeEarlyNeed
  split
  · split
    · exact ⟨_, _, _, rfl⟩
    · exact ⟨s.share.lastSum, s.share.lastNeed, true, rfl⟩
  · exact ⟨s.share.lastSum, s.share.lastNeed, s.share.earlyDue, rfl⟩

theorem takeDemands_power (s : State) (h : s.PowerRight) : s.takeDemands.PowerRight := by
  intro k
  show ChargeSlot.Right _ _ _ ((sixOf _).get k) ∧ ChargeSlot.Served _ ((sixOf _).get k)
  rw [sixOf_get]
  exact h k

theorem demandRound_steady (s : State) : Steady s s.demandRound := by
  have tc : CountsUp s s.takeDemands := counts_of_eq rfl rfl
  unfold State.demandRound
  dsimp only
  split
  · next e =>
    refine Steady.of_power ((takeDemands_keeps s).trans (distribute_keeps _)) (tc.trans (distribute_counts _))
      (fun h => distribute_power _ (takeDemands_power s h)) ?_
    intro h
    have ds := distribute_share s.takeDemands
    refine ⟨?_, ?_, ?_, ?_⟩
    · rw [ds, sums_of_demand (distribute_demand _)]; exact e.symm
    · rw [cappedTarget_of_eq (s := s) (by rw [ds]; rfl) (by rw [ds]; rfl) (by rw [ds]; rfl) (by rw [ds]; rfl)
        (by rw [ds]; rfl) (((takeDemands_keeps s).trans (distribute_keeps _)) .cfg (by decide)), ds]
      exact h.2.1
    · rw [ds]; exact h.2.2.1
    · rw [ds]
      show sumSix (fun k => (sixOf _).get k) ≤ _
      simp only [sixOf_get]
      exact slotShare_within _ _
  · generalize hu : ({ s.takeDemands with share := { s.takeDemands.share with own := s.takeDemands.sums } } : State) = u
    have uk : Keeps powerParts s u := by subst hu; intro p hp; cases p <;> simp_all [same, powerParts, State.takeDemands]
    have ek := judgeEarlyNeed_keeps u
    refine Steady.of_power ((uk.trans ek).trans (computeOnce_keeps _ _)) ?_ ?_ ?_
    · refine CountsUp.trans ?_ ((judgeEarlyNeed_counts u).trans (computeOnce_counts _ _))
      subst hu; exact counts_of_eq rfl rfl
    · intro h
      obtain ⟨a, b, c, e⟩ := judgeEarlyNeed_share u
      refine computeOnce_power _ _ (power_of_eq (s := u) (ek .cfg (by decide)) (judgeEarlyNeed_charge u) (by rw [e])
        (ek .monitor (by decide)) ?_)
      subst hu; exact takeDemands_power s h
    · intro _
      refine computeOnce_right _ _ ?_
      obtain ⟨a, b, c, e⟩ := judgeEarlyNeed_share u
      rw [e, sums_of_eq (judgeEarlyNeed_charge u)]
      subst hu; rfl

theorem settle_steady : ∀ (n : Nat) (s : State), Steady s (settle n s)
  | 0, s => Steady.refl s
  | n + 1, s => by
    unfold settle
    exact Steady.ite ((demandRound_steady s).trans (settle_steady n _)) (Steady.refl _)

theorem settled_steady (s : State) : Steady s s.settled := settle_steady _ s

/-- A computation on a state u that differs from s in what the Share Unit reads: only the sums must be true. -/
theorem compute_steady (r : Bool) {s u : State} (h : CountsUp s u) (c : s.ClaimsWithin → u.ClaimsWithin)
    (b : s.BoltsClaimed → u.BoltsClaimed) (p : s.PowerRight → u.PowerRight)
    (o : s.share.own = s.sums → u.share.own = u.sums) : Steady s (u.compute r) := by
  have k := computeOnce_keeps r u
  refine Steady.trans (t := u.computeOnce r) ⟨h.trans (computeOnce_counts _ _), fun w => ?_, fun w => ?_,
    fun w => computeOnce_power _ _ (p w), fun w => computeOnce_right _ _ (o w.1)⟩ (settled_steady _)
  · exact claims_of_eq (k .clock (by decide)) (k .cfg (by decide)) (k .claimList (by decide)) (c w)
  · exact bolts_of_eq (k .clock (by decide)) (k .latch (by decide)) (k .requests (by decide)).2.1 (b w)

theorem chargeEvent_steady (i : SlotNo) (f : ChargeSlot → ChargeSlot) (s : State)
    (r : s.PowerRight → (f (s.charge.get i)).Right s.cfg (s.monitor.get i).cable (s.share.slotAlloc.get i))
    (v : s.PowerRight → (f (s.charge.get i)).Served (s.monitor.get i).cable)
    (d : (f (s.charge.get i)).demand = (s.charge.get i).demand) : Steady s (s.chargeEvent i f) :=
  (updateCharge_steady i f s r v d).trans (settled_steady _)

end Sys2Proof.Machine
end

