-- ==== Sys2Proof/Laws/Computed.lean ====
section
/-! SUPPORT. What a computation of the Share Unit leaves, said once: the Share Unit's record after it, and its results after the
settling of the demands that follows. -/

namespace Sys2Proof.Machine

theorem judgeFloorShort_share_eq (s : State) :
    s.judgeFloorShort.share = { s.share with floorShort := decide (s.available ≤ s.totals.floor) } := by
  have e : s.isFloorShort = decide (s.available ≤ s.totals.floor) := rfl
  unfold State.judgeFloorShort
  rw [e]
  by_cases h : s.available ≤ s.totals.floor
  · by_cases f : s.share.floorShort = true
    · simp only [h, f, decide_true, if_true]
      rw [← f]
    · simp only [h, decide_true, if_true, if_neg f]
      unfold State.notice; split <;> rfl
  · simp only [h, decide_false]; rfl

theorem available_of_eq {s t : State} (e : t.share.ceilings = s.share.ceilings) (r : t.share.reserve = s.share.reserve)
    (g : t.cfg = s.cfg) : t.available = s.available := by unfold State.available State.ceff; rw [e, g, r]

/-- The Share Unit's record after one computation (R58 to R64). -/
theorem computeOnce_share (r : Bool) (s : State) : (s.computeOnce r).share =
    { s.share with
      floorShort := decide (s.available ≤ s.totals.floor)
      target := s.cappedTarget
      alloc := rampTo r s.cfg.rampStep s.cappedTarget s.share.alloc
      slotAlloc := sixOf (slotShare (rampTo r s.cfg.rampStep s.cappedTarget s.share.alloc)
        (fun k => (s.charge.get k).demand)) } := by
  have hb := judgeFloorShort_share_eq s
  have hg : s.judgeFloorShort.cfg = s.cfg := judgeFloorShort_keeps s .cfg (by decide)
  have c : s.judgeFloorShort.cappedTarget = s.cappedTarget :=
    cappedTarget_of_eq (by rw [hb]) (by rw [hb]) (by rw [hb]) (by rw [hb]) (by rw [hb]) hg
  unfold State.computeOnce
  dsimp only
  rw [distribute_share]
  dsimp only
  rw [c, hg, hb, judgeFloorShort_charge]

theorem computeOnce_demand (r : Bool) (s : State) (k : SlotNo) :
    ((s.computeOnce r).charge.get k).demand = (s.charge.get k).demand := by
  unfold State.computeOnce
  rw [distribute_demand]
  dsimp only
  rw [judgeFloorShort_charge]

theorem computeOnce_sums (r : Bool) (s : State) : (s.computeOnce r).sums = s.sums := sums_of_demand (computeOnce_demand r s)

/-- One computation, and the settling that follows: what it may raise, and what stands after it. -/
theorem computeOnce_computed (r : Bool) (s : State) :
    SharesComputed (if r then s.cfg.rampStep else 0) s (s.computeOnce r) := by
  have h := computeOnce_share r s
  have k := computeOnce_keeps r s
  have g := k .cfg (by decide)
  refine ⟨?_, ?_, ?_, ?_, ?_, ?_, computeOnce_follows r s⟩
  · rw [totals_of_eq (s := s) (by rw [h]) (by rw [h]) (by rw [h]) g, available_of_eq (s := s) (by rw [h]) (by rw [h]) g, h]
  · rw [cappedTarget_of_eq (s := s) (by rw [h]) (by rw [h]) (by rw [h]) (by rw [h]) (by rw [h]) g, h]
  · rw [h]; exact rampTo_le _ _ _ _
  · rw [h]
    show rampTo _ _ _ _ ≤ _
    unfold rampTo; split <;> (try split) <;> simp_all <;> omega
  · rw [h]
    show sumSix (fun k => (sixOf _).get k) ≤ _
    simp only [sixOf_get]
    exact slotShare_within _ _
  · intro o; rw [computeOnce_sums, h]; exact o

/-- A round of changed demands raises nothing and leaves what stood after the computation before it. -/
theorem SharesComputed.round {n : Nat} {s t : State} (h : SharesComputed n s t) : SharesComputed n s t.demandRound := by
  have f := AllFollow.trans h.follow (demandRound_follows t)
  unfold State.demandRound at f ⊢
  dsimp only at f ⊢
  split
  · next e =>
    have d := distribute_share t.takeDemands
    have g : t.takeDemands.distribute.cfg = t.cfg := ((takeDemands_keeps t).trans (distribute_keeps _)) .cfg (by decide)
    rw [if_pos e] at f
    refine ⟨?_, ?_, ?_, ?_, ?_, ?_, f⟩
    · rw [totals_of_eq (s := t) (by rw [d]; rfl) (by rw [d]; rfl) (by rw [d]; rfl) g,
        available_of_eq (s := t) (by rw [d]; rfl) (by rw [d]; rfl) g, d]
      exact h.floorShort
    · rw [cappedTarget_of_eq (s := t) (by rw [d]; rfl) (by rw [d]; rfl) (by rw [d]; rfl) (by rw [d]; rfl) (by rw [d]; rfl) g, d]
      exact h.target
    · rw [d]; exact h.within
    · rw [d]; exact h.ramp
    · rw [d]
      show sumSix (fun k => (sixOf _).get k) ≤ _
      simp only [sixOf_get]
      exact slotShare_within _ _
    · intro _; rw [d, sums_of_demand (distribute_demand _)]; exact e.symm
  · next e =>
    rw [if_neg e] at f
    generalize hu : ({ t.takeDemands with share := { t.takeDemands.share with own := t.takeDemands.sums } } : State) = u at f ⊢
    obtain ⟨a, b, c, j⟩ := judgeEarlyNeed_share u
    have x := computeOnce_computed false u.judgeEarlyNeed
    refine ⟨x.floorShort, x.target, x.within, ?_, x.slots, fun _ => x.own ?_, f⟩
    · have y := x.ramp
      have z := h.ramp
      have w : u.judgeEarlyNeed.share.alloc = t.share.alloc := by rw [j]; subst hu; rfl
      simp only [Bool.false_eq_true, if_false] at y
      omega
    · rw [j, sums_of_eq (judgeEarlyNeed_charge u)]; subst hu; rfl

theorem SharesComputed.settle {n : Nat} {s : State} : ∀ (k : Nat) {t : State}, SharesComputed n s t → SharesComputed n s (settle k t)
  | 0, _, h => h
  | k + 1, t, h => by
    unfold Machine.settle
    split
    · exact SharesComputed.settle k h.round
    · exact h

/-- The Share Unit's results of a computation with the settling that follows it. -/
theorem compute_sharesComputed (r : Bool) (s : State) : SharesComputed (if r then s.cfg.rampStep else 0) s (s.compute r) :=
  (computeOnce_computed r s).settle _

/-- What was done before a computation that touched neither the charge records nor the Share Unit's results joins it. -/
theorem SharesComputed.after {n : Nat} {ps : List Part} {s u t : State} (h : SharesComputed n u t) (k : Keeps ps s u) (c : .charge ∉ ps)
    (w : .share ∉ ps) : SharesComputed n s t := by
  have a := k .share w
  refine ⟨h.floorShort, h.target, h.within, ?_, h.slots, ?_, (AllFollow.of_keeps k c).trans h.follow⟩
  · rw [← a.2.2.2.2.2.1]; exact h.ramp
  · intro o; apply h.own; rw [a.1, o, sums_of_eq (k .charge c)]

/-- What comes after a computation and touches nothing it depends on leaves it standing. -/
theorem SharesComputed.before {n : Nat} {ps : List Part} {s u t : State} (h : SharesComputed n s u) (k : Keeps ps u t)
    (d : ∀ p ∈ [Part.cfg, .charge, .share, .standing, .peers, .ceilings, .reserve], p ∉ ps) : SharesComputed n s t := by
  have a := k .share (d _ (by simp))
  have g : t.cfg = u.cfg := k .cfg (d _ (by simp))
  have x := (k .standing (d _ (by simp))).1
  have p : t.share.peers = u.share.peers := k .peers (d _ (by simp))
  have e : t.share.ceilings = u.share.ceilings := k .ceilings (d _ (by simp))
  have r : t.share.reserve = u.share.reserve := k .reserve (d _ (by simp))
  have c : t.charge = u.charge := k .charge (d _ (by simp))
  refine ⟨?_, ?_, ?_, ?_, ?_, ?_, h.follow.trans (AllFollow.of_keeps k (d _ (by simp)))⟩
  · rw [totals_of_eq a.1 p e g, available_of_eq e r g, a.2.2.2.2.2.2.1]; exact h.floorShort
  · rw [cappedTarget_of_eq x a.1 p e r g, a.2.2.2.2.1]; exact h.target
  · rw [a.2.2.2.2.1, a.2.2.2.2.2.1]; exact h.within
  · rw [a.2.2.2.2.2.1]; exact h.ramp
  · rw [a.2.2.2.2.2.2.2, a.2.2.2.2.2.1]; exact h.slots
  · intro o; rw [a.1, sums_of_eq c]; exact h.own o

/-! ## One computation on the slots' records -/

theorem compute_computed (r : Bool) (s : State) : Computed (if r then s.cfg.rampStep else 0) s (s.compute r) where
  toSharesComputed := compute_sharesComputed r s
  made := by
    have k := compute_keeps r s .clock (by decide)
    generalize hx : s.compute r = x at k
    exact ⟨s, r, rfl, rfl, rfl, rfl, rfl, rfl, rfl, k.symm, by rw [hx], by rw [hx], by rw [hx], by rw [hx]⟩

/-- What was done before the computation joins it, where it touched nothing that the slots' records depend on. -/
theorem Computed.after {n : Nat} {ps : List Part} {s u t : State} (h : Computed n u t) (k : Keeps ps s u)
    (d : ∀ p ∈ [Part.charge, .share, .monitor, .runs, .cfg], p ∉ ps) : Computed n s t where
  toSharesComputed := h.toSharesComputed.after k (d _ (by simp)) (d _ (by simp))
  made := by
    obtain ⟨v, b, hc, ha, ho, hl, hm, hp, hg, rest⟩ := h.made
    have a := k .share (d _ (by simp))
    exact ⟨v, b, hc.trans (k .charge (d _ (by simp))), ha.trans a.2.2.2.2.2.2.2, ho.trans a.1, hl.trans a.2.2.2.2.2.1,
      hm.trans (k .monitor (d _ (by simp))), hp.trans (k .runs (d _ (by simp))).1, hg.trans (k .cfg (d _ (by simp))), rest⟩

/-- What comes after it leaves it standing. -/
theorem Computed.before {n : Nat} {ps : List Part} {s u t : State} (h : Computed n s u) (k : Keeps ps u t)
    (d : ∀ p ∈ [Part.cfg, .charge, .share, .standing, .peers, .ceilings, .reserve], p ∉ ps) (c : .clock ∉ ps) :
    Computed n s t where
  toSharesComputed := h.toSharesComputed.before k d
  made := by
    obtain ⟨v, b, hc, ha, ho, hl, hm, hp, hg, ht, hr⟩ := h.made
    have a := k .share (d _ (by simp))
    have e : t.charge = u.charge := k .charge (d _ (by simp))
    have f : t.clock = u.clock := k .clock c
    refine ⟨v, b, hc, ha, ho, hl, hm, hp, hg, ?_, ?_⟩
    · rw [f]; exact ht
    · rw [e, a.2.2.2.2.2.2.2, a.2.2.2.2.2.1, a.1]; exact hr

end Sys2Proof.Machine
end

