-- ==== Sys2Proof/WellFormed.lean ====
section
/-! DEFINITION. Well-formed commands: the operand stands in the range the data book gives it, and a frame's bytes are those
of the row that names it (R144, R146, R158). The machine answers every command, well-formed or not. -/

namespace Sys2Proof

/-- The payload is one a good frame can carry: at most 40 bytes (R144, R145). -/
def payloadFits (payload : List Byte) : Bool :=
  decide (payload.length ≤ 40)

/-- Byte k of the payload is present and has the value v. -/
def byteIs (payload : List Byte) (k v : Nat) : Bool :=
  payload[k]?.any (fun b => b.toNat == v)

/-- The class-2 and class-5 rows are told apart by the kind byte 0 of the payload (R158). -/
def kindFrame (payload : List Byte) (kind : Nat) : Bool :=
  payloadFits payload && byteIs payload 0 kind

/-- A PERMIT of a known kind has the six bytes of its layout and its kind code at byte 1 (R158). -/
def permitFrame (payload : List Byte) (kind : Nat) : Bool :=
  decide (payload.length = 6) && byteIs payload 1 kind

/-- A QUERY has the three bytes of its layout and its subject code at byte 1 (R158). -/
def queryFrame (payload : List Byte) (subject : Nat) : Bool :=
  decide (payload.length = 3) && byteIs payload 1 subject

/-- A command is well formed when its operands are what its row of the table can bring. -/
def Instr.wellFormed : Instr → Bool
  | .powerOn => true
  | .pinReset low => decide (10 ≤ low)
  | .resetRelease _ _ _ => true
  | .configReadTimeout _ => true
  | .endOfReset bytes => decide (bytes.length = 54)
  | .filteredPresentChange _ _ => true
  | .filteredBoltSenseChange _ _ => true
  | .insertion _ _ => true
  | .extraction _ => true
  | .measurementPublication _ volts amps => decide (volts ≤ 120000) && decide (amps ≤ 40000)
  | .overCurrentCheck _ => true
  | .integrationPeriodEnd _ sum => decide (sum ≤ 4000000)
  | .detectTimerExpiry _ => true
  | .taperDwell _ => true
  | .toppedDwell _ => true
  | .taperToBulkDwell _ => true
  | .toppedToBulkDwell _ => true
  | .restartHoldExpiry _ => true
  | .retryWaitExpiry _ => true
  | .dueUntilPasses _ => true
  | .reportTimerExpiry => true
  | .earlyNeedSpacing => true
  | .silenceTimerExpiry => true
  | .peerAging _ => true
  | .ceilingRecordExpiry _ => true
  | .need _ payload => kindFrame payload 0
  | .leave _ payload => kindFrame payload 1
  | .ceiling _ payload => payloadFits payload
  | .otherFrame _ _ payload => payloadFits payload
  | .claim _ payload => payloadFits payload
  | .claimExpiry => true
  | .withdrawPulseEnd _ => true
  | .throwPulseEnd _ => true
  | .claimWaitTimeout _ => true
  | .openTimerExpiry _ => true
  | .permitOpen _ payload => permitFrame payload 1
  | .permitReturn _ payload => permitFrame payload 2
  | .permitDue _ payload => permitFrame payload 3
  | .permitHold _ payload => permitFrame payload 4
  | .permitLift _ payload => permitFrame payload 5
  | .permitRestart _ payload => permitFrame payload 6
  | .permitUnknownKind _ payload =>
      payloadFits payload && (List.range 6).all (fun k => !permitFrame payload (k + 1))
  | .stationRestart => true
  | .plan _ payload => kindFrame payload 0
  | .go _ payload => kindFrame payload 1
  | .cancel _ payload => kindFrame payload 2
  | .build _ payload => kindFrame payload 4
  | .unpin _ payload => kindFrame payload 3
  | .enumerationTimeout _ => true
  | .awaitTimeout _ => true
  | .pauseExpiry _ => true
  | .reenumGraceExpiry _ => true
  | .enumeratedChange _ _ => true
  | .laneFault _ => true
  | .faultLineReleased _ => true
  | .faultClearExpiry _ => true
  | .wakeTimerExpiry => true
  | .idleTimerExpiry _ => true
  | .scrubTimerExpiry _ => true
  | .queryStation _ payload => queryFrame payload 0
  | .querySlot _ payload => queryFrame payload 1
  | .frameAbandoned => true
  | .crcError => true
  | .lineIdle => true
  | .transmitAttempt => true
  | .arbitrationLost => true
  | .bitError => true
  | .transmitComplete => true
  | .lampBlinkTick => true

end Sys2Proof
end

