-- ==== Sys2Proof/Laws/PerInstr.lean ====
section
/-! SUPPORT. A family of statements about commands as syntax: a well-formed frame command carries a payload that a frame on the
line can carry. -/

namespace Sys2Proof.Laws

/-- What a frame command of well-formed operands carries fits a frame: a class of 3 bits and at most 40 bytes (R144). -/
def FrameFits.Statement (i : Instr) : Prop :=
  i.wellFormed = true → ∀ cls src p, Machine.frameOf i = some (cls, src, p) → cls < 8 ∧ p.length ≤ 40

/-- A command that carries no frame. -/
theorem fits_of_none {i : Instr} (h : Machine.frameOf i = none) : FrameFits.Statement i := by
  intro _ cls src p k
  rw [h] at k
  cases k

/-- A command that carries one frame. -/
theorem fits_of_some {i : Instr} {c : Nat} {a : Source} {q : List Byte} (h : Machine.frameOf i = some (c, a, q)) (hc : c < 8)
    (hq : i.wellFormed = true → q.length ≤ 40) : FrameFits.Statement i := by
  intro w cls src p k
  rw [h] at k
  cases k
  exact ⟨hc, hq w⟩

theorem fits_of_kind {q : List Byte} {k : Nat} (h : kindFrame q k = true) : q.length ≤ 40 := by
  have := (Bool.and_eq_true _ _ ▸ h).1
  simpa [payloadFits] using this

theorem fits_of_permit {q : List Byte} {k : Nat} (h : permitFrame q k = true) : q.length ≤ 40 := by
  have := of_decide_eq_true (Bool.and_eq_true _ _ ▸ h).1
  omega

theorem fits_of_query {q : List Byte} {k : Nat} (h : queryFrame q k = true) : q.length ≤ 40 := by
  have := of_decide_eq_true (Bool.and_eq_true _ _ ▸ h).1
  omega

theorem fits_of_payload {q : List Byte} (h : payloadFits q = true) : q.length ≤ 40 := of_decide_eq_true h

theorem FrameFits.powerOn : FrameFits.Statement .powerOn := fits_of_none rfl
theorem FrameFits.pinReset a : FrameFits.Statement (.pinReset a) := fits_of_none rfl
theorem FrameFits.resetRelease a b c : FrameFits.Statement (.resetRelease a b c) := fits_of_none rfl
theorem FrameFits.configReadTimeout a : FrameFits.Statement (.configReadTimeout a) := fits_of_none rfl
theorem FrameFits.endOfReset a : FrameFits.Statement (.endOfReset a) := fits_of_none rfl
theorem FrameFits.filteredPresentChange a b : FrameFits.Statement (.filteredPresentChange a b) := fits_of_none rfl
theorem FrameFits.filteredBoltSenseChange a b : FrameFits.Statement (.filteredBoltSenseChange a b) := fits_of_none rfl
theorem FrameFits.insertion a b : FrameFits.Statement (.insertion a b) := fits_of_none rfl
theorem FrameFits.extraction a : FrameFits.Statement (.extraction a) := fits_of_none rfl
theorem FrameFits.measurementPublication a b c : FrameFits.Statement (.measurementPublication a b c) := fits_of_none rfl
theorem FrameFits.overCurrentCheck a : FrameFits.Statement (.overCurrentCheck a) := fits_of_none rfl
theorem FrameFits.integrationPeriodEnd a b : FrameFits.Statement (.integrationPeriodEnd a b) := fits_of_none rfl
theorem FrameFits.detectTimerExpiry a : FrameFits.Statement (.detectTimerExpiry a) := fits_of_none rfl
theorem FrameFits.taperDwell a : FrameFits.Statement (.taperDwell a) := fits_of_none rfl
theorem FrameFits.toppedDwell a : FrameFits.Statement (.toppedDwell a) := fits_of_none rfl
theorem FrameFits.taperToBulkDwell a : FrameFits.Statement (.taperToBulkDwell a) := fits_of_none rfl
theorem FrameFits.toppedToBulkDwell a : FrameFits.Statement (.toppedToBulkDwell a) := fits_of_none rfl
theorem FrameFits.restartHoldExpiry a : FrameFits.Statement (.restartHoldExpiry a) := fits_of_none rfl
theorem FrameFits.retryWaitExpiry a : FrameFits.Statement (.retryWaitExpiry a) := fits_of_none rfl
theorem FrameFits.dueUntilPasses a : FrameFits.Statement (.dueUntilPasses a) := fits_of_none rfl
theorem FrameFits.reportTimerExpiry : FrameFits.Statement .reportTimerExpiry := fits_of_none rfl
theorem FrameFits.earlyNeedSpacing : FrameFits.Statement .earlyNeedSpacing := fits_of_none rfl
theorem FrameFits.silenceTimerExpiry : FrameFits.Statement .silenceTimerExpiry := fits_of_none rfl
theorem FrameFits.peerAging a : FrameFits.Statement (.peerAging a) := fits_of_none rfl
theorem FrameFits.ceilingRecordExpiry a : FrameFits.Statement (.ceilingRecordExpiry a) := fits_of_none rfl
theorem FrameFits.need (a : Source) (b : List Byte) : FrameFits.Statement (.need a b) := fits_of_some rfl (by decide) fits_of_kind
theorem FrameFits.leave (a : Source) (b : List Byte) : FrameFits.Statement (.leave a b) := fits_of_some rfl (by decide) fits_of_kind
theorem FrameFits.ceiling (a : Source) (b : List Byte) : FrameFits.Statement (.ceiling a b) := fits_of_some rfl (by decide) fits_of_payload
theorem FrameFits.otherFrame (a : Fin 8) (b : Source) (c : List Byte) : FrameFits.Statement (.otherFrame a b c) := fits_of_some rfl a.isLt fits_of_payload
theorem FrameFits.claim (a : Source) (b : List Byte) : FrameFits.Statement (.claim a b) := fits_of_some rfl (by decide) fits_of_payload
theorem FrameFits.claimExpiry : FrameFits.Statement .claimExpiry := fits_of_none rfl
theorem FrameFits.withdrawPulseEnd a : FrameFits.Statement (.withdrawPulseEnd a) := fits_of_none rfl
theorem FrameFits.throwPulseEnd a : FrameFits.Statement (.throwPulseEnd a) := fits_of_none rfl
theorem FrameFits.claimWaitTimeout a : FrameFits.Statement (.claimWaitTimeout a) := fits_of_none rfl
theorem FrameFits.openTimerExpiry a : FrameFits.Statement (.openTimerExpiry a) := fits_of_none rfl
theorem FrameFits.permitOpen (a : Source) (b : List Byte) : FrameFits.Statement (.permitOpen a b) := fits_of_some rfl (by decide) fits_of_permit
theorem FrameFits.permitReturn (a : Source) (b : List Byte) : FrameFits.Statement (.permitReturn a b) := fits_of_some rfl (by decide) fits_of_permit
theorem FrameFits.permitDue (a : Source) (b : List Byte) : FrameFits.Statement (.permitDue a b) := fits_of_some rfl (by decide) fits_of_permit
theorem FrameFits.permitHold (a : Source) (b : List Byte) : FrameFits.Statement (.permitHold a b) := fits_of_some rfl (by decide) fits_of_permit
theorem FrameFits.permitLift (a : Source) (b : List Byte) : FrameFits.Statement (.permitLift a b) := fits_of_some rfl (by decide) fits_of_permit
theorem FrameFits.permitRestart (a : Source) (b : List Byte) : FrameFits.Statement (.permitRestart a b) := fits_of_some rfl (by decide) fits_of_permit
theorem FrameFits.permitUnknownKind (a : Source) (b : List Byte) : FrameFits.Statement (.permitUnknownKind a b) := fits_of_some rfl (by decide) (fun w => fits_of_payload (Bool.and_eq_true _ _ ▸ w).1)
theorem FrameFits.stationRestart : FrameFits.Statement .stationRestart := fits_of_none rfl
theorem FrameFits.plan (a : Source) (b : List Byte) : FrameFits.Statement (.plan a b) := fits_of_some rfl (by decide) fits_of_kind
theorem FrameFits.go (a : Source) (b : List Byte) : FrameFits.Statement (.go a b) := fits_of_some rfl (by decide) fits_of_kind
theorem FrameFits.cancel (a : Source) (b : List Byte) : FrameFits.Statement (.cancel a b) := fits_of_some rfl (by decide) fits_of_kind
theorem FrameFits.build (a : Source) (b : List Byte) : FrameFits.Statement (.build a b) := fits_of_some rfl (by decide) fits_of_kind
theorem FrameFits.unpin (a : Source) (b : List Byte) : FrameFits.Statement (.unpin a b) := fits_of_some rfl (by decide) fits_of_kind
theorem FrameFits.enumerationTimeout a : FrameFits.Statement (.enumerationTimeout a) := fits_of_none rfl
theorem FrameFits.awaitTimeout a : FrameFits.Statement (.awaitTimeout a) := fits_of_none rfl
theorem FrameFits.pauseExpiry a : FrameFits.Statement (.pauseExpiry a) := fits_of_none rfl
theorem FrameFits.reenumGraceExpiry a : FrameFits.Statement (.reenumGraceExpiry a) := fits_of_none rfl
theorem FrameFits.enumeratedChange a b : FrameFits.Statement (.enumeratedChange a b) := fits_of_none rfl
theorem FrameFits.laneFault a : FrameFits.Statement (.laneFault a) := fits_of_none rfl
theorem FrameFits.faultLineReleased a : FrameFits.Statement (.faultLineReleased a) := fits_of_none rfl
theorem FrameFits.faultClearExpiry a : FrameFits.Statement (.faultClearExpiry a) := fits_of_none rfl
theorem FrameFits.wakeTimerExpiry : FrameFits.Statement .wakeTimerExpiry := fits_of_none rfl
theorem FrameFits.idleTimerExpiry a : FrameFits.Statement (.idleTimerExpiry a) := fits_of_none rfl
theorem FrameFits.scrubTimerExpiry a : FrameFits.Statement (.scrubTimerExpiry a) := fits_of_none rfl
theorem FrameFits.queryStation (a : Source) (b : List Byte) : FrameFits.Statement (.queryStation a b) := fits_of_some rfl (by decide) fits_of_query
theorem FrameFits.querySlot (a : Source) (b : List Byte) : FrameFits.Statement (.querySlot a b) := fits_of_some rfl (by decide) fits_of_query
theorem FrameFits.frameAbandoned : FrameFits.Statement .frameAbandoned := fits_of_none rfl
theorem FrameFits.crcError : FrameFits.Statement .crcError := fits_of_none rfl
theorem FrameFits.lineIdle : FrameFits.Statement .lineIdle := fits_of_none rfl
theorem FrameFits.transmitAttempt : FrameFits.Statement .transmitAttempt := fits_of_none rfl
theorem FrameFits.arbitrationLost : FrameFits.Statement .arbitrationLost := fits_of_none rfl
theorem FrameFits.bitError : FrameFits.Statement .bitError := fits_of_none rfl
theorem FrameFits.transmitComplete : FrameFits.Statement .transmitComplete := fits_of_none rfl
theorem FrameFits.lampBlinkTick : FrameFits.Statement .lampBlinkTick := fits_of_none rfl

end Sys2Proof.Laws
end

