-- ==== Sys2Proof/Laws/SteadyLatch.lean ====
section
/-! SUPPORT. The conditions through the Latch Driver's and the Claim Unit's operations. -/

namespace Sys2Proof.Machine

/-! ## Latch and own claims -/

/-- A latch state that drives no bolt. -/
def LatchState.Idle (x : LatchState) : Prop := ∀ u, x ≠ .withdrawing u ∧ x ≠ .throwing u

/-- A change of one latch record that starts no pulse. -/
theorem setLatch_steady (i : SlotNo) (l : LatchSlot) (s : State)
    (h : l.state = (s.latch.get i).state ∨ l.state.Idle) : Steady s (s.setLatch i l) where
  counts := counts_of_eq rfl rfl
  claims := claims_of_eq rfl rfl rfl
  bolts := by
    intro w k u c
    have old := w k u c
    show (((setAt s.latch i l).get k).state = _ → _) ∧ (((setAt s.latch i l).get k).state = _ → _)
    rw [get_setAt]
    split
    · next e =>
      subst e
      rcases h with h | h
      · rw [h]; exact old
      · exact ⟨fun q => absurd q (h u).1, fun q => absurd q (h u).2⟩
    · exact old
  power := power_of_eq rfl rfl rfl rfl
  share := id

theorem setLatchState_steady (i : SlotNo) (x : LatchState) (s : State) (h : x.Idle) : Steady s (s.setLatchState i x) :=
  setLatch_steady _ _ _ (.inr h)

/-- The Claim Unit's own fields change. -/
theorem claims_steady {s : State} (x : Claims) (c : s.ClaimsWithin → ({ s with claims := x } : State).ClaimsWithin)
    (b : s.BoltsClaimed → ({ s with claims := x } : State).BoltsClaimed) : Steady s { s with claims := x } :=
  ⟨counts_of_eq rfl rfl, c, b, power_of_eq rfl rfl rfl rfl, id⟩

/-- Own claim records change, and none that is admitted and not expired goes. -/
theorem bolts_of_own {s t : State} (c : s.clock ≤ t.clock) (l : t.latch = s.latch)
    (o : ∀ x ∈ s.claims.own, ∀ e, x.expires = some e → t.clock < e → x ∈ t.claims.own) : s.BoltsClaimed → t.BoltsClaimed := by
  intro w i u k
  have old := w i u (Nat.lt_of_le_of_lt c k)
  rw [l]
  have up : ∀ op, s.OwnsLive i op u → t.OwnsLive i op u := by
    rintro op ⟨x, m, a, b, e, he, q⟩
    exact ⟨x, o x m e he (Nat.lt_of_lt_of_le k q), a, b, e, he, q⟩
  exact ⟨fun q => up _ (old.1 q), fun q => up _ (old.2 q)⟩

theorem setRequests_steady (rs : List Request) (s : State) : Steady s (s.setRequests rs) :=
  ⟨counts_of_eq rfl rfl, claims_of_eq rfl rfl rfl, bolts_of_eq rfl rfl rfl, power_of_eq rfl rfl rfl rfl, id⟩

/-! ## Reports -/

theorem setHold_steady (i : SlotNo) (h : Option Hold) (s : State) : Steady s (s.setHold i h) :=
  Steady.of_keeps (setHold_keeps i h s) (by decide)

theorem tamperReport_steady (i : SlotNo) (c : TamperCause) (found : Bool) (s : State) :
    Steady s (s.tamperReport i c found) := by
  unfold State.tamperReport
  exact Steady.ite (Steady.refl _) ((setHold_steady _ _ _).trans (notice_steady _ _ _ _))

theorem jamReport_steady (i : SlotNo) (s : State) : Steady s (s.jamReport i) := setHold_steady _ _ _

/-! ## Claims -/

theorem reportReserve_steady {s u : State} (h : Steady s u) : Steady s u.reportReserve := by
  unfold State.reportReserve
  refine h.trans (compute_steady false (counts_of_eq rfl rfl) (claims_of_eq rfl rfl rfl) (bolts_of_eq rfl rfl rfl)
    (power_of_eq rfl rfl rfl rfl) ?_)
  intro o; exact o

theorem handClaim_own (s : State) : ∀ x ∈ s.claims.own, x ∈ s.handClaim.claims.own := by
  intro x m
  unfold State.handClaim
  split
  · split
    · exact m
    · exact List.mem_append_left _ m
  · exact m

theorem handClaim_steady (s : State) : Steady s s.handClaim where
  counts := by
    unfold State.handClaim
    split
    · split
      · exact CountsUp.refl s
      · exact (hand_steady _ s).counts
    · exact CountsUp.refl s
  claims := claims_of_eq (handClaim_keeps s .clock (by decide)) (handClaim_keeps s .cfg (by decide))
    (handClaim_keeps s .claimList (by decide))
  bolts := bolts_of_own (Nat.le_of_eq (handClaim_keeps s .clock (by decide) : s.handClaim.clock = s.clock).symm)
    (handClaim_keeps s .latch (by decide)) (fun x m _ _ _ => handClaim_own s x m)
  power := power_of_eq (handClaim_keeps s .cfg (by decide)) (handClaim_keeps s .charge (by decide))
    (handClaim_keeps s .share (by decide)).2.2.2.2.2.2.2 (handClaim_keeps s .monitor (by decide))
  share := share_of_keeps (handClaim_keeps s) (by decide) (sums_of_eq (handClaim_keeps s .charge (by decide))) (by decide)
    (by decide) (by decide) (by decide) (by decide)

theorem handClaims_steady (s : State) : Steady s s.handClaims := (handClaim_steady s).trans (handClaim_steady _)

theorem addRequest_steady (i : SlotNo) (op : LatchOp) (n : Nat) (s : State) : Steady s (s.addRequest i op n) :=
  (setRequests_steady _ _).trans (handClaims_steady _)

/-- An operation on requests, own claim records and queue that keeps every admitted own claim and the counts. -/
theorem Steady.of_requests {s t : State} (h : Keeps [.requests, .queue] s t) (c : t.line.lost = s.line.lost)
    (o : ∀ x ∈ s.claims.own, ∀ e, x.expires = some e → x ∈ t.claims.own) : Steady s t where
  counts := counts_of_eq (h .errors (by decide)) c
  claims := claims_of_eq (h .clock (by decide)) (h .cfg (by decide)) (h .claimList (by decide))
  bolts := bolts_of_own (Nat.le_of_eq (h .clock (by decide) : t.clock = s.clock).symm) (h .latch (by decide))
    (fun x m e he _ => o x m e he)
  power := power_of_eq (h .cfg (by decide)) (h .charge (by decide)) (h .share (by decide)).2.2.2.2.2.2.2
    (h .monitor (by decide))
  share := share_of_keeps h (by decide) (sums_of_eq (h .charge (by decide))) (by decide) (by decide) (by decide) (by decide)
    (by decide)

theorem withdrawClaims_steady (s : State) : Steady s s.withdrawClaims := by
  refine Steady.of_requests (withdrawClaims_keeps s) rfl ?_
  intro x m e he
  simp [State.withdrawClaims, m, he]

theorem disownClaim_steady (i : SlotNo) (s : State) : Steady s (s.disownClaim i) := by
  refine Steady.of_requests (disownClaim_keeps i s) ?_ ?_
  · unfold State.disownClaim
    split
    · rfl
    · split <;> rfl
  · intro x m e he
    unfold State.disownClaim
    split
    · exact m
    · next c hc =>
      have hn := List.find?_some hc
      simp only [decide_eq_true_eq] at hn
      have ne : x ≠ c := by rintro rfl; rw [he] at hn; simp at hn
      split
      · simp [m, ne]
      · simp only [List.mem_map]
        exact ⟨x, m, if_neg ne⟩

theorem endOwnClaim_steady (f : Bool) (tag : Nat) (op : LatchOp) (i : SlotNo) (s : State) :
    Steady s (s.endOwnClaim f tag op i) := by
  refine Steady.of_requests ((endOwnClaim_keeps f tag op i s).mono (by decide)) ?_ ?_
  · unfold State.endOwnClaim
    split <;> rfl
  · intro x m e he
    unfold State.endOwnClaim
    split
    · exact m
    · simp [m, OwnClaim.matches, he]

/-! ## The bolt -/

theorem idle_locked : LatchState.Idle .locked := fun _ => ⟨nofun, nofun⟩
theorem idle_jammed : LatchState.Idle .jammed := fun _ => ⟨nofun, nofun⟩
theorem idle_unlearned : LatchState.Idle .unlearned := fun _ => ⟨nofun, nofun⟩
theorem idle_throwWait : LatchState.Idle .throwWait := fun _ => ⟨nofun, nofun⟩
theorem idle_opened (x : OpenTimer) (t : Nat) : LatchState.Idle (.opened x t) := fun _ => ⟨nofun, nofun⟩
theorem idle_withdrawWait (t : Nat) : LatchState.Idle (.withdrawWait t) := fun _ => ⟨nofun, nofun⟩

theorem startOpenTimer_steady (i : SlotNo) (x : OpenTimer) (s : State) : Steady s (s.startOpenTimer i x) :=
  setLatchState_steady _ _ _ (idle_opened _ _)

theorem openLatch_steady (i : SlotNo) (s : State) : Steady s (s.openLatch i) := startOpenTimer_steady _ _ _

theorem learnLatch_steady (i : SlotNo) (s : State) : Steady s (s.learnLatch i) := by
  unfold State.learnLatch
  dsimp only
  split
  · refine Steady.trans (setLatch_steady _ _ _ ?_) (setLatchState_steady _ _ _ idle_locked); exact .inl rfl
  · refine Steady.trans (setLatch_steady _ _ _ ?_) (openLatch_steady _ _); exact .inl rfl
  · refine Steady.trans (setLatch_steady _ _ _ ?_) (setLatchState_steady _ _ _ idle_unlearned); exact .inl rfl

theorem learnAtStart_steady (i : SlotNo) (s : State) : Steady s (s.learnAtStart i) :=
  Steady.ite (learnLatch_steady _ _) (Steady.refl _)

theorem relearn_steady (i : SlotNo) (s : State) : Steady s (s.relearn i) :=
  Steady.ite (learnLatch_steady _ _) (Steady.refl _)

theorem grantRelease_steady (i : SlotNo) (s : State) : Steady s (s.grantRelease i) :=
  (setLatch_steady _ _ _ (.inr (idle_withdrawWait _))).trans (addRequest_steady _ _ _ _)

theorem jam_steady (i : SlotNo) (op : LatchOp) (s : State) : Steady s (s.jam i op) :=
  ((setLatchState_steady _ _ _ idle_jammed).trans (notice_steady _ _ _ _)).trans (jamReport_steady _ _)

theorem throwWait_steady (i : SlotNo) (n : Nat) (s : State) : Steady s (s.throwWait i n) :=
  (setLatch_steady _ _ _ (.inr idle_throwWait)).trans (addRequest_steady _ _ _ _)

theorem withdrawEnded_steady (i : SlotNo) (n : Nat) (s : State) : Steady s (s.withdrawEnded i n) := by
  unfold State.withdrawEnded
  split
  · exact openLatch_steady _ _
  · exact Steady.ite ((setLatch_steady _ _ _ (.inr (idle_withdrawWait _))).trans (addRequest_steady _ _ _ _)) (jam_steady _ _ _)
  · exact setLatchState_steady _ _ _ idle_unlearned

theorem endWithdraw_steady (i : SlotNo) (s : State) : Steady s (s.endWithdraw i) := by
  unfold State.endWithdraw
  dsimp only
  have k : ∀ (l : LatchSlot) (a : Bool), l.state = (s.latch.get i).state → Steady s
      (if a = true then (s.setLatch i l).learnLatch i else (s.setLatch i l).withdrawEnded i (s.latch.get i).attempt) :=
    fun l a e => Steady.ite ((setLatch_steady _ _ _ (.inl e)).trans (learnLatch_steady _ _))
      ((setLatch_steady _ _ _ (.inl e)).trans (withdrawEnded_steady _ _ _))
  refine Steady.ite (Steady.trans (k _ _ ?_) (tamperReport_steady _ _ _ _)) (k _ _ ?_) <;> rfl

theorem endThrow_steady (i : SlotNo) (s : State) : Steady s (s.endThrow i) := by
  unfold State.endThrow
  dsimp only
  have k : ∀ l : LatchSlot, l.state = (s.latch.get i).state → Steady s (s.setLatch i l) :=
    fun l e => setLatch_steady _ _ _ (.inl e)
  refine Steady.ite (Steady.trans (k _ ?_) (learnLatch_steady _ _)) ?_
  · rfl
  split
  · refine Steady.trans (k _ ?_) (setLatch_steady _ _ _ (.inr idle_locked)); rfl
  · refine Steady.ite (Steady.trans (k _ ?_) (throwWait_steady _ _ _)) (Steady.trans (k _ ?_) (jam_steady _ _ _)) <;> rfl
  · refine Steady.trans (k _ ?_) (setLatchState_steady _ _ _ idle_unlearned); rfl

theorem latchInsertion_steady (i : SlotNo) (f : Bool) (s : State) : Steady s (s.latchInsertion i f) := by
  unfold State.latchInsertion
  dsimp only
  split
  · exact tamperReport_steady _ _ _ _
  · exact tamperReport_steady _ _ _ _
  · exact setLatch_steady _ _ _ (.inl rfl)
  · exact startOpenTimer_steady _ _ _
  · exact Steady.refl _

theorem latchExtraction_steady (i : SlotNo) (s : State) : Steady s (s.latchExtraction i) := by
  unfold State.latchExtraction
  dsimp only
  split
  · exact tamperReport_steady _ _ _ _
  · exact tamperReport_steady _ _ _ _
  · exact setLatch_steady _ _ _ (.inl rfl)
  · exact startOpenTimer_steady _ _ _
  · exact Steady.refl _

/-! ## A CLAIM at its line position -/

theorem liveClaims_append (c : Nat) (es : List ClaimEntry) (e : ClaimEntry) :
    liveClaims c (es ++ [e]) = liveClaims c es ++ liveClaims c [e] := List.filter_append _ _

theorem filter_len_append (o : Source) (es fs : List ClaimEntry) : ((es ++ fs).filter (fun x => x.owner = o)).length =
    (es.filter (fun x => x.owner = o)).length + (fs.filter (fun x => x.owner = o)).length := by
  rw [List.filter_append, List.length_append]

/-- An admitted claim keeps the three conditions, decided at this moment. -/
theorem admitted_within {s : State} (e : ClaimEntry) (p : e.position = s.clock)
    (h : admits s.cfg.pulseAllowance s.claims.entries e = true) (x : List OwnClaim) (w : s.ClaimsWithin) :
    ({ s with claims := { s.claims with own := x, entries := s.claims.entries ++ [{ e with admitted := true }] } } :
      State).ClaimsWithin := by
  obtain ⟨a, b, c⟩ := w
  simp only [admits, p, Bool.and_eq_true, decide_eq_true_eq] at h
  have one : liveClaims s.clock [{ e with admitted := true }] = [{ e with admitted := true }] ∨
      liveClaims s.clock [{ e with admitted := true }] = [] := by
    unfold liveClaims
    rw [List.filter_singleton]
    cases h : (true && decide (s.clock < ClaimEntry.expiry { e with admitted := true }))
    · exact .inr (by simp)
    · exact .inl (by simp)
  unfold State.ClaimsWithin
  simp only [liveClaims_append]
  rcases one with o | o <;> rw [o]
  · refine ⟨?_, fun k => ?_, ?_⟩
    · unfold sumAmounts at *
      simp only [List.map_append, List.sum_append, List.map_cons, List.map_nil, List.sum_cons, List.sum_nil]
      omega
    · rw [filter_len_append]
      by_cases q : e.owner = k
      · subst q
        simp only [List.filter_cons, List.filter_nil, decide_true, if_true, List.length_singleton]
        omega
      · simp only [List.filter_cons, List.filter_nil, decide_eq_true_eq, if_neg q, List.length_nil]
        exact b k
    · rw [List.length_append, List.length_singleton]; omega
  · simp only [List.append_nil]; exact ⟨a, b, c⟩

theorem takeClaim_steady (e : ClaimEntry) (s : State) (p : e.position = s.clock) : Steady s (s.takeClaim e) := by
  unfold State.takeClaim
  split
  · next h =>
    refine reportReserve_steady (claims_steady _ (fun w => admitted_within e p h s.claims.own w) (bolts_of_eq rfl rfl rfl))
  · exact Steady.refl _

/-- The drive of the bolt whose own claim has just been admitted. -/
theorem drivePulse_steady (i : SlotNo) (op : LatchOp) (d : Nat) (s : State) (o : s.OwnsLive i op (momentAfter s.clock (d * 10))) :
    Steady s (s.drivePulse i op d) := by
  unfold State.drivePulse
  dsimp only
  split
  · refine ⟨counts_of_eq rfl rfl, claims_of_eq rfl rfl rfl, ?_, power_of_eq rfl rfl rfl rfl, id⟩
    intro w k u c
    have old := w k u c
    show (((setAt s.latch i _).get k).state = _ → _) ∧ (((setAt s.latch i _).get k).state = _ → _)
    rw [get_setAt]
    split
    · next e =>
      subst e
      refine ⟨fun q => ?_, nofun⟩
      cases q; exact o
    · exact old
  · refine ⟨counts_of_eq rfl rfl, claims_of_eq rfl rfl rfl, ?_, power_of_eq rfl rfl rfl rfl, id⟩
    intro w k u c
    have old := w k u c
    show (((setAt s.latch i _).get k).state = _ → _) ∧ (((setAt s.latch i _).get k).state = _ → _)
    rw [get_setAt]
    split
    · next e =>
      subst e
      refine ⟨nofun, fun q => ?_⟩
      cases q; exact o
    · exact old
  · exact Steady.refl _

theorem matches_none {tag : Nat} {op : LatchOp} {i : SlotNo} {c : OwnClaim} (h : OwnClaim.matches tag op i c = true) :
    c.tag = tag ∧ c.op = op ∧ c.slot = i ∧ c.expires = none := by
  simpa [OwnClaim.matches] using h

theorem ownAdmitted_steady (c : OwnClaim) (e : ClaimEntry) (s : State) (p : e.position = s.clock)
    (h : admits s.cfg.pulseAllowance s.claims.entries e = true) (m : c ∈ s.claims.own) (n : c.expires = none) :
    Steady s (s.ownAdmitted c e) := by
  unfold State.ownAdmitted
  dsimp only
  generalize hw : s.claims.own.map
    (fun x => if OwnClaim.matches c.tag c.op c.slot x then { x with expires := some e.expiry } else x) = own
  have a : Steady s (({ s with claims := { s.claims with own := own } } : State).enterClaim e) := by
    unfold State.enterClaim
    refine reportReserve_steady (claims_steady _ (fun w => admitted_within e p h own w) ?_)
    refine bolts_of_own (Nat.le_refl _) rfl ?_
    intro x mx t ht _
    show x ∈ own
    rw [← hw, List.mem_map]
    refine ⟨x, mx, if_neg ?_⟩
    intro q
    rw [(matches_none q).2.2.2] at ht
    cases ht
  have ak := enterClaim_keeps e ({ s with claims := { s.claims with own := own } } : State)
  generalize State.enterClaim e ({ s with claims := { s.claims with own := own } } : State) = u at a ak
  have uo : u.claims.own = own := (ak .requests (by decide)).2.1
  have uc : u.clock = s.clock := ak .clock (by decide)
  refine Steady.ite ((a.trans (setRequests_steady _ _)).trans (drivePulse_steady _ _ _ _ ?_)) a
  refine ⟨{ c with expires := some e.expiry }, ?_, rfl, rfl, e.expiry, rfl, ?_⟩
  · show _ ∈ u.claims.own
    rw [uo, ← hw, List.mem_map]
    exact ⟨c, m, if_pos (by simp [OwnClaim.matches, n])⟩
  · show momentAfter u.clock (e.duration * 10) ≤ e.expiry
    unfold ClaimEntry.expiry momentAfter
    rw [p, uc, Nat.add_mul]
    omega

theorem ownRefused_steady (c : OwnClaim) (s : State) : Steady s (s.ownRefused c) := by
  unfold State.ownRefused
  dsimp only
  refine Steady.trans ?_ (handClaims_steady _)
  refine Steady.ite ?_ ?_ <;>
  · refine Steady.of_requests (by intro p hp; cases p <;> simp_all [same]) rfl ?_
    intro x m e he
    simp [m, OwnClaim.matches, he]

theorem completeOwnClaim_steady (tag : Nat) (op : LatchOp) (i : SlotNo) (a d : Nat) (s : State) :
    Steady s (s.completeOwnClaim tag op i a d) := by
  unfold State.completeOwnClaim
  dsimp only
  split
  · exact takeClaim_steady _ _ rfl
  · next c hc =>
    split
    · next h =>
      refine ownAdmitted_steady c _ s rfl h (List.mem_of_find?_eq_some hc) (matches_none (List.find?_some hc)).2.2.2
    · exact ownRefused_steady _ _

theorem liveClaims_idem (c : Nat) (es : List ClaimEntry) : liveClaims c (liveClaims c es) = liveClaims c es := by
  unfold liveClaims; rw [List.filter_filter]; simp

theorem expireClaims_steady (s : State) : Steady s s.expireClaims := by
  unfold State.expireClaims
  dsimp only
  refine (reportReserve_steady (claims_steady _ ?_ ?_)).trans (handClaims_steady _)
  · refine claims_of_sublist rfl ?_
    show (liveClaims s.clock (liveClaims s.clock s.claims.entries)).Sublist _
    rw [liveClaims_idem]
  · refine bolts_of_own (Nat.le_refl _) rfl ?_
    intro x m e he c
    have c' : s.clock < e := c
    exact List.mem_filter.2 ⟨m, by simp [he, c']⟩

theorem timeOutRelease_steady (i : SlotNo) (s : State) : Steady s (s.timeOutRelease i) := by
  unfold State.timeOutRelease
  exact (((setLatch_steady _ _ _ (.inr idle_locked)).trans (setRequests_steady _ _)).trans (notice_steady _ _ _ _)).trans
    ((disownClaim_steady _ _).trans (handClaims_steady _))

end Sys2Proof.Machine
end

