-- ==== Sys2Proof/Laws/SteadyProvision.lean ====
section
/-! SUPPORT. The conditions through the Plan Engine's and the Lane Switch's operations. -/

namespace Sys2Proof.Machine

/-! ## Plain updates -/

theorem setCustody_steady (i : SlotNo) (c : CustodySlot) (s : State) : Steady s (s.setCustody i c) :=
  Steady.of_keeps (setCustody_keeps i c s) (by decide)
theorem setPlan_steady (i : SlotNo) (x : PlanSlot) (s : State) : Steady s (s.setPlan i x) :=
  Steady.of_keeps (setPlan_keeps i x s) (by decide)
theorem setLane_steady (l : LaneNo) (x : Lane) (s : State) : Steady s (s.setLane l x) :=
  Steady.of_keeps (setLane_keeps l x s) (by decide)
theorem plans_steady (x : Plans) (s : State) : Steady s { s with plans := x } :=
  ⟨counts_of_eq rfl rfl, claims_of_eq rfl rfl rfl, bolts_of_eq rfl rfl rfl, power_of_eq rfl rfl rfl rfl, id⟩
theorem lanes_steady (x : Lanes) (s : State) : Steady s { s with lanes := x } :=
  ⟨counts_of_eq rfl rfl, claims_of_eq rfl rfl rfl, bolts_of_eq rfl rfl rfl, power_of_eq rfl rfl rfl rfl, id⟩
theorem free_steady (x : Nat) (s : State) : Steady s { s with free := x } :=
  ⟨counts_of_eq rfl rfl, claims_of_eq rfl rfl rfl, bolts_of_eq rfl rfl rfl, power_of_eq rfl rfl rfl rfl, id⟩
theorem custody_steady (x : Custody) (s : State) : Steady s { s with custody := x } :=
  ⟨counts_of_eq rfl rfl, claims_of_eq rfl rfl rfl, bolts_of_eq rfl rfl rfl, power_of_eq rfl rfl rfl rfl, id⟩

/-! ## Lanes -/

theorem moveLane_steady (l : LaneNo) (x : LaneState) (s : State) : Steady s (s.moveLane l x) := setLane_steady _ _ _

theorem onLane_demand (cfg : Record) (ms : Nat) (m : MonitorSlot) (x : Path) (v : Volts) (c : ChargeSlot) :
    (c.onLane cfg ms m x v).demand = c.demand := by
  unfold ChargeSlot.onLane
  split <;> rfl

theorem laneEvent_steady (i : SlotNo) (x : Path) (v : Volts) (s : State) :
    Steady s (s.chargeEvent i (ChargeSlot.onLane s.cfg s.clock (s.monitor.get i) x v)) :=
  chargeEvent_steady _ _ _ (fun h => onLane_right _ _ _ _ _ _ _ (h i).1) (fun h => onLane_served _ _ _ _ _ _ (h i).2)
    (onLane_demand _ _ _ _ _ _)

theorem laneDetached_steady (i : SlotNo) (s : State) : Steady s (s.laneDetached i) := by
  unfold State.laneDetached
  exact (free_steady (s.free + 1) s).trans (laneEvent_steady _ _ _ _)

theorem laneAttached_steady (i : SlotNo) (s : State) : Steady s (s.laneAttached i) := laneEvent_steady _ _ _ _

theorem detachLane_steady (l : LaneNo) (i : SlotNo) (s : State) :
    Steady s (s.detachLane l i) :=
  (moveLane_steady _ _ _).trans (laneDetached_steady _ _)

theorem releaseLane_steady (i : SlotNo) (s : State) : Steady s (s.releaseLane i) := by
  unfold State.releaseLane
  split
  · exact detachLane_steady _ _ _
  · exact Steady.refl _

theorem forceRelease_steady (i : SlotNo) (s : State) : Steady s (s.forceRelease i) := by
  unfold State.forceRelease
  split
  · exact detachLane_steady _ _ _
  · exact Steady.refl _

theorem laneSide_steady (i : SlotNo) (x : LaneSide) (s : State) :
    Steady s (s.laneSide i x) := by
  cases x
  · exact releaseLane_steady _ _
  · exact forceRelease_steady _ _
  · exact Steady.refl _

theorem wakeOne_steady (s : State) : Steady s s.wakeOne := by
  unfold State.wakeOne
  refine Steady.ite ?_ (Steady.refl _)
  split
  · exact moveLane_steady _ _ _
  · exact Steady.refl _

theorem wakeLanes_steady (s : State) : Steady s s.wakeLanes :=
  (((wakeOne_steady s).trans (wakeOne_steady _)).trans (wakeOne_steady _)).trans (wakeOne_steady _)

theorem startIdle_steady (s : State) : Steady s s.startIdle := by
  unfold State.startIdle
  refine Steady.ite (steady_foldl _ ?_ _ _) (Steady.refl _)
  intro t l
  split
  · exact moveLane_steady _ _ _
  · exact Steady.refl _

/-! ## Runs -/

theorem reportRun_steady (i : SlotNo) (r : Run) (o : Answer) (n : Nat) (s : State) :
    Steady s (s.reportRun i r o n) := by
  unfold State.reportRun
  split
  · exact Steady.refl _
  · exact (hand_steady _ _).trans (plans_steady _ _)

theorem endRun_steady (i : SlotNo) (o : Answer) (n : Nat) (s : State) : Steady s (s.endRun i o n) := by
  unfold State.endRun
  split
  · exact Steady.refl _
  · exact (reportRun_steady _ _ _ _ _).trans (setPlan_steady _ _ _)

theorem setFloor_steady (i : SlotNo) (q : Nat) (s : State) : Steady s (s.setFloor i q) :=
  (setPlan_steady _ _ _).trans (settled_steady _)

theorem setRun_steady (i : SlotNo) (r : Run) (s : State) : Steady s (s.setRun i r) := setPlan_steady _ _ _

theorem leaveWaitList_steady (i : SlotNo) (s : State) : Steady s (s.leaveWaitList i) := by
  exact lanes_steady _ _

theorem finishHead_steady (i : SlotNo) (o : Answer) (x : LaneSide) (s : State) : Steady s (s.finishHead i o x) := by
  unfold State.finishHead
  split
  · exact Steady.refl _
  · exact (((setFloor_steady _ _ _).trans (leaveWaitList_steady _ _)).trans
      (laneSide_steady _ _ _)).trans (endRun_steady _ _ _ _)

theorem startRun_steady (i : SlotNo) (s : State) : Steady s (s.startRun i).1 := by
  unfold State.startRun
  split
  · exact Steady.refl _
  split
  · exact Steady.refl _
  split
  · exact Steady.refl _
  split
  · exact endRun_steady _ _ _ _
  · exact setPlan_steady _ _ _

theorem attachStep_steady (i : SlotNo) (r : Run) (p : PlanRecord) (s : State) : Steady s (s.attachStep i r p).1 := by
  unfold State.attachStep
  split
  · exact setRun_steady _ _ _
  split
  · exact finishHead_steady _ _ _ _
  · exact (setRun_steady _ _ _).trans (lanes_steady _ _)

theorem performStep_steady (i : SlotNo) (s : State) : Steady s (s.performStep i).1 := by
  unfold State.performStep
  split
  · exact Steady.refl _
  split
  · exact Steady.refl _
  split
  · exact Steady.refl _
  split
  · exact Steady.refl _
  · exact attachStep_steady _ _ _ _
  · exact setFloor_steady _ _ _
  · exact setRun_steady _ _ _
  · split
    · exact Steady.refl _
    · exact setRun_steady _ _ _
  · exact (releaseLane_steady _ _).trans (setRun_steady _ _ _)
  · exact setPlan_steady _ _ _

theorem advanceRun_steady (i : SlotNo) (s : State) : Steady s (s.advanceRun i).1 := by
  unfold State.advanceRun
  split
  · exact Steady.refl _
  split
  · exact Steady.refl _
  split
  · exact setRun_steady _ _ _
  · exact finishHead_steady _ _ _ _

theorem takeGrant_steady (i : SlotNo) (s : State) : Steady s (s.takeGrant i).1 := by
  unfold State.takeGrant
  split
  · exact Steady.refl _
  split
  · exact setRun_steady _ _ _
  · exact Steady.refl _

theorem grantStep_steady (s : State) : Steady s s.grantStep.1 := by
  unfold State.grantStep
  split
  · refine Steady.trans (Steady.trans (Steady.trans ?_ (moveLane_steady _ _ _))
      (laneAttached_steady _ _)) (takeGrant_steady _ _)
    exact lanes_steady _ _
  · exact ((wakeLanes_steady _).trans (startIdle_steady _))

theorem workStep_steady (w : Work) (s : State) : Steady s (s.workStep w).1 := by
  cases w
  · exact startRun_steady _ _
  · exact performStep_steady _ _
  · exact advanceRun_steady _ _
  · exact grantStep_steady _

theorem runWork_steady : ∀ (n : Nat) (ws : List Work) (s : State), Steady s (runWork n ws s)
  | 0, _, s => Steady.refl s
  | _ + 1, [], s => Steady.refl s
  | n + 1, w :: _, s => (workStep_steady w s).trans (runWork_steady n _ _)

theorem work_steady (ws : List Work) (s : State) : Steady s (s.work ws) := runWork_steady _ _ _

theorem finishAndStart_steady (i : SlotNo) (o : Answer) (x : LaneSide) (s : State) :
    Steady s (s.finishAndStart i o x) := (finishHead_steady _ _ _ _).trans (work_steady _ _)

/-! ## Frames of class 5 -/

theorem appendRun_steady (id : PlanId) (i : SlotNo) (s : State) : Steady s (s.appendRun id i) := setPlan_steady _ _ _

theorem takePlan_steady (src : Source) (p : List Byte) (s : State) : Steady s (s.takePlan src p) := by
  unfold State.takePlan
  split
  · exact hand_steady _ _
  · refine Steady.trans (Steady.trans (Steady.trans ?_ (hand_steady _ _))
      ((steady_forSlots _ (fun i s => appendRun_steady _ i s) _ _))) (work_steady _ _)
    exact plans_steady _ _

theorem takeGo_steady (p : List Byte) (s : State) : Steady s (s.takeGo p) := by
  unfold State.takeGo
  split
  · exact Steady.refl _
  split
  · exact Steady.refl _
  split
  · exact Steady.ite (work_steady _ _) (Steady.refl _)
  · exact Steady.refl _

theorem cancelSlot_steady (id : PlanId) (i : SlotNo) (s : State) : Steady s (s.cancelSlot id i) := by
  unfold State.cancelSlot
  split
  · exact Steady.refl _
  split
  · exact finishAndStart_steady _ _ _ _
  split
  · exact Steady.refl _
  · exact (reportRun_steady _ _ _ _ _).trans (setPlan_steady _ _ _)

theorem takeCancel_steady (p : List Byte) (s : State) : Steady s (s.takeCancel p) :=
  Steady.ite (steady_forSlots _ (fun i s => cancelSlot_steady _ i s) _ _) (Steady.refl _)

theorem takeBuild_steady (p : List Byte) (s : State) : Steady s (s.takeBuild p) := by
  exact plans_steady _ _

theorem takeUnpin_steady (src : Source) (p : List Byte) (s : State) : Steady s (s.takeUnpin src p) := by
  unfold State.takeUnpin
  dsimp only
  split
  · exact hand_steady _ _
  · exact Steady.ite (hand_steady _ _)
      ((forceRelease_steady _ _).trans (hand_steady _ _))

theorem takeClass5_steady (src : Source) (p : List Byte) (s : State) : Steady s (s.takeClass5 src p) := by
  unfold State.takeClass5
  exact Steady.ite (Steady.refl _) (Steady.ite (Steady.ite (takeBuild_steady _ _) (Steady.refl _))
    (Steady.ite (Steady.refl _) (Steady.ite (takePlan_steady _ _ _)
      (Steady.ite (takeGo_steady _ _) (Steady.ite (takeCancel_steady _ _)
        (takeUnpin_steady _ _ _))))))

/-! ## The rows of the Plan Engine and the Lane Switch -/

theorem enumAsserted_steady (i : SlotNo) (s : State) : Steady s (s.enumAsserted i) := by
  unfold State.enumAsserted
  split
  · exact Steady.refl _
  split
  · exact work_steady _ _
  · exact setRun_steady _ _ _
  · exact setRun_steady _ _ _
  · exact Steady.refl _

theorem enumReleased_steady (i : SlotNo) (s : State) : Steady s (s.enumReleased i) := by
  unfold State.enumReleased
  split
  · exact Steady.refl _
  refine Steady.ite ?_ (Steady.refl _)
  split
  · exact setRun_steady _ _ _
  · exact setRun_steady _ _ _
  · exact Steady.refl _

theorem changeEnumerated_steady (l : LaneNo) (v : Level) (s : State) : Steady s (s.changeEnumerated l v) := by
  unfold State.changeEnumerated
  dsimp only
  split
  · exact (setLane_steady _ _ _).trans (enumAsserted_steady _ _)
  · exact (setLane_steady _ _ _).trans (enumReleased_steady _ _)
  · exact setLane_steady _ _ _

theorem planLaneFault_steady (i : SlotNo) (s : State) : Steady s (s.planLaneFault i) :=
  Steady.ite (finishAndStart_steady _ _ _ _) (Steady.refl _)

theorem faultLane_steady (l : LaneNo) (s : State) : Steady s (s.faultLane l) := by
  unfold State.faultLane
  dsimp only
  have h : ∀ t : State, Steady s t →
      Steady s (match (s.lanes.table.get l).state.slot with
        | some i => (t.laneDetached i).planLaneFault i
        | none => t) := by
    intro t h
    split
    · exact (h.trans (laneDetached_steady _ _)).trans (planLaneFault_steady _ _)
    · exact h
  have k := h _ ((setLane_steady l ({ s.lanes.table.get l with
    faults := (s.lanes.table.get l).faults + 1, faultIn := .asserted, faultPin := true, faultRun := {} }.move s.clock
      (if decide (faultLimit ≤ (s.lanes.table.get l).faults + 1) then .retired else .faulted none)) s))
  exact Steady.ite ((k.trans (notice_steady _ _ _ _)).trans (wakeLanes_steady _))
    (k.trans (notice_steady _ _ _ _))

theorem endWake_steady (t : Nat) (s : State) : Steady s (s.endWake t) := by
  unfold State.endWake
  refine steady_foldl _ ?_ _ _
  intro u l
  split
  · exact Steady.ite (moveLane_steady _ _ _) (Steady.refl _)
  · exact Steady.refl _

end Sys2Proof.Machine
end

