-- ==== Sys2Proof/Laws/SteadyRows.lean ====
section
/-! SUPPORT. The conditions through the operations of the other blocks. -/

namespace Sys2Proof.Machine

/-! ## Slot Monitor and Charge Controller -/

/-- A change of one slot's monitor record that leaves its cable class. -/
theorem setMonitor_steady (i : SlotNo) (m : MonitorSlot) (s : State) (h : m.cable = (s.monitor.get i).cable) :
    Steady s (s.setMonitor i m) where
  counts := counts_of_eq rfl rfl
  claims := claims_of_eq rfl rfl rfl
  bolts := bolts_of_eq rfl rfl rfl
  power := by
    intro w k
    have e : ((setAt s.monitor i m).get k).cable = (s.monitor.get k).cable := by
      rw [get_setAt]; split
      · next q => subst q; exact h
      · rfl
    show ChargeSlot.Right _ ((setAt s.monitor i m).get k).cable _ _ ∧ ChargeSlot.Served ((setAt s.monitor i m).get k).cable _
    rw [e]; exact w k
  share := id

theorem settleStart_steady (i : SlotNo) (s : State) : Steady s (s.settleStart i) :=
  Steady.trans (t := s.setMonitor i { s.monitor.get i with startSettled := true }) (setMonitor_steady _ _ _ rfl)
    (learnAtStart_steady _ _)

theorem changePresent_steady (i : SlotNo) (v : Level) (s : State) : Steady s (s.changePresent i v) := by
  unfold State.changePresent
  dsimp only
  refine Steady.ite (Steady.trans (setMonitor_steady _ _ _ ?_) (settleStart_steady _ _)) (setMonitor_steady _ _ _ ?_) <;> rfl

theorem changeBolt_steady (i : SlotNo) (v : BoltReading) (s : State) : Steady s (s.changeBolt i v) := by
  unfold State.changeBolt
  dsimp only
  refine Steady.ite (Steady.trans (setMonitor_steady _ _ _ ?_) (learnAtStart_steady _ _)) (setMonitor_steady _ _ _ ?_) <;> rfl

/-- A change of one slot's monitor record and, at once, of its charge record. -/
theorem monitorCharge_steady (i : SlotNo) (m : MonitorSlot) (f : State → State) (g : ChargeSlot → ChargeSlot) (s : State)
    (n : ∀ u, Steady u (f u)) (nk : ∀ u, Keeps [.queue] u (f u))
    (r : (g (s.charge.get i)).Right s.cfg m.cable (s.share.slotAlloc.get i)) (v : (g (s.charge.get i)).Served m.cable)
    (d : (g (s.charge.get i)).demand = (s.charge.get i).demand) :
    Steady s ((f (s.setMonitor i m)).chargeEvent i g) := by
  refine Steady.trans ?_ (settled_steady _)
  have k := nk (s.setMonitor i m)
  have st := n (s.setMonitor i m)
  have gk := updateCharge_keeps i g (f (s.setMonitor i m))
  have ch : (f (s.setMonitor i m)).charge = s.charge := k .charge (by decide)
  have mo : (f (s.setMonitor i m)).monitor = setAt s.monitor i m := k .monitor (by decide)
  have cf : (f (s.setMonitor i m)).cfg = s.cfg := k .cfg (by decide)
  have sa : (f (s.setMonitor i m)).share.slotAlloc = s.share.slotAlloc := (k .share (by decide)).2.2.2.2.2.2.2
  have c1 : Steady s (f (s.setMonitor i m)) ∨ True := .inr trivial
  refine ⟨?_, ?_, ?_, ?_, ?_⟩
  · exact CountsUp.trans (CountsUp.trans (t := s.setMonitor i m) (counts_of_eq rfl rfl) st.counts) (updateCharge_counts _ _ _)
  · intro w
    exact claims_of_eq (gk .clock (by decide)) (gk .cfg (by decide)) (gk .claimList (by decide))
      (st.claims (claims_of_eq (s := s) rfl rfl rfl w))
  · intro w
    exact bolts_of_eq (gk .clock (by decide)) (gk .latch (by decide)) (gk .requests (by decide)).2.1
      (st.bolts (bolts_of_eq (s := s) rfl rfl rfl w))
  · intro w
    refine updateCharge_power _ _ _ ?_ ?_ ?_
    · intro j q
      rw [ch, mo, cf, sa, get_setAt_ne _ _ _ _ q]
      exact w j
    · rw [ch, mo, cf, sa, get_setAt_same]; exact r
    · rw [ch, mo, get_setAt_same]; exact v
  · intro w
    have w' : (s.setMonitor i m).ShareRight := w
    have u := st.share w'
    unfold State.ShareRight at u ⊢
    have q := updateCharge_share i g (f (s.setMonitor i m))
    rw [sums_of_demand (updateCharge_demand i g _ (by rw [ch]; exact d)),
      cappedTarget_of_eq (s := f (s.setMonitor i m)) (by rw [q]) (by rw [q]) (by rw [q]) (by rw [q]) (by rw [q])
        (gk .cfg (by decide)), q]
    exact u

theorem cableClassOf_valid (c : Option Nat) (h : cableClassOf c ≠ .invalid) : (cableClassOf c).Valid := by
  have k : (cableClassOf c).Valid ∨ cableClassOf c = .invalid := by
    unfold cableClassOf CableClass.Valid
    split
    · exact .inr rfl
    · split
      · exact .inl (.inl rfl)
      · split
        · exact .inl (.inr (.inl rfl))
        · split
          · exact .inl (.inr (.inr rfl))
          · exact .inr rfl
  exact k.resolve_right h

theorem insert_right (cfg : Record) (ms p : Nat) (cable : CableClass) (c : ChargeSlot) :
    (c.insert cfg ms p cable).Right cfg cable p := by
  unfold ChargeSlot.insert
  dsimp only
  split
  · exact ⟨rfl, rfl⟩
  · exact enterDetect_right _ _ _ _ _

theorem enterDetect_served (ms p : Nat) (cable : CableClass) (c : ChargeSlot) (h : cable.Valid) :
    (c.enterDetect ms p).Served cable := by
  unfold ChargeSlot.enterDetect
  dsimp only
  split <;> exact h

theorem insert_served (cfg : Record) (ms p : Nat) (r : Option Nat) (c : ChargeSlot) :
    (c.insert cfg ms p (cableClassOf r)).Served (cableClassOf r) := by
  unfold ChargeSlot.insert
  dsimp only
  split
  · exact trivial
  · next h => exact enterDetect_served _ _ _ _ (cableClassOf_valid r h)

theorem insert_demand (cfg : Record) (ms p : Nat) (cable : CableClass) (c : ChargeSlot) :
    (c.insert cfg ms p cable).demand = c.demand := by
  unfold ChargeSlot.insert ChargeSlot.enterDetect readyByCharge
  dsimp only
  split
  · rfl
  · split <;> rfl

theorem insert_steady (i : SlotNo) (c : Option Nat) (f : Bool) (s : State) : Steady s (s.insert i c f) := by
  unfold State.insert
  dsimp only
  generalize hm : ({ s.monitor.get i with
    codePin := c, cable := cableClassOf c, presence := .present none, q := 0, remainder := 0
    periodEnd := some (momentAfter s.clock integrationMs), periodSum := 0 } : MonitorSlot) = m
  have mc : m.cable = cableClassOf c := by subst hm; rfl
  have nk := notice_keeps .inserted (some i) (cableCode (cableClassOf c)) (s.setMonitor i m)
  have h : Steady s (((((s.setMonitor i m).notice .inserted (some i) (cableCode (cableClassOf c))).chargeEvent i
      (ChargeSlot.insert ((s.setMonitor i m).notice .inserted (some i) (cableCode (cableClassOf c))).cfg
        ((s.setMonitor i m).notice .inserted (some i) (cableCode (cableClassOf c))).clock
        (((s.setMonitor i m).notice .inserted (some i) (cableCode (cableClassOf c))).share.slotAlloc.get i)
        (cableClassOf c))).latchInsertion i f)) := by
    refine Steady.trans (monitorCharge_steady i m (State.notice .inserted (some i) (cableCode (cableClassOf c))) _ s
      (notice_steady _ _ _) (notice_keeps _ _ _) ?_ ?_ ?_) (latchInsertion_steady _ _ _)
    · rw [mc, (nk .cfg (by decide) : _ = s.cfg), ((nk .share (by decide)).2.2.2.2.2.2.2 : _ = s.share.slotAlloc)]
      exact insert_right _ _ _ _ _
    · rw [mc]; exact insert_served _ _ _ _ _
    · exact insert_demand _ _ _ _ _
  exact Steady.ite (h.trans (settleStart_steady _ _)) h

theorem failQueued_steady (i : SlotNo) (s : State) : Steady s (s.failQueued i) :=
  (steady_foldl _ (fun _ _ => reportRun_steady _ _ _ _ _) _ _).trans ((setPlan_steady _ _ _))

theorem planExtraction_steady (i : SlotNo) (s : State) : Steady s (s.planExtraction i) :=
  (((setPlan_steady _ _ _)).trans (finishHead_steady _ _ _ _)).trans
    ((failQueued_steady _ _))

theorem extract_steady (i : SlotNo) (s : State) : Steady s (s.extract i) := by
  unfold State.extract
  dsimp only
  refine (((((monitorCharge_steady i _ (State.notice .extracted (some i) (s.monitor.get i).q) ChargeSlot.extract s
    (notice_steady _ _ _) (notice_keeps _ _ _) ?_ ?_ ?_).trans (latchExtraction_steady _ _)).trans
    (setCustody_steady _ _ _)).trans (planExtraction_steady _ _)).trans (leaveWaitList_steady _ _)).trans
    (forceRelease_steady _ _)
  · exact ⟨rfl, rfl⟩
  · exact trivial
  · rfl

/-- A record that faults: right whatever the cause, and served if the slot was served or waits for no retry. -/
theorem enterFaulted_served (ms : Nat) (m : MonitorSlot) (k : FaultKind) (c : ChargeSlot) (cable : CableClass)
    (h : c.Served cable) (n : c.phase ≠ .off) (r : ∀ x, c.phase = .faulted x none → ¬ (k = .overCurrent ∧ c.retries < maxRetries)) :
    (c.enterFaulted ms m k).Served cable := by
  unfold ChargeSlot.enterFaulted
  unfold ChargeSlot.Served at *
  split at h
  · next e => exact absurd e n
  · next x e => simp only [if_neg (r x e)]
  · dsimp only; split <;> first | exact h | trivial

theorem readyByCharge_served (cfg : Record) (q : Nat) (c : ChargeSlot) (cable : CableClass) (h : c.Served cable) :
    (readyByCharge cfg q c).Served cable := h

theorem publish_served (cfg : Record) (ms a : Nat) (c : ChargeSlot) (cable : CableClass) (h : c.Served cable) :
    (c.publish cfg ms a).Served cable := h

theorem enter_served (cfg : Record) (m : MonitorSlot) (p : Nat) (dest : ChargePhase) (c : ChargeSlot) (cable : CableClass)
    (h : cable.Valid) : (c.enter cfg m p dest).Served cable := by
  unfold ChargeSlot.enter
  split <;> exact h

theorem enter_demand (cfg : Record) (m : MonitorSlot) (p : Nat) (dest : ChargePhase) (c : ChargeSlot) :
    (c.enter cfg m p dest).demand = c.demand := by
  unfold ChargeSlot.enter
  split <;> rfl

theorem enterDetect_demand (ms p : Nat) (c : ChargeSlot) : (c.enterDetect ms p).demand = c.demand := by
  unfold ChargeSlot.enterDetect
  dsimp only
  split <;> rfl

/-- A slot whose phase can go on charging has a valid class. -/
theorem valid_of_served {cable : CableClass} {c : ChargeSlot} (h : c.Served cable) (n : c.phase ≠ .off)
    (m : ∀ k, c.phase ≠ .faulted k none) : cable.Valid := by
  unfold ChargeSlot.Served at h
  split at h
  · next e => exact absurd e n
  · next k e => exact absurd e (m k)
  · exact h

theorem enterPhase_steady (i : SlotNo) (dest : ChargePhase) (s : State)
    (h : s.PowerRight → (s.monitor.get i).cable.Valid) : Steady s (s.enterPhase i dest) :=
  chargeEvent_steady _ _ _ (fun _ => enter_right _ _ _ _ _) (fun w => enter_served _ _ _ _ _ _ (h w)) (enter_demand _ _ _ _ _)

theorem endDetect_steady (i : SlotNo) (s : State) (t : Option Nat) (h : (s.charge.get i).phase = .detect t) :
    Steady s (s.endDetect i) := by
  have v : s.PowerRight → (s.monitor.get i).cable.Valid := fun w =>
    valid_of_served (w i).2 (by rw [h]; nofun) (by rw [h]; nofun)
  exact Steady.ite (chargeEvent_steady _ _ _ (fun _ => enterRestart_right _ _ _ _ _ _ _ _ _ _) v rfl)
    (enterPhase_steady i .bulk s v)

theorem judges_ne {p : Phase} (h : p.judgesCurrent = true) : p ≠ .off ∧ ∀ k r, p ≠ .faulted k r := by
  cases p <;> simp_all [Phase.judgesCurrent]

theorem faultSlot_steady (i : SlotNo) (k : FaultKind) (f : ChargeSlot → ChargeSlot) (s : State)
    (j : (s.charge.get i).phase.judgesCurrent = true) (p : ∀ c, (f c).phase = c.phase) (d : ∀ c, (f c).demand = c.demand) :
    Steady s (s.faultSlot i k f) := by
  have n := notice_keeps .chargeFault (some i) (faultDetail k) s
  have ch : (s.notice .chargeFault (some i) (faultDetail k)).charge = s.charge := n .charge (by decide)
  unfold State.faultSlot
  refine (notice_steady _ _ _ _).trans (chargeEvent_steady _ _ _ (fun w => enterFaulted_right _ _ _ _ _ _ _) (fun w => ?_) (d _))
  have e := judges_ne j
  rw [ch]
  refine enterFaulted_served _ _ _ _ _ ?_ (by rw [p]; exact e.1) (fun x q => absurd ((p _).symm.trans q) (e.2 _ _))
  have q := (w i).2
  rw [ch] at q
  have v := valid_of_served q e.1 (fun k => e.2 k none)
  unfold ChargeSlot.Served
  split <;> trivial

theorem overVoltage_judges (v : Nat) (c : ChargeSlot) (h : overVoltage v c = true) : c.phase.judgesCurrent = true := by
  unfold overVoltage at h
  cases q : c.phase <;> simp_all [Phase.judgesCurrent]

theorem publish_right (cfg : Record) (ms a p : Nat) (cable : CableClass) (c : ChargeSlot) (h : c.Right cfg cable p) :
    (c.publish cfg ms a).Right cfg cable p := h

theorem publish_steady (i : SlotNo) (v a : Nat) (s : State) : Steady s (s.publish i v a) := by
  unfold State.publish
  dsimp only
  generalize hm : ({ s.monitor.get i with volts := v, amps := a, samples := 0, voltSum := 0, ampSum := 0 } : MonitorSlot) = m
  have h : Steady s (s.setMonitor i m) := setMonitor_steady _ _ _ (by subst hm; rfl)
  split
  · next o =>
    exact h.trans (faultSlot_steady _ _ _ _ (overVoltage_judges _ _ o) (fun _ => rfl) (fun _ => rfl))
  · exact h.trans (chargeEvent_steady _ _ _ (fun w => publish_right _ _ _ _ _ _ (w i).1)
      (fun w => publish_served _ _ _ _ _ (w i).2) rfl)

theorem integrate_steady (i : SlotNo) (m e : Nat) (s : State) : Steady s (s.integrate i m e) :=
  Steady.trans (t := s.setMonitor i ((s.monitor.get i).integrate m e)) (setMonitor_steady _ _ _ rfl)
    (chargeEvent_steady _ _ _ (fun w => (w i).1) (fun w => (w i).2) rfl)

theorem retry_steady (i : SlotNo) (s : State) (k : FaultKind) (t : Nat) (h : (s.charge.get i).phase = .faulted k (some t)) :
    Steady s (s.chargeEvent i (fun c => { c with retries := c.retries + 1 }.enterDetect s.clock (s.share.slotAlloc.get i))) :=
  chargeEvent_steady _ _ _ (fun _ => enterDetect_right _ _ _ _ _)
    (fun w => enterDetect_served _ _ _ _ (valid_of_served (w i).2 (by rw [h]; nofun) (by rw [h]; nofun)))
    (enterDetect_demand _ _ _)

theorem passDue_steady (i : SlotNo) (s : State) : Steady s (s.passDue i) :=
  ((setCustody_steady _ _ _)).trans ((settled_steady _))

/-! ## Share Unit -/

/-- What stands before a computation that will set the Share Unit's results. -/
structure Almost (s u : State) : Prop where
  counts : CountsUp s u
  claims : s.ClaimsWithin → u.ClaimsWithin
  bolts : s.BoltsClaimed → u.BoltsClaimed
  power : s.PowerRight → u.PowerRight
  sums : s.share.own = s.sums → u.share.own = u.sums

theorem Almost.trans {s t u : State} (h : Almost s t) (k : Almost t u) : Almost s u :=
  ⟨h.counts.trans k.counts, fun w => k.claims (h.claims w), fun w => k.bolts (h.bolts w), fun w => k.power (h.power w),
    fun w => k.sums (h.sums w)⟩

theorem Almost.refl (s : State) : Almost s s := ⟨CountsUp.refl s, id, id, id, id⟩

theorem Almost.ite {s t u : State} {c : Prop} [Decidable c] (h : Almost s t) (k : Almost s u) :
    Almost s (if c then t else u) := by split <;> assumption

theorem Almost.of_steady {s u : State} (h : Steady s u) (o : u.share.own = s.share.own) (c : u.charge = s.charge) :
    Almost s u := ⟨h.counts, h.claims, h.bolts, h.power, fun w => by rw [o, sums_of_eq c]; exact w⟩

theorem Almost.compute {s u : State} (r : Bool) (h : Almost s u) : Steady s (u.compute r) :=
  compute_steady r h.counts h.claims h.bolts h.power h.sums

/-- The Share Unit's fields change, but for the own sums and the slot allocations. -/
theorem share_almost {s : State} (x : Share) (o : x.own = s.share.own) (a : x.slotAlloc = s.share.slotAlloc) :
    Almost s { s with share := x } :=
  ⟨counts_of_eq rfl rfl, claims_of_eq rfl rfl rfl, bolts_of_eq rfl rfl rfl, power_of_eq rfl rfl a rfl,
    fun w => by show x.own = s.sums; rw [o]; exact w⟩

theorem notice_almost (k : NoticeKind) (i : Option SlotNo) (d : Nat) (s : State) : Almost s (s.notice k i d) :=
  Almost.of_steady (notice_steady _ _ _ _) (notice_keeps k i d s .share (by decide)).1 (notice_keeps k i d s .charge (by decide))

theorem setSilence_almost (t : Option Nat) (s : State) : Almost s (s.setSilence t) := share_almost _ rfl rfl
theorem setPeer_almost (a : Station) (x : Option Peer) (s : State) : Almost s (s.setPeer a x) := share_almost _ rfl rfl
theorem setCeilings_almost (rs : List CeilingRecord) (s : State) : Almost s (s.setCeilings rs) := share_almost _ rfl rfl

theorem changeShare_almost (x : ShareState) (s : State) : Almost s (s.changeShare x) := by
  unfold State.changeShare
  exact Almost.ite (Almost.refl _)
    (Almost.trans (t := { s with share := { s.share with state := x } }) (share_almost _ rfl rfl) (notice_almost _ _ _ _))

theorem enterJoined_almost (s : State) : Almost s s.enterJoined := (setSilence_almost _ _).trans (changeShare_almost _ _)
theorem enterIsolated_almost (s : State) : Almost s s.enterIsolated := (setSilence_almost _ _).trans (changeShare_almost _ _)

theorem countListen_almost (s : State) : Almost s s.countListen := by
  unfold State.countListen
  have h : ∀ n, Almost s { s with share := { s.share with listenCount := n } } := fun n => share_almost _ rfl rfl
  exact Almost.ite (Almost.ite (h _) (Almost.ite ((h _).trans (enterJoined_almost _)) ((h _).trans (enterIsolated_almost _))))
    (Almost.refl _)

theorem handNeed_almost (s : State) : Almost s s.handNeed := by
  have k := handNeed_keeps s
  exact ⟨handNeed_counts s, claims_of_eq rfl rfl rfl, bolts_of_eq rfl rfl rfl, power_of_eq rfl rfl rfl rfl, id⟩

theorem handNeed_steady (s : State) : Steady s s.handNeed :=
  ⟨handNeed_counts s, claims_of_eq rfl rfl rfl, bolts_of_eq rfl rfl rfl, power_of_eq rfl rfl rfl rfl, id⟩

theorem report_steady (s : State) : Steady s s.report := by
  unfold State.report
  refine Almost.compute true ((Almost.trans (t := { s with share := { s.share with
    reportAt := momentAfter s.share.reportAt s.cfg.reportPeriod } }) (share_almost _ rfl rfl) (countListen_almost _)).trans
    (handNeed_almost _))

theorem spaceNeed_steady (s : State) : Steady s s.spaceNeed := by
  unfold State.spaceNeed
  exact Steady.ite (handNeed_steady s)
    ⟨counts_of_eq rfl rfl, claims_of_eq rfl rfl rfl, bolts_of_eq rfl rfl rfl, power_of_eq rfl rfl rfl rfl, id⟩

theorem takeCeiling_steady (src : Source) (p : List Byte) (s : State) : Steady s (s.takeCeiling src p) := by
  unfold State.takeCeiling
  split
  · exact (setCeilings_almost _ _).compute false
  · exact Steady.refl _

theorem takeNeed_steady (a : Station) (p : List Byte) (s : State) : Steady s (s.takeNeed a p) := by
  unfold State.takeNeed
  have h : ∀ x, Almost s (s.setPeer a x) := fun x => setPeer_almost _ _ _
  exact (Almost.ite ((h _).trans (enterJoined_almost _)) (h _)).compute false

theorem takeLeave_steady (a : Station) (s : State) : Steady s (s.takeLeave a) := (setPeer_almost _ _ _).compute false

theorem watchPeer_steady (s : State) : Steady s s.watchPeer := by
  unfold State.watchPeer
  split
  · exact ⟨counts_of_eq rfl rfl, claims_of_eq rfl rfl rfl, bolts_of_eq rfl rfl rfl, power_of_eq rfl rfl rfl rfl, id⟩
  · exact ⟨counts_of_eq rfl rfl, claims_of_eq rfl rfl rfl, bolts_of_eq rfl rfl rfl, power_of_eq rfl rfl rfl rfl, id⟩
  · exact Steady.refl _
  · exact Steady.refl _

theorem clash_steady (s : State) : Steady s s.clash := by
  unfold State.clash
  have h : ∀ u, Almost u u.withdrawClaims := fun u => Almost.of_steady (withdrawClaims_steady u) rfl rfl
  exact Steady.ite (Steady.refl _) (Almost.compute false (((setSilence_almost _ _).trans (changeShare_almost _ _)).trans (h _)))

theorem watch_steady (src : Source) (s : State) : Steady s (s.watch src) := by
  unfold State.watch
  split
  · exact Steady.refl _
  · exact Steady.ite (clash_steady s) (watchPeer_steady s)

/-! ## Custody Unit -/

theorem forceSlot_steady (i : SlotNo) (s : State) : Steady s (s.forceSlot i) :=
  (finishHead_steady _ _ _ _).trans ((forceRelease_steady _ _))

theorem finishOpen_steady (k : PermitKind) (n : Nat) (i : SlotNo) (s : State) :
    Steady s (s.finishOpen k n i).1 := by
  unfold State.finishOpen
  split
  · exact Steady.refl _
  · exact grantRelease_steady _ _

theorem judgeOpen_steady (k : PermitKind) (n : Nat) (f : Bool) (i : SlotNo) (s : State) :
    Steady s (s.judgeOpen k n f i).1 := by
  unfold State.judgeOpen
  split
  · exact Steady.refl _
  split
  · split
    · exact ((forceSlot_steady _ _)).trans ((finishOpen_steady _ _ _ _))
    · exact Steady.refl _
  · exact (finishOpen_steady _ _ _ _)

theorem judgeDue_steady (n : Nat) (i : SlotNo) (s : State) : Steady s (s.judgeDue n i).1 :=
  ((setCustody_steady _ _ _)).trans ((settled_steady _))

theorem judgeLift_steady (n : Nat) (i : SlotNo) (s : State) : Steady s (s.judgeLift n i).1 := by
  unfold State.judgeLift
  split
  · exact Steady.refl _
  split
  · exact Steady.refl _
  split
  · exact ((setHold_steady _ _ _)).trans ((relearn_steady _ _))
  · exact (setHold_steady _ _ _)

theorem judgeSlot_steady (p : Permit) (k : PermitKind) (i : SlotNo) (s : State) :
    Steady s (s.judgeSlot p k i).1 := by
  unfold State.judgeSlot
  split
  · exact judgeOpen_steady _ _ _ _ _
  · exact judgeOpen_steady _ _ _ _ _
  · split
    · exact (judgeDue_steady _ _ _)
    · exact Steady.refl _
  · split
    · exact (setHold_steady _ _ _)
    · exact Steady.refl _
  · split
    · exact (judgeLift_steady _ _ _)
    · exact Steady.refl _
  · split <;> exact Steady.refl _

theorem addOutcome_steady (a : Answer) (s : State) : Steady s (s.addOutcome a) := custody_steady _ _

theorem judgeSlots_steady (p : Permit) (k : PermitKind) : ∀ (is : List SlotNo) (s : State),
    Steady s (judgeSlots p k is s)
  | [], s => Steady.refl s
  | i :: is, s => ((judgeSlot_steady p k i s).trans ((addOutcome_steady _ _))).trans
      (judgeSlots_steady p k is _)

theorem handVerdict_steady (n : Byte) (src : Source) (f : Nat) (s : State) :
    Steady s (s.handVerdict n src f) := by
  exact (custody_steady _ _).trans (hand_steady _ _)

theorem afterPermit_steady (k : PermitKind) (is : List SlotNo) (s : State) :
    Steady s (s.afterPermit k is) := by
  unfold State.afterPermit
  split
  · exact custody_steady _ _
  · exact (work_steady _ _)

theorem judgeIn_steady (p : Permit) (f : SlotNo) (is : List SlotNo) (s : State) :
    Steady s (s.judgeIn p f is) := by
  unfold State.judgeIn
  dsimp only
  split
  · exact ((steady_foldl _ (fun _ _ => addOutcome_steady _ _) _ _)).trans
      ((handVerdict_steady _ _ _ _))
  · exact ((judgeSlots_steady _ _ _ _).trans ((handVerdict_steady _ _ _ _))).trans
      ((afterPermit_steady _ _ _))

theorem judgePermit_steady (p : Permit) (s : State) : Steady s (s.judgePermit p) := by
  unfold State.judgePermit
  split
  · exact Steady.refl _
  · exact judgeIn_steady _ _ _ _

theorem takePermit_steady (src : Source) (p : List Byte) (s : State) : Steady s (s.takePermit src p) := by
  unfold State.takePermit
  refine Steady.ite ?_ (judgePermit_steady _ _)
  exact custody_steady _ _

/-! ## Frames -/

theorem answer_steady (b : List Byte) (s : State) : Steady s (s.answer b) := by
  exact (free_steady _ _).trans (hand_steady _ _)

theorem takeQuery_steady (src : Source) (p : List Byte) (s : State) : Steady s (s.takeQuery src p) := by
  unfold State.takeQuery
  refine Steady.ite (Steady.refl _) (Steady.ite (answer_steady _ _) (Steady.ite ?_ (Steady.refl _)))
  split
  · exact answer_steady _ _
  · exact Steady.refl _

theorem takeClass2_steady (src : Source) (p : List Byte) (s : State) : Steady s (s.takeClass2 src p) := by
  unfold State.takeClass2
  split
  · exact Steady.refl _
  · exact Steady.ite (takeNeed_steady _ _ _) (takeLeave_steady _ _)

theorem consume_steady (c : Nat) (src : Source) (p : List Byte) (s : State) : Steady s (s.consume c src p) := by
  unfold State.consume
  split
  · exact takeClaim_steady _ _ rfl
  · exact (takeCeiling_steady _ _ _)
  · exact (takeClass2_steady _ _ _)
  · exact (takePermit_steady _ _ _)
  · exact (takeClass5_steady _ _ _)
  · exact (takeQuery_steady _ _ _)
  · exact Steady.refl _

theorem countError_steady (s : State) : Steady s s.countError where
  counts := by
    intro w
    obtain ⟨a, b⟩ := bump_le _ w.1
    exact ⟨⟨b, w.2⟩, a, Nat.le_refl _⟩
  claims := id
  bolts := id
  power := id
  share := id

theorem linePhase_steady (x : LinePhase) (s : State) : Steady s { s with line := { s.line with phase := x } } :=
  steady_of_line _ rfl (fun h => ⟨Nat.le_refl _, h⟩)

theorem abandonFrame_steady (s : State) : Steady s s.abandonFrame := (countError_steady s).trans (linePhase_steady _ _)

theorem frameEnds_steady (s : State) : Steady s { s with line := s.line.frameEnds } := by
  exact linePhase_steady _ _

theorem takeFrame_steady (c : Nat) (src : Source) (p : List Byte) (s : State) : Steady s (s.takeFrame c src p) := by
  unfold State.takeFrame
  refine Steady.ite (Steady.refl _) (Steady.ite (abandonFrame_steady _) ?_)
  have h := ((frameEnds_steady s)).trans
    ((watch_steady src { s with line := s.line.frameEnds }))
  exact Steady.ite (h.trans ((countError_steady _))) (h.trans (consume_steady _ _ _ _))

/-! ## Line Interface -/

theorem setQueue_steady (q : List TxEntry) (s : State) : Steady s (s.setLine { s.line with queue := q }) :=
  steady_of_line _ rfl (fun h => ⟨Nat.le_refl _, h⟩)

theorem setLinePhase_steady (x : LinePhase) (s : State) : Steady s (s.setLine { s.line with phase := x }) :=
  linePhase_steady _ _

theorem attempt_steady (e : TxEntry) (s : State) : Steady s (s.attempt e) :=
  steady_of_line _ rfl (fun h => ⟨Nat.le_refl _, h⟩)

theorem claimGone_steady (f : Bool) (x : TxFrame) (s : State) : Steady s (s.claimGone f x) := by
  unfold State.claimGone
  split
  · exact (endOwnClaim_steady _ _ _ _ _).trans (handClaims_steady _)
  · exact Steady.refl _

theorem backToWaiting_steady (e : TxEntry) (s : State) : Steady s (s.backToWaiting e) :=
  Steady.ite ((setQueue_steady _ _).trans (claimGone_steady _ _ _)) (setQueue_steady _ _)

theorem breakAttempt_steady (e : TxEntry) (s : State) : Steady s (s.breakAttempt e) := by
  unfold State.breakAttempt
  dsimp only
  have h := setLinePhase_steady (.breaking breakBits) s
  have k : ∀ (u : State) (q : List TxEntry), Steady u (u.setLine { u.line with queue := q }.countLost) := fun u q =>
    steady_of_line _ rfl (fun h => bump_le _ h)
  exact Steady.ite (Steady.trans (h.trans (k _ _)) (claimGone_steady _ _ _))
    (h.trans (backToWaiting_steady _ _))

theorem completeAttempt_steady (e : TxEntry) (s : State) : Steady s (s.completeAttempt e) := by
  unfold State.completeAttempt State.ownFrame
  have h : Steady s (s.setLine { s.line with queue := removeEntry e s.line.queue, phase := .ended idleAfterFrame }) :=
    steady_of_line _ rfl (fun h => ⟨Nat.le_refl _, h⟩)
  split
  · exact h.trans (completeOwnClaim_steady _ _ _ _ _ _)
  · exact h

/-! ## Restart -/

theorem restartShare_steady (s : State) : Steady s s.restartShare := by
  unfold State.restartShare
  exact Almost.compute false (Almost.trans (t := { s with share := { s.share with
    peerHeard := false, listenCount := 0, silenceAt := none, reportAt := momentAfter s.clock s.cfg.reportPeriod
    peers := #v[none, none, none, none, none, none, none, none], ceilings := [], floorShort := false } })
    (share_almost _ rfl rfl) (changeShare_almost _ _))

theorem restartLatch_steady (i : SlotNo) (s : State) : Steady s (s.restartLatch i) := by
  unfold State.restartLatch
  split
  · exact learnLatch_steady _ _
  · exact learnLatch_steady _ _
  · refine setLatch_steady _ _ _ ?_; exact .inl rfl
  · refine setLatch_steady _ _ _ ?_; exact .inl rfl
  · exact Steady.refl _

theorem restartClaims_steady (s : State) : Steady s s.restartClaims where
  counts := counts_of_eq rfl rfl
  claims := fun w => ⟨Nat.zero_le _, fun _ => Nat.zero_le _, Nat.zero_le _⟩
  bolts := by
    refine bolts_of_own (Nat.le_refl _) rfl ?_
    intro x m e he _
    exact List.mem_filter.2 ⟨m, by simp [he]⟩
  power := power_of_eq rfl rfl rfl rfl
  share := id

theorem restartPulses_steady (s : State) : Steady s s.restartPulses :=
  reportReserve_steady ((restartClaims_steady s).trans (steady_forSlots _ (fun i s => restartLatch_steady i s) _ _))

theorem reportRestarted_steady (i : SlotNo) : ∀ (rs : List Run) (s : State),
    Steady s (s.reportRestarted i rs)
  | [], s => Steady.refl s
  | _ :: _, _ => (reportRun_steady _ _ _ _ _).trans (steady_foldl _ (fun _ _ => reportRun_steady _ _ _ _ _) _ _)

theorem restartPlan_steady (i : SlotNo) (s : State) : Steady s (s.restartPlan i) :=
  (reportRestarted_steady _ _ _).trans ((setPlan_steady _ _ _))

theorem restartPlans_steady (s : State) : Steady s s.restartPlans := by
  unfold State.restartPlans
  refine Steady.trans (Steady.trans (t := forSlots allSlots State.restartPlan s)
    ((steady_forSlots _ (fun i s => restartPlan_steady i s) _ _)) ?_) ((settled_steady _))
  exact plans_steady _ _

theorem restartLane_steady (l : LaneNo) (s : State) : Steady s (s.restartLane l) := by
  unfold State.restartLane
  dsimp only
  split
  · exact ((setLane_steady _ _ _)).trans ((detachLane_steady _ _ _))
  · exact ((setLane_steady _ _ _)).trans ((moveLane_steady _ _ _))
  · exact (setLane_steady _ _ _)

theorem restartLanes_steady (s : State) : Steady s s.restartLanes := by
  unfold State.restartLanes
  refine Steady.trans ?_ (steady_foldl _ (fun _ _ => restartLane_steady _ _) _ _)
  exact lanes_steady _ _

theorem restartStages_steady (s : State) : Steady s s.restartStages :=
  (((((hand_steady _ _)).trans ((restartShare_steady _))).trans
    ((restartPulses_steady _))).trans ((restartPlans_steady _))).trans
    ((restartLanes_steady _))

theorem judgeWaiting_steady : ∀ (ps : List (Source × List Byte)) (s : State), Steady s (judgeWaiting ps s)
  | [], s => Steady.refl s
  | (src, p) :: rest, s => by
    unfold judgeWaiting
    refine Steady.ite ?_ ((judgePermit_steady _ _).trans (judgeWaiting_steady rest _))
    exact custody_steady _ _

theorem completeRestart_steady (s : State) : Steady s s.completeRestart := by
  unfold State.completeRestart
  refine Steady.trans ?_ (judgeWaiting_steady _ _)
  exact custody_steady _ _

end Sys2Proof.Machine
end

