-- ==== Sys2Proof/Laws/Start.lean ====
section
/-! SUPPORT. The Start-up Loader: what the start of the blocks leaves, and how its commands stand apart from the others. -/

namespace Sys2Proof.Machine

theorem exec_next (c : Instr) (s : State) : ∃ t, exec c s = .next t := by
  cases c <;> exact ⟨_, rfl⟩

theorem loader_cases (c : Instr) (h : isLoaderCommand c = true) : c = .powerOn ∨ (∃ n, c = .pinReset n) ∨
    (∃ x y z, c = .resetRelease x y z) ∨ (∃ x, c = .configReadTimeout x) ∨ ∃ b, c = .endOfReset b := by
  cases c <;> simp_all [isLoaderCommand]

/-- While the part is held in reset or loads its record, no other command acts. -/
theorem nonloader_waits (c : Instr) (s : State) (h : isLoaderCommand c = false) (m : s.mode ≠ .running) :
    exec c s = .next s := by
  cases c <;> simp only [isLoaderCommand, reduceCtorEq] at h <;> exact congrArg Host.Outcome.next (if_neg m)

theorem startBlocks_default (s : State) : s.startBlocks {} true =
  let c := s.clearBlocks
  { c with
    baseAt := s.clock, mode := .running, cfg := {}, defaulted := true
    monitor := sixOf (fun i => (c.monitor.get i).atStart true)
    share := { reportAt := momentAfter s.clock 500 }
    lamps := { position := 0, nextAt := momentAfter s.clock blinkMs }
    line := { queue := [{ frame := .notice .configDefaulted none 0, order := 0 }], nextOrder := 1 } } := by
  rw [State.startBlocks, if_pos rfl, State.notice,
    if_pos (show ({} : Record).noticeMask.getLsbD (noticeCode NoticeKind.configDefaulted - 1) = true by decide)]
  have h : ∀ i : SlotNo, (63 : BitVec 6).getLsbD i.val = true := by decide
  simp only [h, State.hand]
  rfl

theorem startBlocks_good (r : Record) (s : State) : s.startBlocks r false =
  let c := s.clearBlocks
  { c with
    baseAt := s.clock, mode := .running, cfg := r, defaulted := false
    monitor := sixOf (fun i => (c.monitor.get i).atStart (r.fittedMask.getLsbD i.val))
    share := { reportAt := momentAfter s.clock r.reportPeriod }
    lamps := { position := 0, nextAt := momentAfter s.clock blinkMs } } := rfl

theorem forLanes {P : LaneNo → Prop} : P 0 → P 1 → P 2 → P 3 → ∀ l, P l := by
  intro a b c d l
  match l with
  | ⟨0, _⟩ => exact a
  | ⟨1, _⟩ => exact b
  | ⟨2, _⟩ => exact c
  | ⟨3, _⟩ => exact d

theorem forSix {P : SlotNo → Prop} : P 0 → P 1 → P 2 → P 3 → P 4 → P 5 → ∀ l, P l := by
  intro a b c d e f l
  match l with
  | ⟨0, _⟩ => exact a
  | ⟨1, _⟩ => exact b
  | ⟨2, _⟩ => exact c
  | ⟨3, _⟩ => exact d
  | ⟨4, _⟩ => exact e
  | ⟨5, _⟩ => exact f

theorem atStart_started (f : Bool) (m : MonitorSlot) : (m.atStart f).Started f := by
  cases f <;> constructor <;> simp [MonitorSlot.atStart, MonitorSlot.pinsOf]

theorem startBlocks_started (r : Record) (d : Bool) (s : State) (hd : d = true → r = {}) :
    (s.startBlocks r d).Started ∧
    (s.startBlocks r d).cfg = r ∧ (s.startBlocks r d).defaulted = d ∧ (s.startBlocks r d).address = s.address ∧
    PinsSame s (s.startBlocks r d) ∧ (s.startBlocks r d).pending = s.pending ∧ (s.startBlocks r d).clock = s.clock := by
  cases d
  · rw [startBlocks_good]
    refine ⟨?_, rfl, rfl, rfl, ?_, rfl, rfl⟩
    · constructor
      case monitor => intro i; simp only [sixOf_get]; exact atStart_started _ _
      case charge => exact forSix rfl rfl rfl rfl rfl rfl
      case latch => exact forSix rfl rfl rfl rfl rfl rfl
      case lane => exact forLanes ⟨rfl, rfl, rfl, rfl⟩ ⟨rfl, rfl, rfl, rfl⟩ ⟨rfl, rfl, rfl, rfl⟩ ⟨rfl, rfl, rfl, rfl⟩
      case line => exact ⟨rfl, rfl, rfl⟩
      all_goals rfl
    · refine ⟨?_, ?_, rfl⟩
      · intro i
        simp only [sixOf_get, MonitorSlot.atStart, State.clearBlocks]
        split <;> exact ⟨rfl, rfl, rfl, rfl, rfl⟩
      · exact forLanes ⟨rfl, rfl⟩ ⟨rfl, rfl⟩ ⟨rfl, rfl⟩ ⟨rfl, rfl⟩
  · have := hd rfl
    subst this
    rw [startBlocks_default]
    refine ⟨?_, rfl, rfl, rfl, ?_, rfl, rfl⟩
    · constructor
      case monitor =>
        intro i; simp only [sixOf_get]
        have h : ∀ i : SlotNo, (63 : BitVec 6).getLsbD i.val = true := by decide
        simp only [h]
        exact atStart_started _ _
      case charge => exact forSix rfl rfl rfl rfl rfl rfl
      case latch => exact forSix rfl rfl rfl rfl rfl rfl
      case lane => exact forLanes ⟨rfl, rfl, rfl, rfl⟩ ⟨rfl, rfl, rfl, rfl⟩ ⟨rfl, rfl, rfl, rfl⟩ ⟨rfl, rfl, rfl, rfl⟩
      case line => exact ⟨rfl, rfl, rfl⟩
      all_goals rfl
    · refine ⟨?_, ?_, rfl⟩
      · intro i
        simp only [sixOf_get, MonitorSlot.atStart, State.clearBlocks]
        exact ⟨rfl, rfl, rfl, rfl, rfl⟩
      · exact forLanes ⟨rfl, rfl⟩ ⟨rfl, rfl⟩ ⟨rfl, rfl⟩ ⟨rfl, rfl⟩

theorem attention_of_defaulted (t : State) (h : t.mode = .running) (d : t.defaulted = true) : t.attention = true := by
  simp [State.attention, h, d]

theorem recordGood_iff (b : List Byte) : recordGood b = true ↔ HoldsRecord b := by
  simp [recordGood, HoldsRecord, recordSum]

theorem default_inRange : ({} : Record).InRange := by
  constructor <;> decide

theorem recordOf_inRange (b : List Byte) : (recordOf b).InRange := by
  constructor
  case sourceLevels =>
    intro k
    match k with
    | ⟨0, _⟩ => exact Nat.min_le_left _ _
    | ⟨1, _⟩ => exact Nat.min_le_left _ _
    | ⟨2, _⟩ => exact Nat.min_le_left _ _
    | ⟨3, _⟩ => exact Nat.min_le_left _ _
    | ⟨4, _⟩ => exact Nat.min_le_left _ _
    | ⟨5, _⟩ => exact Nat.min_le_left _ _
    | ⟨6, _⟩ => exact Nat.min_le_left _ _
    | ⟨7, _⟩ => exact Nat.min_le_left _ _
  all_goals simp only [recordOf, clamp]
  all_goals omega

end Sys2Proof.Machine
end

