-- ==== Sys2Proof/Laws/Queue.lean ====
section
/-! SUPPORT. The transmit queue only grows through the operations of the blocks, but for CLAIM entries and the content of a
NEED. -/

namespace Sys2Proof.Machine

theorem Grows.refl (s : State) : Grows s s := fun _ m _ _ => m

theorem Grows.trans {s t u : State} (h : Grows s t) (k : Grows t u) : Grows s u :=
  fun e m a b => k e (h e m a b) a b

theorem Grows.ite {s t u : State} {c : Prop} [Decidable c] (h : Grows s t) (k : Grows s u) :
    Grows s (if c then t else u) := by split <;> assumption

theorem grows_foldl {α : Type} (f : State → α → State) (h : ∀ s a, Grows s (f s a)) :
    ∀ (l : List α) (s : State), Grows s (l.foldl f s)
  | [], s => Grows.refl s
  | a :: l, s => (h s a).trans (grows_foldl f h l (f s a))

theorem grows_forSlots (f : SlotNo → State → State) (h : ∀ i s, Grows s (f i s)) (ks : List SlotNo) (s : State) :
    Grows s (forSlots ks f s) := grows_foldl (fun t k => f k t) (fun t k => h k t) ks s

theorem Grows.of_queue {s t : State} (h : t.line.queue = s.line.queue) : Grows s t := by
  intro e m _ _; rw [h]; exact m

theorem Grows.of_keeps {ps : List Part} {s t : State} (h : Keeps ps s t) (n : .queue ∉ ps) : Grows s t :=
  Grows.of_queue (h .queue n).1

/-! ## The transmit queue's own operations -/

theorem mem_insertEntry (e x : TxEntry) : ∀ q : List TxEntry, x ∈ insertEntry e q ↔ x = e ∨ x ∈ q
  | [] => by simp [insertEntry]
  | y :: ys => by
    unfold insertEntry
    split
    · simp only [List.mem_cons, mem_insertEntry e x ys]; tauto
    · simp only [List.mem_cons]

theorem lineHand_mem (f : TxFrame) (l : Line) (e : TxEntry) (m : e ∈ l.queue) : e ∈ (l.hand f).queue := by
  unfold Line.hand
  split
  · exact m
  · exact (mem_insertEntry _ _ _).2 (.inr m)

/-- A frame handed where a general place is free, or a CLAIM, waits in the queue (R148). -/
theorem hand_waits (f : TxFrame) (s : State) (h : f.isClaim = true ∨ s.line.generalUsed < generalPlaces) :
    (s.hand f).Waits f := by
  refine ⟨{ frame := f, order := s.line.nextOrder }, ?_, rfl, rfl⟩
  show _ ∈ (Line.hand f s.line).queue
  unfold Line.hand
  rw [if_neg]
  · exact (mem_insertEntry _ _ _).2 (.inl rfl)
  · rcases h with h | h
    · simp [h]
    · simp; intro _; exact h

theorem hand_grows (f : TxFrame) (s : State) : Grows s (s.hand f) := fun e m _ _ => lineHand_mem f s.line e m

theorem mem_refreshNeed (f : TxFrame) (e : TxEntry) (n : e.frame.isNeed = false) :
    ∀ q : List TxEntry, e ∈ q → e ∈ refreshNeed f q
  | [], m => m
  | x :: xs, m => by
    unfold refreshNeed
    rcases List.mem_cons.1 m with rfl | h
    · rw [if_neg (by simp [n])]; exact List.mem_cons_self
    · split
      · exact List.mem_cons_of_mem _ h
      · exact List.mem_cons_of_mem _ (mem_refreshNeed f e n xs h)

theorem handNeed_grows (s : State) : Grows s s.handNeed := by
  intro e m _ b
  show e ∈ (Line.handNeed _ s.line).queue
  unfold Line.handNeed
  split
  · exact mem_refreshNeed _ e b _ m
  · exact lineHand_mem _ _ e m

theorem Waits.grows {f : TxFrame} {s t : State} (h : s.Waits f) (c : f.isClaim = false) (n : f.isNeed = false)
    (g : Grows s t) : t.Waits f := by
  obtain ⟨e, m, ef, es⟩ := h
  exact ⟨e, g e m (ef ▸ c) (ef ▸ n), ef, es⟩

/-- A notice handed first thing is still there after whatever grows the queue. -/
theorem noticed_of {s u t : State} (k : NoticeKind) (i : Option SlotNo) (d : Nat) (c : u.cfg = s.cfg)
    (q : u.line = s.line) (g : Grows (u.notice k i d) t) : Noticed s t k i d := by
  intro m r
  refine Waits.grows ?_ rfl rfl g
  unfold State.notice
  rw [if_pos (by rw [c]; exact m)]
  exact hand_waits _ _ (.inr (by rw [q]; exact r))

theorem isFrame_claim {c : OwnClaim} {f : TxFrame} (h : c.isFrame f = true) : f.isClaim = true := by
  cases f <;> simp_all [OwnClaim.isFrame, TxFrame.isClaim]

theorem mem_withdrawWaiting (e : TxEntry) (h : e.frame.isClaim = false) (q : List TxEntry) (m : e ∈ q) :
    e ∈ withdrawWaiting q := by
  unfold withdrawWaiting
  rw [List.mem_map]
  exact ⟨e, List.mem_filter.2 ⟨m, by simp [h]⟩, by simp [h]⟩

/-! ## Every operation -/

theorem reach_grows (t : Nat) (s : State) : Grows s (s.reach t) :=
  Grows.of_keeps (reach_keeps _ _) (by decide)

theorem setMonitor_grows (i : SlotNo) (m : MonitorSlot) (s : State) : Grows s (s.setMonitor i m) :=
  Grows.of_keeps (setMonitor_keeps _ _ _) (by decide)

theorem setCharge_grows (i : SlotNo) (c : ChargeSlot) (s : State) : Grows s (s.setCharge i c) :=
  Grows.of_keeps (setCharge_keeps _ _ _) (by decide)

theorem setLatch_grows (i : SlotNo) (l : LatchSlot) (s : State) : Grows s (s.setLatch i l) :=
  Grows.of_keeps (setLatch_keeps _ _ _) (by decide)

theorem setCustody_grows (i : SlotNo) (c : CustodySlot) (s : State) : Grows s (s.setCustody i c) :=
  Grows.of_keeps (setCustody_keeps _ _ _) (by decide)

theorem setPlan_grows (i : SlotNo) (x : PlanSlot) (s : State) : Grows s (s.setPlan i x) :=
  Grows.of_keeps (setPlan_keeps _ _ _) (by decide)

theorem setLane_grows (l : LaneNo) (x : Lane) (s : State) : Grows s (s.setLane l x) :=
  Grows.of_keeps (setLane_keeps _ _ _) (by decide)

theorem setRequests_grows (rs : List Request) (s : State) : Grows s (s.setRequests rs) :=
  Grows.of_keeps (setRequests_keeps _ _) (by decide)

theorem notice_grows (k : NoticeKind) (i : Option SlotNo) (d : Nat) (s : State) : Grows s (s.notice k i d) :=
  Grows.ite (hand_grows _ _) (Grows.refl _)

theorem updateCharge_grows (i : SlotNo) (f : ChargeSlot → ChargeSlot) (s : State) :
    Grows s (s.updateCharge i f) := by
  unfold State.updateCharge
  have h : Grows s (s.setCharge i (f (s.charge.get i))) := (setCharge_grows _ _ _)
  exact Grows.ite (h.trans ((notice_grows _ _ _ _))) h

theorem handAllocation_grows (k : SlotNo) (p : Nat) (s : State) : Grows s (handAllocation k p s) := by
  unfold handAllocation
  refine Grows.ite (Grows.refl _) (Grows.trans ?_ (updateCharge_grows _ _ _))
  exact Grows.of_queue rfl

theorem distribute_grows (s : State) : Grows s s.distribute :=
  grows_forSlots _ (fun _ _ => handAllocation_grows _ _ _) _ _

theorem judgeFloorShort_grows (s : State) : Grows s s.judgeFloorShort := by
  unfold State.judgeFloorShort
  refine Grows.ite (Grows.ite (Grows.refl _) (Grows.trans ?_ ((notice_grows _ _ _ _)))) ?_ <;>
    (exact Grows.of_queue rfl)

theorem computeOnce_grows (r : Bool) (s : State) : Grows s (s.computeOnce r) := by
  unfold State.computeOnce
  refine (judgeFloorShort_grows s).trans (Grows.trans ?_ (distribute_grows _))
  exact Grows.of_queue rfl

theorem judgeEarlyNeed_grows (s : State) : Grows s s.judgeEarlyNeed := by
  unfold State.judgeEarlyNeed
  refine Grows.ite (Grows.ite (handNeed_grows s) ?_) (Grows.refl _)
  exact Grows.of_queue rfl

theorem takeDemands_grows (s : State) : Grows s s.takeDemands := by
  exact Grows.of_queue rfl

theorem demandRound_grows (s : State) : Grows s s.demandRound := by
  unfold State.demandRound
  refine (takeDemands_grows s).trans (Grows.ite (distribute_grows _)
    (Grows.trans ?_ ((judgeEarlyNeed_grows _).trans (computeOnce_grows _ _))))
  exact Grows.of_queue rfl

theorem settle_grows : ∀ (n : Nat) (s : State), Grows s (settle n s)
  | 0, s => Grows.refl s
  | n + 1, s => by
    unfold settle
    exact Grows.ite ((demandRound_grows s).trans (settle_grows n _)) (Grows.refl _)

theorem settled_grows (s : State) : Grows s s.settled := settle_grows _ s

theorem compute_grows (r : Bool) (s : State) : Grows s (s.compute r) :=
  (computeOnce_grows r s).trans (settled_grows _)

theorem chargeEvent_grows (i : SlotNo) (f : ChargeSlot → ChargeSlot) (s : State) :
    Grows s (s.chargeEvent i f) := (updateCharge_grows i f s).trans (settled_grows _)

theorem setHold_grows (i : SlotNo) (h : Option Hold) (s : State) : Grows s (s.setHold i h) :=
  Grows.of_keeps (setHold_keeps _ _ _) (by decide)

theorem tamperReport_grows (i : SlotNo) (c : TamperCause) (found : Bool) (s : State) :
    Grows s (s.tamperReport i c found) := by
  unfold State.tamperReport
  exact Grows.ite (Grows.refl _) (((setHold_grows _ _ _)).trans ((notice_grows _ _ _ _)))

theorem jamReport_grows (i : SlotNo) (s : State) : Grows s (s.jamReport i) :=
  Grows.of_keeps (jamReport_keeps _ _) (by decide)

theorem reportReserve_grows (s : State) : Grows s s.reportReserve := by
  unfold State.reportReserve
  refine Grows.trans ?_ ((compute_grows _ _))
  exact Grows.of_queue rfl

theorem enterClaim_grows (e : ClaimEntry) (s : State) : Grows s (s.enterClaim e) := by
  unfold State.enterClaim
  refine Grows.trans ?_ ((reportReserve_grows _))
  exact Grows.of_queue rfl

theorem handClaim_grows (s : State) : Grows s s.handClaim := by
  unfold State.handClaim
  split
  · split
    · exact Grows.refl _
    · exact fun e m _ _ => lineHand_mem _ s.line e m
  · exact Grows.refl _

theorem handClaims_grows (s : State) : Grows s s.handClaims :=
  (handClaim_grows s).trans (handClaim_grows _)

theorem addRequest_grows (i : SlotNo) (op : LatchOp) (n : Nat) (s : State) :
    Grows s (s.addRequest i op n) :=
  ((setRequests_grows _ _)).trans (handClaims_grows _)

theorem withdrawClaims_grows (s : State) : Grows s s.withdrawClaims :=
  fun e m c _ => mem_withdrawWaiting e c _ m

theorem disownClaim_grows (i : SlotNo) (s : State) : Grows s (s.disownClaim i) := by
  unfold State.disownClaim
  split
  · exact Grows.refl _
  · next c _ =>
    have n : ∀ e : TxEntry, e.frame.isClaim = false → c.isFrame e.frame = false := by
      intro e h
      cases q : c.isFrame e.frame
      · rfl
      · rw [isFrame_claim q] at h; cases h
    split
    · exact fun e m a _ => List.mem_filter.2 ⟨m, by simp [n e a]⟩
    · exact fun e m a _ => List.mem_map.2 ⟨e, m, by simp [n e a]⟩

theorem endOwnClaim_grows (f : Bool) (tag : Nat) (op : LatchOp) (i : SlotNo) (s : State) :
    Grows s (s.endOwnClaim f tag op i) :=
  Grows.of_keeps (endOwnClaim_keeps _ _ _ _ _) (by decide)

theorem setLatchState_grows (i : SlotNo) (x : LatchState) (s : State) : Grows s (s.setLatchState i x) :=
  Grows.of_keeps (setLatchState_keeps _ _ _) (by decide)

theorem startOpenTimer_grows (i : SlotNo) (x : OpenTimer) (s : State) : Grows s (s.startOpenTimer i x) :=
  Grows.of_keeps (startOpenTimer_keeps _ _ _) (by decide)

theorem openLatch_grows (i : SlotNo) (s : State) : Grows s (s.openLatch i) :=
  Grows.of_keeps (openLatch_keeps _ _) (by decide)

theorem learnLatch_grows (i : SlotNo) (s : State) : Grows s (s.learnLatch i) :=
  Grows.of_keeps (learnLatch_keeps _ _) (by decide)

theorem learnAtStart_grows (i : SlotNo) (s : State) : Grows s (s.learnAtStart i) :=
  Grows.of_keeps (learnAtStart_keeps _ _) (by decide)

theorem relearn_grows (i : SlotNo) (s : State) : Grows s (s.relearn i) :=
  Grows.of_keeps (relearn_keeps _ _) (by decide)

theorem grantRelease_grows (i : SlotNo) (s : State) : Grows s (s.grantRelease i) :=
  ((setLatch_grows _ _ _)).trans ((addRequest_grows _ _ _ _))

theorem drivePulse_grows (i : SlotNo) (op : LatchOp) (d : Nat) (s : State) : Grows s (s.drivePulse i op d) :=
  Grows.of_keeps (drivePulse_keeps _ _ _ _) (by decide)

theorem jam_grows (i : SlotNo) (op : LatchOp) (s : State) : Grows s (s.jam i op) :=
  (((setLatchState_grows _ _ _)).trans ((notice_grows _ _ _ _))).trans
    ((jamReport_grows _ _))

theorem throwWait_grows (i : SlotNo) (n : Nat) (s : State) : Grows s (s.throwWait i n) :=
  ((setLatch_grows _ _ _)).trans ((addRequest_grows _ _ _ _))

theorem withdrawEnded_grows (i : SlotNo) (n : Nat) (s : State) : Grows s (s.withdrawEnded i n) := by
  unfold State.withdrawEnded
  split
  · exact (openLatch_grows _ _)
  · exact Grows.ite (((setLatch_grows _ _ _)).trans ((addRequest_grows _ _ _ _)))
      (jam_grows _ _ _)
  · exact (setLatchState_grows _ _ _)

theorem endWithdraw_grows (i : SlotNo) (s : State) : Grows s (s.endWithdraw i) := by
  unfold State.endWithdraw
  have h : ∀ l, Grows s (s.setLatch i l) := fun l => (setLatch_grows _ _ _)
  have k : ∀ l a, Grows s
      (if a = true then (s.setLatch i l).learnLatch i else (s.setLatch i l).withdrawEnded i (s.latch.get i).attempt) :=
    fun l a => Grows.ite ((h l).trans ((learnLatch_grows _ _))) ((h l).trans (withdrawEnded_grows _ _ _))
  exact Grows.ite ((k _ _).trans ((tamperReport_grows _ _ _ _))) (k _ _)

theorem endThrow_grows (i : SlotNo) (s : State) : Grows s (s.endThrow i) := by
  unfold State.endThrow
  refine Grows.trans ((setLatch_grows i _ s)) (Grows.ite ((learnLatch_grows _ _)) ?_)
  split
  · exact (setLatch_grows _ _ _)
  · exact Grows.ite ((throwWait_grows _ _ _)) (jam_grows _ _ _)
  · exact (setLatchState_grows _ _ _)

theorem latchInsertion_grows (i : SlotNo) (f : Bool) (s : State) :
    Grows s (s.latchInsertion i f) := by
  unfold State.latchInsertion
  dsimp only
  split
  · exact (tamperReport_grows _ _ _ _)
  · exact (tamperReport_grows _ _ _ _)
  · exact (setLatch_grows _ _ _)
  · exact (startOpenTimer_grows _ _ _)
  · exact Grows.refl _

theorem latchExtraction_grows (i : SlotNo) (s : State) : Grows s (s.latchExtraction i) := by
  unfold State.latchExtraction
  dsimp only
  split
  · exact (tamperReport_grows _ _ _ _)
  · exact (tamperReport_grows _ _ _ _)
  · exact (setLatch_grows _ _ _)
  · exact (startOpenTimer_grows _ _ _)
  · exact Grows.refl _

theorem takeClaim_grows (e : ClaimEntry) (s : State) : Grows s (s.takeClaim e) :=
  Grows.ite ((enterClaim_grows _ _)) (Grows.refl _)

theorem ownAdmitted_grows (c : OwnClaim) (e : ClaimEntry) (s : State) : Grows s (s.ownAdmitted c e) := by
  unfold State.ownAdmitted
  have h : ∀ own, Grows s (({ s with claims := { s.claims with own := own } } : State).enterClaim e) := fun own =>
    Grows.trans (by exact Grows.of_queue rfl) ((enterClaim_grows _ _))
  exact Grows.ite (((h _).trans ((setRequests_grows _ _))).trans ((drivePulse_grows _ _ _ _)))
    (h _)

theorem ownRefused_grows (c : OwnClaim) (s : State) : Grows s (s.ownRefused c) := by
  unfold State.ownRefused
  refine Grows.trans (Grows.ite ?_ ?_) (handClaims_grows _) <;> (exact Grows.of_queue rfl)

theorem completeOwnClaim_grows (tag : Nat) (op : LatchOp) (i : SlotNo) (a d : Nat) (s : State) :
    Grows s (s.completeOwnClaim tag op i a d) := by
  unfold State.completeOwnClaim
  dsimp only
  split
  · exact takeClaim_grows _ _
  · exact Grows.ite (ownAdmitted_grows _ _ _) ((ownRefused_grows _ _))

theorem expireClaims_grows (s : State) : Grows s s.expireClaims := by
  unfold State.expireClaims
  refine Grows.trans (Grows.trans ?_ ((reportReserve_grows _))) ((handClaims_grows _))
  exact Grows.of_queue rfl

theorem timeOutRelease_grows (i : SlotNo) (s : State) : Grows s (s.timeOutRelease i) := by
  unfold State.timeOutRelease
  exact ((((setLatch_grows _ _ _)).trans ((setRequests_grows _ _))).trans
    ((notice_grows _ _ _ _))).trans
      (((disownClaim_grows _ _)).trans ((handClaims_grows _)))

theorem moveLane_grows (l : LaneNo) (x : LaneState) (s : State) : Grows s (s.moveLane l x) :=
  Grows.of_keeps (moveLane_keeps _ _ _) (by decide)

theorem laneDetached_grows (i : SlotNo) (s : State) : Grows s (s.laneDetached i) := by
  unfold State.laneDetached
  refine Grows.trans ?_ ((chargeEvent_grows _ _ _))
  exact Grows.of_queue rfl

theorem laneAttached_grows (i : SlotNo) (s : State) : Grows s (s.laneAttached i) := chargeEvent_grows _ _ _

theorem detachLane_grows (l : LaneNo) (i : SlotNo) (s : State) :
    Grows s (s.detachLane l i) :=
  ((moveLane_grows _ _ _)).trans ((laneDetached_grows _ _))

theorem releaseLane_grows (i : SlotNo) (s : State) : Grows s (s.releaseLane i) := by
  unfold State.releaseLane
  split
  · exact detachLane_grows _ _ _
  · exact Grows.refl _

theorem forceRelease_grows (i : SlotNo) (s : State) : Grows s (s.forceRelease i) := by
  unfold State.forceRelease
  split
  · exact detachLane_grows _ _ _
  · exact Grows.refl _

theorem laneSide_grows (i : SlotNo) (x : LaneSide) (s : State) :
    Grows s (s.laneSide i x) := by
  cases x
  · exact releaseLane_grows _ _
  · exact forceRelease_grows _ _
  · exact Grows.refl _

theorem wakeOne_grows (s : State) : Grows s s.wakeOne :=
  Grows.of_keeps (wakeOne_keeps _) (by decide)

theorem wakeLanes_grows (s : State) : Grows s s.wakeLanes :=
  Grows.of_keeps (wakeLanes_keeps _) (by decide)

theorem startIdle_grows (s : State) : Grows s s.startIdle :=
  Grows.of_keeps (startIdle_keeps _) (by decide)

theorem reportRun_grows (i : SlotNo) (r : Run) (o : Answer) (n : Nat) (s : State) : Grows s (s.reportRun i r o n) := by
  unfold State.reportRun
  split
  · exact Grows.refl _
  · exact fun e m _ _ => lineHand_mem _ s.line e m

theorem endRun_grows (i : SlotNo) (o : Answer) (n : Nat) (s : State) : Grows s (s.endRun i o n) := by
  unfold State.endRun
  split
  · exact Grows.refl _
  · exact (reportRun_grows _ _ _ _ _).trans ((setPlan_grows _ _ _))

theorem setFloor_grows (i : SlotNo) (q : Nat) (s : State) : Grows s (s.setFloor i q) :=
  ((setPlan_grows _ _ _)).trans ((settled_grows _))

theorem setRun_grows (i : SlotNo) (r : Run) (s : State) : Grows s (s.setRun i r) :=
  Grows.of_keeps (setRun_keeps _ _ _) (by decide)

theorem leaveWaitList_grows (i : SlotNo) (s : State) : Grows s (s.leaveWaitList i) :=
  Grows.of_keeps (leaveWaitList_keeps _ _) (by decide)

theorem finishHead_grows (i : SlotNo) (o : Answer) (x : LaneSide) (s : State) : Grows s (s.finishHead i o x) := by
  unfold State.finishHead
  split
  · exact Grows.refl _
  · exact ((((setFloor_grows _ _ _)).trans ((leaveWaitList_grows _ _))).trans
      ((laneSide_grows _ _ _))).trans ((endRun_grows _ _ _ _))

theorem startRun_grows (i : SlotNo) (s : State) : Grows s (s.startRun i).1 := by
  unfold State.startRun
  split
  · exact Grows.refl _
  split
  · exact Grows.refl _
  split
  · exact Grows.refl _
  split
  · exact (endRun_grows _ _ _ _)
  · exact (setPlan_grows _ _ _)

theorem attachStep_grows (i : SlotNo) (r : Run) (p : PlanRecord) (s : State) : Grows s (s.attachStep i r p).1 := by
  unfold State.attachStep
  split
  · exact (setRun_grows _ _ _)
  split
  · exact finishHead_grows _ _ _ _
  · exact Grows.of_queue rfl

theorem performStep_grows (i : SlotNo) (s : State) : Grows s (s.performStep i).1 := by
  unfold State.performStep
  split
  · exact Grows.refl _
  split
  · exact Grows.refl _
  split
  · exact Grows.refl _
  split
  · exact Grows.refl _
  · exact attachStep_grows _ _ _ _
  · exact (setFloor_grows _ _ _)
  · exact (setRun_grows _ _ _)
  · split
    · exact Grows.refl _
    · exact (setRun_grows _ _ _)
  · exact ((releaseLane_grows _ _)).trans ((setRun_grows _ _ _))
  · exact (setPlan_grows _ _ _)

theorem advanceRun_grows (i : SlotNo) (s : State) : Grows s (s.advanceRun i).1 := by
  unfold State.advanceRun
  split
  · exact Grows.refl _
  split
  · exact Grows.refl _
  split
  · exact (setRun_grows _ _ _)
  · exact finishHead_grows _ _ _ _

theorem takeGrant_grows (i : SlotNo) (s : State) : Grows s (s.takeGrant i).1 := by
  unfold State.takeGrant
  split
  · exact Grows.refl _
  split
  · exact (setRun_grows _ _ _)
  · exact Grows.refl _

theorem grantStep_grows (s : State) : Grows s s.grantStep.1 := by
  unfold State.grantStep
  split
  · refine Grows.trans (Grows.trans (Grows.trans ?_ ((moveLane_grows _ _ _)))
      ((laneAttached_grows _ _))) (takeGrant_grows _ _)
    exact Grows.of_queue rfl
  · exact ((wakeLanes_grows _).trans (startIdle_grows _))

theorem workStep_grows (w : Work) (s : State) : Grows s (s.workStep w).1 := by
  cases w
  · exact startRun_grows _ _
  · exact performStep_grows _ _
  · exact advanceRun_grows _ _
  · exact grantStep_grows _

theorem runWork_grows : ∀ (n : Nat) (ws : List Work) (s : State), Grows s (runWork n ws s)
  | 0, _, s => Grows.refl s
  | _ + 1, [], s => Grows.refl s
  | n + 1, w :: _, s => (workStep_grows w s).trans (runWork_grows n _ _)

theorem work_grows (ws : List Work) (s : State) : Grows s (s.work ws) := runWork_grows _ _ _

theorem finishAndStart_grows (i : SlotNo) (o : Answer) (x : LaneSide) (s : State) :
    Grows s (s.finishAndStart i o x) := (finishHead_grows _ _ _ _).trans (work_grows _ _)

theorem appendRun_grows (id : PlanId) (i : SlotNo) (s : State) : Grows s (s.appendRun id i) :=
  Grows.of_keeps (appendRun_keeps _ _ _) (by decide)

theorem takePlan_grows (src : Source) (p : List Byte) (s : State) : Grows s (s.takePlan src p) := by
  unfold State.takePlan
  split
  · exact (hand_grows _ _)
  · refine Grows.trans (Grows.trans (Grows.trans ?_ ((hand_grows _ _)))
      ((grows_forSlots _ (fun i s => appendRun_grows _ i s) _ _))) (work_grows _ _)
    exact Grows.of_queue rfl

theorem takeGo_grows (p : List Byte) (s : State) : Grows s (s.takeGo p) := by
  unfold State.takeGo
  split
  · exact Grows.refl _
  split
  · exact Grows.refl _
  split
  · exact Grows.ite (work_grows _ _) (Grows.refl _)
  · exact Grows.refl _

theorem cancelSlot_grows (id : PlanId) (i : SlotNo) (s : State) : Grows s (s.cancelSlot id i) := by
  unfold State.cancelSlot
  split
  · exact Grows.refl _
  split
  · exact finishAndStart_grows _ _ _ _
  split
  · exact Grows.refl _
  · exact ((reportRun_grows _ _ _ _ _)).trans ((setPlan_grows _ _ _))

theorem takeCancel_grows (p : List Byte) (s : State) : Grows s (s.takeCancel p) :=
  Grows.ite (grows_forSlots _ (fun i s => cancelSlot_grows _ i s) _ _) (Grows.refl _)

theorem takeBuild_grows (p : List Byte) (s : State) : Grows s (s.takeBuild p) :=
  Grows.of_keeps (takeBuild_keeps _ _) (by decide)

theorem takeUnpin_grows (src : Source) (p : List Byte) (s : State) : Grows s (s.takeUnpin src p) := by
  unfold State.takeUnpin
  dsimp only
  split
  · exact (hand_grows _ _)
  · exact Grows.ite ((hand_grows _ _))
      (((forceRelease_grows _ _)).trans ((hand_grows _ _)))

theorem takeClass5_grows (src : Source) (p : List Byte) (s : State) : Grows s (s.takeClass5 src p) := by
  unfold State.takeClass5
  exact Grows.ite (Grows.refl _) (Grows.ite (Grows.ite ((takeBuild_grows _ _)) (Grows.refl _))
    (Grows.ite (Grows.refl _) (Grows.ite ((takePlan_grows _ _ _))
      (Grows.ite ((takeGo_grows _ _)) (Grows.ite ((takeCancel_grows _ _))
        ((takeUnpin_grows _ _ _)))))))

theorem enumAsserted_grows (i : SlotNo) (s : State) : Grows s (s.enumAsserted i) := by
  unfold State.enumAsserted
  split
  · exact Grows.refl _
  split
  · exact work_grows _ _
  · exact (setRun_grows _ _ _)
  · exact (setRun_grows _ _ _)
  · exact Grows.refl _

theorem enumReleased_grows (i : SlotNo) (s : State) : Grows s (s.enumReleased i) := by
  unfold State.enumReleased
  split
  · exact Grows.refl _
  refine Grows.ite ?_ (Grows.refl _)
  split
  · exact (setRun_grows _ _ _)
  · exact (setRun_grows _ _ _)
  · exact Grows.refl _

theorem changeEnumerated_grows (l : LaneNo) (v : Level) (s : State) : Grows s (s.changeEnumerated l v) := by
  unfold State.changeEnumerated
  dsimp only
  split
  · exact ((setLane_grows _ _ _)).trans (enumAsserted_grows _ _)
  · exact ((setLane_grows _ _ _)).trans (enumReleased_grows _ _)
  · exact (setLane_grows _ _ _)

theorem planLaneFault_grows (i : SlotNo) (s : State) : Grows s (s.planLaneFault i) :=
  Grows.ite (finishAndStart_grows _ _ _ _) (Grows.refl _)

theorem faultLane_grows (l : LaneNo) (s : State) : Grows s (s.faultLane l) := by
  unfold State.faultLane
  dsimp only
  have h : ∀ t : State, Grows s t →
      Grows s (match (s.lanes.table.get l).state.slot with
        | some i => (t.laneDetached i).planLaneFault i
        | none => t) := by
    intro t h
    split
    · exact (h.trans ((laneDetached_grows _ _))).trans (planLaneFault_grows _ _)
    · exact h
  have k := h _ ((setLane_grows l ({ s.lanes.table.get l with
    faults := (s.lanes.table.get l).faults + 1, faultIn := .asserted, faultPin := true, faultRun := {} }.move s.clock
      (if decide (faultLimit ≤ (s.lanes.table.get l).faults + 1) then .retired else .faulted none)) s))
  exact Grows.ite ((k.trans ((notice_grows _ _ _ _))).trans ((wakeLanes_grows _)))
    (k.trans ((notice_grows _ _ _ _)))

theorem endWake_grows (t : Nat) (s : State) : Grows s (s.endWake t) :=
  Grows.of_keeps (endWake_keeps _ _) (by decide)

theorem settleStart_grows (i : SlotNo) (s : State) : Grows s (s.settleStart i) :=
  Grows.of_keeps (settleStart_keeps _ _) (by decide)

theorem changePresent_grows (i : SlotNo) (v : Level) (s : State) : Grows s (s.changePresent i v) :=
  Grows.of_keeps (changePresent_keeps _ _ _) (by decide)

theorem changeBolt_grows (i : SlotNo) (v : BoltReading) (s : State) : Grows s (s.changeBolt i v) :=
  Grows.of_keeps (changeBolt_keeps _ _ _) (by decide)

theorem insert_grows (i : SlotNo) (c : Option Nat) (f : Bool) (s : State) : Grows s (s.insert i c f) := by
  unfold State.insert
  have h : ∀ m : MonitorSlot, ∀ k d g,
      Grows s (((((s.setMonitor i m).notice .inserted k d).chargeEvent i g).latchInsertion i f)) := fun m k d g =>
    ((((setMonitor_grows _ _ _)).trans ((notice_grows _ _ _ _))).trans
      ((chargeEvent_grows _ _ _))).trans ((latchInsertion_grows _ _ _))
  exact Grows.ite ((h _ _ _ _).trans ((settleStart_grows _ _))) (h _ _ _ _)

theorem failQueued_grows (i : SlotNo) (s : State) : Grows s (s.failQueued i) :=
  (grows_foldl _ (fun _ _ => reportRun_grows _ _ _ _ _) _ _).trans ((setPlan_grows _ _ _))

theorem planExtraction_grows (i : SlotNo) (s : State) : Grows s (s.planExtraction i) :=
  (((setPlan_grows _ _ _)).trans (finishHead_grows _ _ _ _)).trans
    ((failQueued_grows _ _))

theorem extract_grows (i : SlotNo) (s : State) : Grows s (s.extract i) := by
  unfold State.extract
  exact (((((((setMonitor_grows _ _ _)).trans ((notice_grows _ _ _ _))).trans
    ((chargeEvent_grows _ _ _))).trans ((latchExtraction_grows _ _))).trans
    ((setCustody_grows _ _ _))).trans ((planExtraction_grows _ _))).trans
    (((leaveWaitList_grows _ _)).trans ((forceRelease_grows _ _)))

theorem faultSlot_grows (i : SlotNo) (k : FaultKind) (f : ChargeSlot → ChargeSlot) (s : State) :
    Grows s (s.faultSlot i k f) :=
  ((notice_grows _ _ _ _)).trans (chargeEvent_grows _ _ _)

theorem publish_grows (i : SlotNo) (v a : Nat) (s : State) : Grows s (s.publish i v a) := by
  unfold State.publish
  have h : ∀ m : MonitorSlot, Grows s (s.setMonitor i m) := fun m =>
    (setMonitor_grows _ _ _)
  exact Grows.ite ((h _).trans ((faultSlot_grows _ _ _ _)))
    ((h _).trans ((chargeEvent_grows _ _ _)))

theorem integrate_grows (i : SlotNo) (m e : Nat) (s : State) : Grows s (s.integrate i m e) :=
  ((setMonitor_grows _ _ _)).trans ((chargeEvent_grows _ _ _))

theorem endDetect_grows (i : SlotNo) (s : State) : Grows s (s.endDetect i) :=
  Grows.ite (chargeEvent_grows _ _ _) (chargeEvent_grows _ _ _)

theorem passDue_grows (i : SlotNo) (s : State) : Grows s (s.passDue i) :=
  ((setCustody_grows _ _ _)).trans ((settled_grows _))

theorem setSilence_grows (t : Option Nat) (s : State) : Grows s (s.setSilence t) :=
  Grows.of_keeps (setSilence_keeps _ _) (by decide)

theorem setPeer_grows (a : Station) (x : Option Peer) (s : State) : Grows s (s.setPeer a x) :=
  Grows.of_keeps (setPeer_keeps _ _ _) (by decide)

theorem setCeilings_grows (rs : List CeilingRecord) (s : State) : Grows s (s.setCeilings rs) :=
  Grows.of_keeps (setCeilings_keeps _ _) (by decide)

theorem changeShare_grows (x : ShareState) (s : State) : Grows s (s.changeShare x) := by
  unfold State.changeShare
  refine Grows.ite (Grows.refl _) (Grows.trans ?_ ((notice_grows _ _ _ _)))
  exact Grows.of_queue rfl

theorem enterJoined_grows (s : State) : Grows s s.enterJoined :=
  ((setSilence_grows _ _)).trans (changeShare_grows _ _)

theorem enterIsolated_grows (s : State) : Grows s s.enterIsolated :=
  ((setSilence_grows _ _)).trans (changeShare_grows _ _)

theorem countListen_grows (s : State) : Grows s s.countListen := by
  unfold State.countListen
  have h : ∀ n, Grows s { s with share := { s.share with listenCount := n } } := by
    exact fun n => Grows.of_queue rfl
  exact Grows.ite (Grows.ite (h _) (Grows.ite ((h _).trans (enterJoined_grows _)) ((h _).trans (enterIsolated_grows _))))
    (Grows.refl _)

theorem report_grows (s : State) : Grows s s.report := by
  unfold State.report
  refine Grows.trans (Grows.trans (Grows.trans (t := { s with share := { s.share with
    reportAt := momentAfter s.share.reportAt s.cfg.reportPeriod } }) ?_ ((countListen_grows _)))
    ((handNeed_grows _))) ((compute_grows _ _))
  exact Grows.of_queue rfl

theorem spaceNeed_grows (s : State) : Grows s s.spaceNeed := by
  unfold State.spaceNeed
  refine Grows.ite (handNeed_grows s) ?_
  exact Grows.of_queue rfl

theorem takeCeiling_grows (src : Source) (p : List Byte) (s : State) : Grows s (s.takeCeiling src p) := by
  unfold State.takeCeiling
  split
  · exact ((setCeilings_grows _ _)).trans ((compute_grows _ _))
  · exact Grows.refl _

theorem takeNeed_grows (a : Station) (p : List Byte) (s : State) : Grows s (s.takeNeed a p) := by
  unfold State.takeNeed
  have h : ∀ x, Grows s (s.setPeer a x) := fun x => (setPeer_grows _ _ _)
  exact (Grows.ite ((h _).trans ((enterJoined_grows _))) (h _)).trans ((compute_grows _ _))

theorem takeLeave_grows (a : Station) (s : State) : Grows s (s.takeLeave a) :=
  ((setPeer_grows _ _ _)).trans ((compute_grows _ _))

theorem watchPeer_grows (s : State) : Grows s s.watchPeer :=
  Grows.of_keeps (watchPeer_keeps _) (by decide)

theorem clash_grows (s : State) : Grows s s.clash :=
  Grows.ite (Grows.refl _) (((((setSilence_grows _ _)).trans
    ((changeShare_grows _ _))).trans ((withdrawClaims_grows _))).trans
    ((compute_grows _ _)))

theorem watch_grows (src : Source) (s : State) : Grows s (s.watch src) := by
  unfold State.watch
  split
  · exact Grows.refl _
  · exact Grows.ite (clash_grows s) ((watchPeer_grows s))

theorem forceSlot_grows (i : SlotNo) (s : State) : Grows s (s.forceSlot i) :=
  (finishHead_grows _ _ _ _).trans ((forceRelease_grows _ _))

theorem finishOpen_grows (k : PermitKind) (n : Nat) (i : SlotNo) (s : State) :
    Grows s (s.finishOpen k n i).1 := by
  unfold State.finishOpen
  split
  · exact Grows.refl _
  · exact grantRelease_grows _ _

theorem judgeOpen_grows (k : PermitKind) (n : Nat) (f : Bool) (i : SlotNo) (s : State) :
    Grows s (s.judgeOpen k n f i).1 := by
  unfold State.judgeOpen
  split
  · exact Grows.refl _
  split
  · split
    · exact ((forceSlot_grows _ _)).trans ((finishOpen_grows _ _ _ _))
    · exact Grows.refl _
  · exact (finishOpen_grows _ _ _ _)

theorem judgeDue_grows (n : Nat) (i : SlotNo) (s : State) : Grows s (s.judgeDue n i).1 :=
  ((setCustody_grows _ _ _)).trans ((settled_grows _))

theorem judgeLift_grows (n : Nat) (i : SlotNo) (s : State) : Grows s (s.judgeLift n i).1 :=
  Grows.of_keeps (judgeLift_keeps _ _ _) (by decide)

theorem judgeSlot_grows (p : Permit) (k : PermitKind) (i : SlotNo) (s : State) :
    Grows s (s.judgeSlot p k i).1 := by
  unfold State.judgeSlot
  split
  · exact judgeOpen_grows _ _ _ _ _
  · exact judgeOpen_grows _ _ _ _ _
  · split
    · exact (judgeDue_grows _ _ _)
    · exact Grows.refl _
  · split
    · exact (setHold_grows _ _ _)
    · exact Grows.refl _
  · split
    · exact (judgeLift_grows _ _ _)
    · exact Grows.refl _
  · split <;> exact Grows.refl _

theorem addOutcome_grows (a : Answer) (s : State) : Grows s (s.addOutcome a) :=
  Grows.of_keeps (addOutcome_keeps _ _) (by decide)

theorem judgeSlots_grows (p : Permit) (k : PermitKind) : ∀ (is : List SlotNo) (s : State),
    Grows s (judgeSlots p k is s)
  | [], s => Grows.refl s
  | i :: is, s => ((judgeSlot_grows p k i s).trans ((addOutcome_grows _ _))).trans
      (judgeSlots_grows p k is _)

theorem handVerdict_grows (n : Byte) (src : Source) (f : Nat) (s : State) : Grows s (s.handVerdict n src f) :=
  fun e m _ _ => lineHand_mem _ s.line e m

theorem afterPermit_grows (k : PermitKind) (is : List SlotNo) (s : State) :
    Grows s (s.afterPermit k is) := by
  unfold State.afterPermit
  split
  · exact Grows.of_queue rfl
  · exact (work_grows _ _)

theorem judgeIn_grows (p : Permit) (f : SlotNo) (is : List SlotNo) (s : State) :
    Grows s (s.judgeIn p f is) := by
  unfold State.judgeIn
  dsimp only
  split
  · exact ((grows_foldl _ (fun _ _ => addOutcome_grows _ _) _ _)).trans
      ((handVerdict_grows _ _ _ _))
  · exact ((judgeSlots_grows _ _ _ _).trans ((handVerdict_grows _ _ _ _))).trans
      ((afterPermit_grows _ _ _))

theorem judgePermit_grows (p : Permit) (s : State) : Grows s (s.judgePermit p) := by
  unfold State.judgePermit
  split
  · exact Grows.refl _
  · exact judgeIn_grows _ _ _ _

theorem takePermit_grows (src : Source) (p : List Byte) (s : State) : Grows s (s.takePermit src p) := by
  unfold State.takePermit
  refine Grows.ite ?_ (judgePermit_grows _ _)
  exact Grows.of_queue rfl

theorem answer_grows (b : List Byte) (s : State) : Grows s (s.answer b) := fun e m _ _ => lineHand_mem _ s.line e m

theorem takeQuery_grows (src : Source) (p : List Byte) (s : State) : Grows s (s.takeQuery src p) := by
  unfold State.takeQuery
  refine Grows.ite (Grows.refl _) (Grows.ite (answer_grows _ _) (Grows.ite ?_ (Grows.refl _)))
  split
  · exact answer_grows _ _
  · exact Grows.refl _

theorem takeClass2_grows (src : Source) (p : List Byte) (s : State) : Grows s (s.takeClass2 src p) := by
  unfold State.takeClass2
  split
  · exact Grows.refl _
  · exact Grows.ite (takeNeed_grows _ _ _) (takeLeave_grows _ _)

theorem consume_grows (c : Nat) (src : Source) (p : List Byte) (s : State) : Grows s (s.consume c src p) := by
  unfold State.consume
  split
  · exact (takeClaim_grows _ _)
  · exact (takeCeiling_grows _ _ _)
  · exact (takeClass2_grows _ _ _)
  · exact (takePermit_grows _ _ _)
  · exact (takeClass5_grows _ _ _)
  · exact (takeQuery_grows _ _ _)
  · exact Grows.refl _

theorem abandonFrame_grows (s : State) : Grows s s.abandonFrame :=
  Grows.of_keeps (abandonFrame_keeps _) (by decide)

theorem countError_grows (s : State) : Grows s s.countError :=
  Grows.of_keeps (countError_keeps _) (by decide)

theorem frameEnds_grows (s : State) : Grows s { s with line := s.line.frameEnds } := Grows.of_queue rfl

theorem takeFrame_grows (c : Nat) (src : Source) (p : List Byte) (s : State) : Grows s (s.takeFrame c src p) := by
  unfold State.takeFrame
  refine Grows.ite (Grows.refl _) (Grows.ite (abandonFrame_grows _) ?_)
  have h := ((frameEnds_grows s)).trans
    ((watch_grows src { s with line := s.line.frameEnds }))
  exact Grows.ite (h.trans ((countError_grows _))) (h.trans (consume_grows _ _ _ _))

theorem claimGone_grows (f : Bool) (x : TxFrame) (s : State) : Grows s (s.claimGone f x) := by
  unfold State.claimGone
  split
  · exact ((endOwnClaim_grows _ _ _ _ _)).trans (handClaims_grows _)
  · exact Grows.refl _

theorem restartShare_grows (s : State) : Grows s s.restartShare := by
  unfold State.restartShare
  exact Grows.trans (t := { s with share := { s.share with
    peerHeard := false, listenCount := 0, silenceAt := none, reportAt := momentAfter s.clock s.cfg.reportPeriod
    peers := #v[none, none, none, none, none, none, none, none], ceilings := [], floorShort := false } })
    (Grows.of_queue rfl) ((changeShare_grows _ _).trans (compute_grows _ _))

theorem restartLatch_grows (i : SlotNo) (s : State) : Grows s (s.restartLatch i) :=
  Grows.of_keeps (restartLatch_keeps _ _) (by decide)

theorem restartClaims_grows (s : State) : Grows s s.restartClaims := fun e m c _ => mem_withdrawWaiting e c _ m

theorem restartPulses_grows (s : State) : Grows s s.restartPulses :=
  ((restartClaims_grows s).trans ((grows_forSlots _ (fun i s => restartLatch_grows i s) _ _))).trans
    ((reportReserve_grows _))

theorem reportRestarted_grows (i : SlotNo) : ∀ (rs : List Run) (s : State),
    Grows s (s.reportRestarted i rs)
  | [], s => Grows.refl s
  | _ :: _, _ => (reportRun_grows _ _ _ _ _).trans (grows_foldl _ (fun _ _ => reportRun_grows _ _ _ _ _) _ _)

theorem restartPlan_grows (i : SlotNo) (s : State) : Grows s (s.restartPlan i) :=
  (reportRestarted_grows _ _ _).trans ((setPlan_grows _ _ _))

theorem restartPlans_grows (s : State) : Grows s s.restartPlans := by
  unfold State.restartPlans
  have h : ∀ (u : State) (x : Plans), Grows u { u with plans := x } := fun u x => Grows.of_queue rfl
  exact ((grows_forSlots _ (fun i s => restartPlan_grows i s) _ _).trans (h _ _)).trans (settled_grows _)

theorem restartLane_grows (l : LaneNo) (s : State) : Grows s (s.restartLane l) := by
  unfold State.restartLane
  dsimp only
  split
  · exact ((setLane_grows _ _ _)).trans ((detachLane_grows _ _ _))
  · exact ((setLane_grows _ _ _)).trans ((moveLane_grows _ _ _))
  · exact (setLane_grows _ _ _)

theorem restartLanes_grows (s : State) : Grows s s.restartLanes := by
  unfold State.restartLanes
  have h : ∀ (u : State) (x : Lanes), Grows u { u with lanes := x } := fun u x => Grows.of_queue rfl
  exact (h _ _).trans (grows_foldl _ (fun _ _ => restartLane_grows _ _) _ _)

theorem restartStages_grows (s : State) : Grows s s.restartStages :=
  (((((hand_grows _ _)).trans ((restartShare_grows _))).trans
    ((restartPulses_grows _))).trans ((restartPlans_grows _))).trans
    ((restartLanes_grows _))

theorem judgeWaiting_grows : ∀ (ps : List (Source × List Byte)) (s : State), Grows s (judgeWaiting ps s)
  | [], s => Grows.refl s
  | (src, p) :: rest, s => by
    unfold judgeWaiting
    refine Grows.ite ?_ ((judgePermit_grows _ _).trans (judgeWaiting_grows rest _))
    exact Grows.of_queue rfl

theorem completeRestart_grows (s : State) : Grows s s.completeRestart := by
  unfold State.completeRestart
  have h : ∀ (u : State) (x : Custody), Grows u { u with custody := x } := fun u x => Grows.of_queue rfl
  exact (h _ _).trans (judgeWaiting_grows _ _)

end Sys2Proof.Machine
end

