-- ==== Sys2Proof/Laws/Tick.lean ====
section
/-! SUPPORT. What a step can do, and what a bit time leaves: the step's three cases, the frame of a bit time, and the fields
that a sample does not touch. -/

namespace Sys2Proof.Machine

/-! ## The step -/

/-- A step that answers a next state runs the front command, puts the first due event into the queue, or lets a bit time pass. -/
theorem step_cases {s t : State} (h : step s = .next t) :
    (∃ c rest, s.pending = c :: rest ∧ exec c { s with pending := rest } = .next t) ∨
    (∃ c cs, s.pending = [] ∧ s.dueNow = c :: cs ∧ t = { s with pending := [c] }) ∨
    (s.pending = [] ∧ s.dueNow = [] ∧ t = s.passBit) := by
  unfold step at h
  split at h
  next p =>
    injection h with h
    subst h
    unfold State.bitTime
    split
    next d => exact .inr (.inr ⟨p, d, rfl⟩)
    next c cs d => exact .inr (.inl ⟨c, cs, p, d, by rw [p]; rfl⟩)
  next c rest p => exact .inl ⟨c, rest, p, h⟩

/-! ## A sample -/

/-- A sample of a slot moves its filter runs and its sums alone. -/
theorem MonitorSlot.sample_frame (m : MonitorSlot) :
    m.sample = { m with
      presentRun := m.sample.presentRun, boltRun := m.sample.boltRun, samples := m.sample.samples
      voltSum := m.sample.voltSum, ampSum := m.sample.ampSum, periodSum := m.sample.periodSum } := by
  unfold MonitorSlot.sample; split <;> rfl

/-- A sample of a lane moves its filter runs alone. -/
theorem Lane.sample_frame (b : Bool) (x : Lane) :
    x.sample b = { x with enumRun := (x.sample b).enumRun, faultRun := (x.sample b).faultRun } := by
  unfold Lane.sample; split <;> rfl

@[simp] theorem Lane.sample_state (b : Bool) (x : Lane) : (x.sample b).state = x.state := by rw [Lane.sample_frame]
@[simp] theorem Lane.sample_faults (b : Bool) (x : Lane) : (x.sample b).faults = x.faults := by rw [Lane.sample_frame]
@[simp] theorem Lane.sample_enumIn (b : Bool) (x : Lane) : (x.sample b).enumIn = x.enumIn := by rw [Lane.sample_frame]
@[simp] theorem Lane.sample_faultIn (b : Bool) (x : Lane) : (x.sample b).faultIn = x.faultIn := by rw [Lane.sample_frame]
@[simp] theorem MonitorSlot.sample_presence (m : MonitorSlot) : m.sample.presence = m.presence := by
  rw [MonitorSlot.sample_frame]
@[simp] theorem MonitorSlot.sample_cable (m : MonitorSlot) : m.sample.cable = m.cable := by rw [MonitorSlot.sample_frame]
@[simp] theorem MonitorSlot.sample_boltIn (m : MonitorSlot) : m.sample.boltIn = m.boltIn := by rw [MonitorSlot.sample_frame]
@[simp] theorem MonitorSlot.sample_presentIn (m : MonitorSlot) : m.sample.presentIn = m.presentIn := by
  rw [MonitorSlot.sample_frame]
@[simp] theorem MonitorSlot.sample_fitted (m : MonitorSlot) : m.sample.fitted = m.fitted := by rw [MonitorSlot.sample_frame]
@[simp] theorem MonitorSlot.sample_amps (m : MonitorSlot) : m.sample.amps = m.amps := by rw [MonitorSlot.sample_frame]
@[simp] theorem MonitorSlot.sample_volts (m : MonitorSlot) : m.sample.volts = m.volts := by rw [MonitorSlot.sample_frame]
@[simp] theorem MonitorSlot.sample_q (m : MonitorSlot) : m.sample.q = m.q := by rw [MonitorSlot.sample_frame]

/-- Each slot takes its own sample, at a step of the time base. -/
theorem sampleSlots_monitor (s : State) (i : SlotNo) :
    s.sampleSlots.monitor.get i = if s.wholeMsFrom s.baseAt then (s.monitor.get i).sample else s.monitor.get i := by
  unfold State.sampleSlots; split
  · exact sixOf_get _ i
  · rfl

/-- Each lane takes its own, at its own steps. -/
theorem sampleLanes_lane (s : State) (l : LaneNo) :
    s.sampleLanes.lanes.table.get l = (s.lanes.table.get l).sample (s.laneStep l) := by
  match l with
  | ⟨0, _⟩ => rfl
  | ⟨1, _⟩ => rfl
  | ⟨2, _⟩ => rfl
  | ⟨3, _⟩ => rfl

theorem sampleSlots_keeps (s : State) : Keeps [.monitor] s s.sampleSlots := by
  unfold State.sampleSlots; split
  · intro p hp; cases p <;> simp_all [same]
  · exact Keeps.refl _ _

theorem sampleLanes_keeps (s : State) : Keeps [.lanes] s s.sampleLanes := by
  intro p hp; cases p <;> simp_all [same, State.sampleLanes]

@[simp] theorem sampleSlots_clock (s : State) : s.sampleSlots.clock = s.clock := sampleSlots_keeps s .clock (by decide)
@[simp] theorem sampleSlots_wire (s : State) : s.sampleSlots.wire = s.wire := sampleSlots_keeps s .wire (by decide)
@[simp] theorem sampleSlots_lanes (s : State) : s.sampleSlots.lanes = s.lanes := sampleSlots_keeps s .lanes (by decide)
@[simp] theorem sampleLanes_clock (s : State) : s.sampleLanes.clock = s.clock := rfl
@[simp] theorem sampleLanes_wire (s : State) : s.sampleLanes.wire = s.wire := rfl
@[simp] theorem sampleLanes_monitor (s : State) : s.sampleLanes.monitor = s.monitor := rfl
@[simp] theorem sampleLanes_waitList (s : State) : s.sampleLanes.lanes.waitList = s.lanes.waitList := rfl

/-! ## One bit time -/

theorem passBit_keeps (s : State) : Keeps [.clock, .monitor, .lanes, .linePhase, .wire] s s.passBit := by
  unfold State.passBit
  dsimp only
  split
  · refine Keeps.trans (Keeps.trans ?_ ((sampleSlots_keeps _).mono (by decide))) ((sampleLanes_keeps _).mono (by decide))
    intro p hp; cases p <;> simp_all [same]
  · intro p hp; cases p <;> simp_all [same]

@[simp] theorem passBit_clock (s : State) : s.passBit.clock = s.clock + 1 := by
  unfold State.passBit; dsimp only; split <;> simp

@[simp] theorem passBit_wire (s : State) : s.passBit.wire = s.wire.tail := by
  unfold State.passBit; dsimp only; split <;> simp

/-- What a bit time leaves of a slot. -/
theorem passBit_monitor (s : State) (i : SlotNo) :
    s.passBit.monitor.get i = s.monitor.get i ∨ s.passBit.monitor.get i = (s.monitor.get i).sample := by
  unfold State.passBit; dsimp only; split
  · rw [sampleLanes_monitor, sampleSlots_monitor]
    split
    · exact .inr rfl
    · exact .inl rfl
  · exact .inl rfl

/-- What a bit time leaves of a lane. -/
theorem passBit_lane (s : State) (l : LaneNo) :
    s.passBit.lanes.table.get l = s.lanes.table.get l ∨ ∃ b, s.passBit.lanes.table.get l = (s.lanes.table.get l).sample b := by
  unfold State.passBit; dsimp only; split
  · exact .inr ⟨_, by rw [sampleLanes_lane, sampleSlots_lanes]⟩
  · exact .inl rfl

@[simp] theorem passBit_laneState (s : State) (l : LaneNo) :
    (s.passBit.lanes.table.get l).state = (s.lanes.table.get l).state := by
  rcases passBit_lane s l with h | ⟨b, h⟩ <;> simp [h]

@[simp] theorem passBit_waitList (s : State) : s.passBit.lanes.waitList = s.lanes.waitList := by
  unfold State.passBit; dsimp only; split <;> simp

@[simp] theorem passBit_isPresent (s : State) (i : SlotNo) : s.passBit.isPresent i = s.isPresent i := by
  rcases passBit_monitor s i with h | h <;> simp [State.isPresent, h]

@[simp] theorem passBit_laneOf (s : State) (i : SlotNo) : s.passBit.laneOf i = s.laneOf i := by
  simp only [State.laneOf, passBit_laneState]

/-! ## The line -/

@[simp] theorem hear_sending (bit : Bool) (u : Nat) (read : List Bool) :
    (LinePhase.sending u read).hear bit = .sending u (read ++ [bit]) := rfl
@[simp] theorem hear_receiving (bit : Bool) (read : List Bool) :
    (LinePhase.receiving read).hear bit = .receiving (read ++ [bit]) := rfl
@[simp] theorem hear_ended (bit : Bool) (n : Nat) : (LinePhase.ended n).hear bit = .ended (n - 1) := rfl
@[simp] theorem hear_idle_recessive : LinePhase.idle.hear true = .idle := rfl
@[simp] theorem hear_idle_dominant : LinePhase.idle.hear false = .receiving [false] := rfl

/-- The recessive bits after the last dominant one are those that the bits read end with. -/
theorem trailingRecessive_append (before : List Bool) (n : Nat) (h : before.getLast? ≠ some true) :
    trailingRecessive (before ++ List.replicate n true) = n := by
  unfold trailingRecessive
  rw [List.reverse_append, List.reverse_replicate]
  have e : before.reverse.takeWhile (fun b => b) = [] := by
    rw [List.getLast?_eq_head?_reverse] at h
    cases hb : before.reverse with
    | nil => rfl
    | cons b bs => cases b <;> simp_all
  induction n with
  | zero => simp [e]
  | succ n ih => simpa [List.replicate_succ] using ih

@[simp] theorem frameBreaks_receiving (l : Line) (read : List Bool) (h : l.phase = .receiving read) :
    l.frameBreaks.phase = .busy (10 - trailingRecessive read) := by simp [Line.frameBreaks, h, LinePhase.recessiveRun]; rfl

/-- No bit read brings a station out of an attempt, or into one. -/
theorem hear_sends (bit : Bool) (x : LinePhase) :
    (∃ u read, x.hear bit = .sending u read) ↔ ∃ u read, x = .sending u read := by
  cases x <;> simp [LinePhase.hear] <;> split <;> simp

end Sys2Proof.Machine
end

