-- ==== Sys2Proof/Tests/Slice0.lean ====
section
/-! SUPPORT. Tests: each check of well-formedness refuses an ill-formed command; the data book's worked examples; and, for each
statement with hypotheses, a state and operands that meet them. -/

namespace Sys2Proof.Tests

-- One after another: side by side, each test by `decide +kernel` holds a thread of its own while the kernel is behind.
set_option Elab.async false

open Sys2Proof.Machine

/-- The state that a command answers. -/
def after (c : Instr) (s : State) : State :=
  match exec c s with
  | .next t => t
  | _ => s

/-- A number of ms in bit times. -/
def ms (n : Nat) : Nat := 250 * n

/-! ## Well-formedness: one ill-formed command for each check -/

theorem test_pinReset_refuses_short_pulse : (Instr.pinReset 9).wellFormed = false ∧ (Instr.pinReset 10).wellFormed = true := by
  decide

theorem test_endOfReset_refuses_short_memory : (Instr.endOfReset [1, 2, 3]).wellFormed = false := by decide

theorem test_publication_refuses_high_sums :
    (Instr.measurementPublication 0 120001 0).wellFormed = false ∧ (Instr.measurementPublication 0 0 40001).wellFormed = false ∧
      (Instr.measurementPublication 0 120000 40000).wellFormed = true := by decide

theorem test_integration_refuses_high_sum : (Instr.integrationPeriodEnd 0 4000001).wellFormed = false := by decide

theorem test_kind_frames_refuse_other_kind :
    (Instr.need 1 [1]).wellFormed = false ∧ (Instr.leave 1 [0]).wellFormed = false ∧ (Instr.plan 12 [1]).wellFormed = false ∧
      (Instr.go 12 [2]).wellFormed = false ∧ (Instr.cancel 12 [1]).wellFormed = false ∧ (Instr.build 12 [3]).wellFormed = false ∧
      (Instr.unpin 12 [4]).wellFormed = false ∧ (Instr.need 1 []).wellFormed = false ∧ (Instr.leave 1 [1]).wellFormed = true := by
  decide

theorem test_frames_refuse_long_payload :
    (Instr.claim 1 (List.replicate 41 0)).wellFormed = false ∧ (Instr.ceiling 8 (List.replicate 41 0)).wellFormed = false ∧
      (Instr.otherFrame 4 1 (List.replicate 41 0)).wellFormed = false ∧
      (Instr.need 1 (List.replicate 41 0)).wellFormed = false ∧ (Instr.otherFrame 4 1 (List.replicate 40 0)).wellFormed = true := by
  decide

theorem test_permits_refuse_other_kind :
    (Instr.permitOpen 8 [0, 2, 1, 0, 5, 0]).wellFormed = false ∧ (Instr.permitReturn 8 [0, 1, 1, 0, 5, 0]).wellFormed = false ∧
      (Instr.permitDue 8 [0, 1, 1, 0, 5, 0]).wellFormed = false ∧ (Instr.permitHold 8 [0, 1, 1, 0, 5, 0]).wellFormed = false ∧
      (Instr.permitLift 8 [0, 1, 1, 0, 5, 0]).wellFormed = false ∧ (Instr.permitRestart 8 [0, 1, 1, 0, 5, 0]).wellFormed = false ∧
      (Instr.permitOpen 8 [0, 1, 1, 0, 5]).wellFormed = false ∧ (Instr.permitOpen 8 [0, 1, 1, 0, 5, 0]).wellFormed = true := by
  decide

theorem test_unknown_permit_refuses_known_kind :
    (Instr.permitUnknownKind 8 [0, 6, 3, 0, 5, 0]).wellFormed = false ∧
      (Instr.permitUnknownKind 8 (List.replicate 41 0)).wellFormed = false ∧
      (Instr.permitUnknownKind 8 [0, 7, 3, 0, 5, 0]).wellFormed = true := by decide

theorem test_queries_refuse_other_subject :
    (Instr.queryStation 8 [0, 1, 0]).wellFormed = false ∧ (Instr.querySlot 8 [0, 0, 0]).wellFormed = false ∧
      (Instr.queryStation 8 [0, 0]).wellFormed = false ∧ (Instr.querySlot 8 [0, 1, 0]).wellFormed = true := by decide

/-! ## The data book's worked examples -/

/-- The table under R29, at 5 V and 9 V. -/
theorem test_conversion_table :
    ([1, 2, 4, 10, 12, 37, 40, 72].map (convert ({} : Record) .classC { working := .nine })) =
      [25, 50, 100, 275, 325, 1025, 1100, 2000] ∧
    ([1, 2, 4, 10, 12, 37, 40].map (convert ({} : Record) .classB {})) = [50, 100, 200, 500, 600, 1850, 2000] := by decide

/-- The examples of R28: class B in BULK with a plan floor of 20 qW, class A in TAPER at 16 qW with a plan floor of 10 qW. -/
theorem test_demand_examples :
    phaseDemand ({} : Record) 0 { cable := .classB, q := 500 } none 20 0 {} .bulk = ⟨20, 0, 40⟩ ∧
      phaseDemand ({} : Record) 0 { cable := .classA, amps := 800 } none 10
        (measuredPower { amps := 800 } { outputOn := true }) {} .taper = ⟨10, 0, 10⟩ := by decide

/-- The examples of R13. -/
theorem test_measured_power :
    measuredPower { amps := 800 } { outputOn := true } = 16 ∧
      measuredPower { amps := 1000 } { outputOn := true, working := .nine } = 36 ∧
      measuredPower { amps := 130 } { outputOn := true } = 2 ∧ measuredPower { amps := 800 } {} = 0 := by decide

/-- Station 5 of the chapter on power share: two claims of 24 qW, four peers, six slots. -/
def cartStation : State :=
  { State.reset with
    address := 5
    cfg := { stations := 8 }
    charge := #v[{ demand := ⟨4, 68, 0⟩ }, { demand := ⟨2, 0, 58⟩ }, { demand := ⟨2, 0, 18⟩ }, { demand := ⟨2, 0, 0⟩ },
      { demand := ⟨2, 38, 0⟩ }, { demand := ⟨10, 0, 0⟩ }]
    share := { state := .joined, reserve := 48, own := ⟨22, 106, 76⟩, alloc := 150
               peers := #v[none, some ⟨⟨16, 200, 100⟩, .joined, 0, true⟩, some ⟨⟨24, 0, 600⟩, .joined, 0, true⟩,
                 some ⟨⟨12, 180, 60⟩, .joined, 0, true⟩, some ⟨⟨9, 9, 9⟩, .joined, 0, false⟩, none, none, none] } }

/-- The worked case ONE COMPUTATION of chapter 3. -/
theorem test_one_computation :
    let t := cartStation.computeOnce true
    t.share.target = 196 ∧ t.share.alloc = 174 ∧ t.share.slotAlloc = #v[72, 37, 12, 2, 40, 10] := by decide +kernel

/-- The same station FLOOR-SHORT under a ceiling of 150 qW (chapter 3). -/
theorem test_floor_short :
    let t := (cartStation.setCeilings [⟨9, 150, none⟩]).computeOnce false
    t.share.floorShort = true ∧ t.share.target = 15 ∧ t.share.alloc = 15 ∧ t.share.slotAlloc = #v[2, 1, 1, 1, 1, 6] := by
  decide +kernel

/-- The class B slot of the worked integration (chapter 1) after its first period. -/
def integrating : State :=
  State.reset.setMonitor 0 { presence := .present none, cable := .classB, remainder := 1850, periodEnd := some (ms 2000) }

/-- The second period end of the worked integration of chapter 1. -/
theorem test_worked_integration :
    let t := after (.integrationPeriodEnd 0 1850000) integrating
    (t.monitor.get 0).q = 1 ∧ (t.monitor.get 0).remainder = 100 ∧ (t.monitor.get 0).periodEnd = some (ms 3000) := by
  decide +kernel

def claimAt (owner : Source) (tag duration at_ : Nat) : ClaimEntry :=
  { owner := owner, tag := tag, slot := 0, op := .withdraw, amount := 24, duration := duration
    position := ms at_, admitted := true }

/-- The worked case ADMISSION IN LINE ORDER of chapter 4: c4 fits at position 7, c5 at position 9 does not, c6 at 404 does. -/
theorem test_admission_in_line_order :
    let held := [claimAt 0 1 30 0, claimAt 0 2 30 2, claimAt 1 1 30 5]
    admits 96 held (claimAt 2 1 60 7) = true ∧
      admits 96 (held ++ [claimAt 2 1 60 7]) (claimAt 1 2 30 9) = false ∧
      admits 96 (held ++ [claimAt 2 1 60 7]) (claimAt 1 3 30 404) = true ∧ (claimAt 2 1 60 7).expiry = ms 707 := by decide

/-- The table of R89 for the station at address 3. -/
theorem test_scope_table :
    (scopeSlots 3 [0, 1, 1, 0, 47, 0]).length = 6 ∧ scopeSlots 3 [0, 1, 1, 20, 21, 0] = [2, 3] ∧
      scopeSlots 3 [0, 1, 1, 22, 200, 0] = [4, 5] ∧ scopeSlots 3 [0, 1, 1, 24, 30, 0] = [] ∧
      scopeSlots 3 [0, 1, 1, 21, 19, 0] = [] ∧ scopeSlots 3 [0, 1, 1, 60, 255, 0] = [] := by decide

/-- The examples of R91. -/
theorem test_check_zero_examples :
    checkZero {} (permitOf 9 [0, 1, 3, 0, 47, 0]) = .inl .source ∧ checkZero {} (permitOf 8 [0, 4, 1, 0, 47, 0]) = .inl .level ∧
      checkZero {} (permitOf 14 [0, 1, 0, 0, 47, 0]) = .inl .source ∧ checkZero {} (permitOf 8 [0, 9, 1, 0, 47, 0]) = .inl .badPermit := by
  decide

/-- The examples under R162: a pulse duration of 40 ms, a lane count of 7, a source level of 9, a maintenance set-point of 340
mA and a station count of 0. -/
theorem test_record_clamps :
    let r := recordOf (List.replicate 14 0 ++ [0, 40, 63, 7, 5, 220, 1, 84] ++ List.replicate 20 0 ++ [9] ++ List.replicate 11 0)
    r.pulseDuration = 100 ∧ r.laneCount = 4 ∧ r.sourceLevels.get 0 = 3 ∧ r.maintenance = 325 ∧ r.stations = 1 := by decide

/-- Bit counts without fill bits of the example THREE STATIONS AT ONE IDLE (chapter 8): a CLAIM 70, a NEED 102, a PERMIT 86. -/
theorem test_frame_lengths :
    (frameBits 0 1 [1, 0, 24, 30]).length + 8 = 70 ∧ (frameBits 2 1 [0, 1, 0, 22, 0, 106, 0, 76]).length + 8 = 102 ∧
      (frameBits 3 8 [1, 1, 1, 0, 47, 0]).length + 8 = 86 := by decide +kernel

/-- The check value of the CRC with this generator, all ones preset and no inversion over the characters 1 to 9 (its usual
published check value). -/
theorem test_crc_check_value : crcOf ([49, 50, 51, 52, 53, 54, 55, 56, 57].flatMap (bitsOf 8)) = 0x29B1 := by decide +kernel

/-- A frame of zeros is read back, though its fill bits fall in every field (R143, R145). -/
theorem test_receive_reads_zeros : receive (lineBits 0 0 [0, 0, 0, 0]) = .good 0 0 [0, 0, 0, 0] := by decide +kernel

/-- Six equal bits are abandoned, a length above 40 is abandoned, and a changed bit fails the CRC (R145). -/
theorem test_receive_refuses :
    receive (List.replicate 40 false) = .abandoned ∧ receive (fill (false :: bitsOf 13 41) ++ List.replicate 30 true) = .abandoned ∧
      receive (fill (false :: (coveredBits 2 1 [1] ++ bitsOf 16 (crcOf (coveredBits 2 1 [2])))) ++ List.replicate 9 true) = .badCrc := by decide +kernel

/-- The first three wakings of FIVE TABLETS ON THREE LANES (chapter 7): each slot that joins wakes the next lane. -/
theorem test_lanes_wake_for_waiting_slots :
    let t := ({ State.reset with lanes := { waitList := [(0, false), (1, false)] } } : State).wakeLanes
    (t.lanes.table.get 0).state = .waking (ms 50) ∧ (t.lanes.table.get 1).state = .waking (ms 50) ∧
      (t.lanes.table.get 2).state = .dormant := by decide +kernel

/-! ## Witnesses: a state and operands that meet the hypotheses of each statement, clause by clause -/

def loading : State := { State.reset with mode := .loading 0 }
def withPhase (x : LinePhase) (s : State) : State := s.setLine { s.line with phase := x }
/-- The reset state once its line is idle. -/
def rested : State := withPhase .idle State.reset
def withMonitor (m : MonitorSlot) : State := rested.setMonitor 0 m
def withCharge (c : ChargeSlot) : State := rested.setCharge 0 c
def withLatch (l : LatchSlot) : State := rested.setLatch 0 l
def withRun (r : RunState) (usingLane : Bool) (step : Nat) (x : StepKind) (arg : Nat) (phase : PlanPhase) : State :=
  { rested with plans := {
      slots := setAt ({} : Plans).slots 0 { runs := [⟨7, r, step, usingLane⟩] }
      table := [{ id := 7, source := 12, mask := [0], phase := phase, pinned := false, tag := 5, steps := [⟨x, arg⟩],
                  runsOpen := 1 }] } }
def withLane (x : LaneState) (faults : Nat) (enum_ fault : Filtered) (s : State) : State :=
  s.setLane 0 { state := x, faults := faults, enumIn := enum_, faultIn := fault }
def presentSlot : MonitorSlot := { presence := .present none, cable := .classA, presentIn := .asserted, boltIn := .thrown }
def lockedSlot (s : State) : State := (s.setMonitor 0 presentSlot).setLatch 0 { state := .locked }
def sendingClaim (failed : Nat) (withdraw : Bool) : State :=
  { State.reset with
    line := { queue := [{ frame := .claim 0 .withdraw 0 24 30, order := 0, failed := failed, sending := true, withdraw := withdraw }]
              nextOrder := 1, phase := .sending 80 [] }
    claims := { requests := [⟨0, .withdraw, 1, true⟩], own := [⟨0, 0, .withdraw, 24, 30, true, none⟩], tagCounter := 1 } }

theorem witness_EveryCommandAnswers :
    isLoaderCommand .claimExpiry = false ∧ loading.mode ≠ .running := by decide

theorem witness_PowerOnAndPinResetReleaseOutputs : (9 : Nat) < 10 ∧ (10 : Nat) ≤ 10 := by decide

/-- A memory of zeros holds a record, whose sum is 0; one of ones does not. -/
theorem witness_BlocksStartOnRecord :
    (after .powerOn State.reset).mode = .heldInReset ∧ State.reset.mode ≠ .heldInReset ∧
      (after (.resetRelease .low .high .low) (after .powerOn State.reset)).address = 2 ∧ loading.mode = .loading 0 ∧
      HoldsRecord (List.replicate 54 0) ∧ ¬ HoldsRecord (List.replicate 54 1) ∧ ¬ HoldsRecord [] :=
  ⟨by decide, by decide, by decide, by decide, ⟨by decide, by decide⟩, fun h => absurd h.2 (by decide),
    fun h => absurd h.1 (by decide)⟩

/-- The table of chapter 9 for a memory that reads all 255: the end of reset at 5.9 ms, 1475 bit times, from which the first
sample falls 1 ms later and the report timer expires at 505.9 ms. -/
theorem test_time_base_begins_at_end_of_reset :
    let t := after (.endOfReset (List.replicate 54 255)) { loading with clock := 1475, line := {} }
    let at_ := fun clock : Nat => { t with clock := clock }
    t.defaulted = true ∧ t.baseAt = 1475 ∧ t.share.reportAt = 126475 ∧
      ((at_ 1723).passBit.monitor.get 0).presentRun.run = 0 ∧ ((at_ 1724).passBit.monitor.get 0).presentRun.run = 1 ∧
      ((at_ 1749).passBit.monitor.get 0).presentRun.run = 0 := by decide +kernel

theorem witness_RecordStaysInRange :
    loading.mode = .loading 0 ∧ HoldsRecord (List.replicate 54 0) ∧ State.reset.cfg.InRange ∧
      step State.reset = .next State.reset.bitTime :=
  ⟨rfl, ⟨by decide, by decide⟩, default_inRange, rfl⟩

theorem witness_ClaimsStayWithinAllowance : State.reset.ClaimsWithin ∧ step State.reset = .next State.reset.bitTime :=
  ⟨⟨by decide, fun _ => by simp [State.reset, liveClaims], by decide⟩, rfl⟩

theorem witness_DrivenBoltsStayClaimed : State.reset.BoltsClaimed ∧ step State.reset = .next State.reset.bitTime :=
  ⟨fun i u _ => ⟨fun h => absurd h (by revert i; exact forSix nofun nofun nofun nofun nofun nofun),
    fun h => absurd h (by revert i; exact forSix nofun nofun nofun nofun nofun nofun)⟩, rfl⟩

theorem witness_SharesStayRight : State.reset.ShareRight ∧ step State.reset = .next State.reset.bitTime :=
  ⟨⟨rfl, by decide, by decide, by decide⟩, rfl⟩

theorem witness_PowerStagesStayRight : State.reset.PowerRight ∧ step State.reset = .next State.reset.bitTime :=
  ⟨forSix ⟨⟨rfl, rfl⟩, trivial⟩ ⟨⟨rfl, rfl⟩, trivial⟩ ⟨⟨rfl, rfl⟩, trivial⟩ ⟨⟨rfl, rfl⟩, trivial⟩ ⟨⟨rfl, rfl⟩, trivial⟩
    ⟨⟨rfl, rfl⟩, trivial⟩, rfl⟩

theorem witness_SetPointsStayInRange :
    State.reset.PowerRight ∧ State.reset.cfg.InRange ∧ step State.reset = .next State.reset.bitTime :=
  ⟨witness_PowerStagesStayRight.1, default_inRange, rfl⟩

theorem witness_ShelfDrawWithinAllocation : State.reset.PowerRight ∧ State.reset.ShareRight :=
  ⟨witness_PowerStagesStayRight.1, witness_SharesStayRight.1⟩

/-- A change of each input, an input that already has the value, and an unfitted slot. -/
theorem witness_FilteredInputsMoveSlot :
    State.reset.mode = .running ∧ State.reset.fitted 0 = true ∧ (withMonitor { fitted := false }).fitted 0 = false ∧
      (State.reset.monitor.get 0).presentIn ≠ filteredOf .asserted ∧ (State.reset.monitor.get 0).boltIn ≠ boltSenseOf .thrown ∧
      ((withMonitor { presentIn := .asserted, boltIn := .thrown }).monitor.get 0).presentIn = filteredOf .asserted ∧
      ((withMonitor { presentIn := .asserted, boltIn := .thrown }).monitor.get 0).boltIn = boltSenseOf .thrown := by decide

/-- At the edges of the ranges of R7. -/
theorem witness_InsertionStartsSlot :
    let s := withMonitor { presence := .settling (ms 500) false, presentIn := .asserted }
    s.mode = .running ∧ (s.monitor.get 0).presence = .settling (ms 500) false ∧
      ([900, 1100, 1101, 2700, 3300, 8200, 9800, 9801].map (fun r => (((after (.insertion 0 (some r)) s).monitor.get 0).cable))) =
        [.classA, .classA, .invalid, .classB, .classB, .classC, .classC, .invalid] := by decide +kernel

theorem witness_ExtractionClearsSlot :
    let s := withMonitor { presentSlot with presence := .present (some (ms 200)) }
    s.mode = .running ∧ (s.monitor.get 0).presence = .present (some (ms 200)) := by decide

/-- Both sides of a movement under a thrown bolt (R74, R101): a TAMPER hold and its notice, and none where the bolt is
withdrawn. -/
theorem test_moved_tablet_is_tampering :
    let s := fun x : LatchState => (withMonitor { presentSlot with presence := .present (some (ms 200)) }).setLatch 0 { state := x }
    ((after (.extraction 0) (s .locked)).custody.slots.get 0).hold = some ⟨3, .tamper⟩ ∧
      (after (.extraction 0) (s .locked)).line.queue.map (·.frame) =
        [.notice .configDefaulted none 0, .notice .extracted (some 0) 0, .notice .tamper (some 0) 1] ∧
      ((after (.extraction 0) (s (.opened .window (ms 9000)))).custody.slots.get 0).hold = none := by decide +kernel

/-- Nominal + 10 % and one mV more; below 70 % of the set-point and at it, where the dwell of BULK ends; a running dwell runs
on. -/
theorem witness_PublicationJudgesSlot :
    let s := fun since : Option Nat =>
      withCharge { phase := .charging .bulk, outputOn := true, setPoint := 1000, downSince := since }
    let d := fun (since : Option Nat) (voltageSum currentSum : Nat) =>
      (after (.measurementPublication 0 voltageSum currentSum) { s since with clock := ms 20 }).charge.get 0
    (s none).mode = .running ∧ (s none).fitted 0 = true ∧ (withMonitor { fitted := false }).fitted 0 = false ∧
      (d none 55010 6990).phase = .faulted .overVoltage none ∧ (d none 55000 6990).downSince = some (ms 20) ∧
      (d (some 7) 55000 6990).downSince = some 7 ∧ (d (some 7) 55000 7000).downSince = none := by decide +kernel

/-- A lane that wakes 0.4 ms after a step of the time base is sampled first 1 ms after that moment, and a line asserted
throughout faults it 5 ms after it (R131, R139, notes/assumptions/34.md). -/
theorem test_lane_is_sampled_from_waking :
    let s := fun (clock : Nat) (run : Nat) => ({ (({ rested with clock := 100, line := {} } : State).setLane 0
      { faultPin := true, faultRun := ⟨true, run⟩ }).moveLane 0 (.waking 12600) with clock := clock } : State)
    ((s 249 0).passBit.lanes.table.get 0).faultRun.run = 0 ∧ ((s 349 0).passBit.lanes.table.get 0).faultRun.run = 1 ∧
      ((s 249 0).passBit.monitor.get 0).samples = 1 ∧ ((s 349 0).passBit.monitor.get 0).samples = 0 ∧
      (s 1348 4).passBit.dueNow = [] ∧ (s 1349 4).passBit.dueNow = [.laneFault 0] := by decide +kernel

/-- A time base that began at 100; at a step of it and between two, with nothing due, a step of a lane's own; the bounds of each
filter: a run of 5
samples at a glitch width of 4, of 5 on a sideband line (R131), ten samples and the end of a period. -/
theorem witness_SamplesPassFilters :
    let s := fun clock : Nat => ({ rested with clock := clock, baseAt := 100, line := {} } : State)
    (s 348).mode = .running ∧ (s 348).dueNow = [] ∧ (s 349).dueNow = [] ∧ (348 + 1 - 100) % 250 ≠ 0 ∧ (349 + 1 - 100) % 250 = 0 ∧
      (s 249).dueNow = [] ∧ (249 + 1 - ((s 249).lanes.table.get 0).sampledFrom) % 250 = 0 ∧
      (withMonitor { presentRun := ⟨true, 4⟩, samples := 9 }).dueNow = [.transmitAttempt] ∧
      (withMonitor { presentRun := ⟨true, 5⟩ }).dueNow = [.transmitAttempt, .filteredPresentChange 0 .asserted] ∧
      (withMonitor { samples := 10, voltSum := 7, periodEnd := some 0, periodSum := 9 }).dueNow =
        [.transmitAttempt, .measurementPublication 0 7 0, .integrationPeriodEnd 0 9] ∧
      (rested.setLane 0 { state := .ready none, faultRun := ⟨true, 5⟩ }).dueNow = [.transmitAttempt, .laneFault 0] ∧
      (rested.setLane 0 { state := .ready none, faultRun := ⟨true, 4⟩ }).dueNow = [.transmitAttempt] := by decide +kernel

theorem witness_IntegrationAddsCharge : integrating.mode = .running ∧ (integrating.monitor.get 0).periodEnd = some (ms 2000) := by
  decide

/-- A class A slot at 1500 mA is over-current above 1800 mA (R34). -/
theorem witness_FaultsAndDetectRunTheirCourse :
    let s := withCharge { phase := .charging .bulk, outputOn := true, setPoint := 1500, overSince := some 0 }
    s.mode = .running ∧ (s.charge.get 0).overSince = some 0 ∧ (s.charge.get 0).phase.judgesCurrent = true ∧
      ((after (.measurementPublication 0 50000 18000) s).charge.get 0).overSince = none ∧
      ((after (.measurementPublication 0 50000 18010) s).charge.get 0).overSince = some 0 ∧
      ((withCharge { phase := .faulted .overCurrent (some (ms 10000)) }).charge.get 0).phase = .faulted .overCurrent (some (ms 10000)) ∧
      ((withCharge { phase := .detect (some (ms 1000)) }).charge.get 0).phase = .detect (some (ms 1000)) := by decide +kernel

theorem witness_DwellsEnterTheirPhases :
    let s := fun (p : Phase) => withCharge { phase := p, downSince := some 0, upSince := some 0 }
    (s (.charging .bulk)).mode = .running ∧ ((s (.charging .bulk)).charge.get 0).phase = .charging .bulk ∧
      ((s (.charging .taper)).charge.get 0).phase = .charging .taper ∧
      ((s (.charging .topped)).charge.get 0).phase = .charging .topped ∧
      ((s (.restart .taper (ms 200) {})).charge.get 0).phase = .restart .taper (ms 200) {} ∧
      ((s (.charging .taper)).charge.get 0).downSince = some 0 ∧ ((s (.charging .taper)).charge.get 0).upSince = some 0 := by
  decide

theorem witness_PassedDueMarkCountsNoMore :
    let s := State.reset.setCustody 0 { dueUntil := some (ms 60000) }
    (s.custody.slots.get 0).dueUntil = some (ms 60000) ∧ (s.custody.slots.get 0).duePassed = false := by decide

/-- PowerRight at reset, from which a due mark may pass; and a class B slot that enters BULK asks for 2 + 58 qW, all of it
urgent until it holds the urgent charge. -/
theorem witness_DemandFollowsPhase :
    let s : State :=
      { ((withCharge { phase := .detect (some (ms 1000)), outputOn := true, setPoint := 500, demand := ⟨10, 0, 0⟩ }).setMonitor 0
          { presentSlot with cable := .classB }) with pending := [.detectTimerExpiry 0] }
    let t := match step s with
      | .next t => t
      | _ => s
    State.reset.PowerRight ∧ State.reset.demandsMoved = false ∧ changesDemand (.dueUntilPasses 0) = true ∧
      step s = .next t ∧ t.demandsMoved = false ∧ (t.charge.get 0).demand = ⟨2, 58, 0⟩ :=
  ⟨witness_PowerStagesStayRight.1, by decide +kernel, rfl, rfl, by decide +kernel, by decide +kernel⟩

/-- Two ceilings below the cart's, the lower one 200 qW, so that the isolated allowance is 40 qW; a LIVE peer, a STALE one and
one that reports CLASHED. -/
theorem witness_ComputationFollowsTiers :
    let s : State := { State.reset with share := {
      own := ⟨10, 20, 30⟩, ceilings := [⟨8, 300, none⟩, ⟨9, 200, none⟩]
      peers := setAt (setAt (setAt ({} : Share).peers 0 (some ⟨⟨1, 2, 3⟩, .listen, 0, true⟩)) 1 (some ⟨⟨4, 5, 6⟩, .joined, 0, false⟩)) 2
        (some ⟨⟨7, 8, 9⟩, .clashed, 0, true⟩) } }
    (∃ r ∈ s.share.ceilings, r.ceiling = 200) ∧ 200 ≤ s.cfg.cartCeiling ∧ (∀ r ∈ s.share.ceilings, 200 ≤ r.ceiling) ∧
      s.totals = ⟨10 + 1 + 40 + 40, 20 + 2, 30 + 3⟩ ∧ (State.reset.share.ceilings = [] ∧ State.reset.ceff = 1600) := by decide

theorem witness_CartTargetsWithinBudget :
    let s : State := { State.reset with share := { own := ⟨10, 0, 30⟩ } }
    ∀ x ∈ [s], x.available = 1560 ∧ x.totals = ([s].map (fun y => y.share.own)).foldl Demand.plus {} := by decide

/-- Own sums that change from 200 qW, the last sent sum, to n qW, with the last NEED at a moment. -/
def moving (n : Nat) (lastNeed : Option Nat) : State :=
  { withCharge { phase := .restart .bulk 0 ⟨n, 0, 0⟩ } with
    clock := ms 60, share := { own := ⟨200, 0, 0⟩, lastSum := 200, lastNeed := lastNeed } }

/-- The examples of R49: 217 qW calls for an early NEED, at once or 50 ms after the last one, 216 qW for none. -/
theorem test_early_need_examples :
    (moving 217 none).demandRound.line.needWaits = true ∧ (moving 217 (some (ms 10))).demandRound.line.needWaits = true ∧
      (moving 217 (some (ms 10 + 1))).demandRound.line.needWaits = false ∧
      (moving 217 (some (ms 10 + 1))).demandRound.share.earlyDue = true ∧
      (moving 216 none).demandRound.line.needWaits = false ∧ (moving 216 none).demandRound.share.earlyDue = false := by
  decide +kernel

/-- A change far enough, with the last NEED 50 ms and less than 50 ms ago, and one not far enough. -/
theorem witness_TimersHandNeed :
    let s : State := { State.reset with share := { earlyDue := true, lastNeed := some 0 } }
    State.reset.mode = .running ∧ s.share.earlyDue = true ∧ s.share.lastNeed = some 0 ∧
      (moving 217 none).demandRound.share.own ≠ (moving 217 none).share.own ∧ (200 : Nat) + 16 < 217 ∧ ¬ (200 : Nat) + 16 < 216 ∧
      ms 10 + 50 * 250 ≤ ms 60 ∧ ¬ ms 10 + 1 + 50 * 250 ≤ ms 60 ∧ State.reset.NeedRight ∧ s.NeedRight ∧
      ({ s with clock := ms 50 } : State).dueNow = [.earlyNeedSpacing] ∧
      (after .reportTimerExpiry rested).Waits (.need .listen {}) :=
  ⟨rfl, rfl, rfl, by decide +kernel, by decide, by decide, by decide, by decide, fun h => absurd h (by decide),
    fun _ => ⟨rfl, rfl⟩, by decide +kernel, _, List.mem_of_getElem? (i := 0) rfl, by decide +kernel⟩

theorem witness_ShareTimersTakeTheirChange :
    let p : Peer := ⟨{}, .joined, 0, true⟩
    let s : State := { State.reset with share := { state := .joined, silenceAt := some (ms 1500), ceilings := [⟨8, 300, some (ms 9000)⟩]
                                                   peers := setAt ({} : Share).peers 1 (some p) } }
    s.share.state = .joined ∧ s.share.silenceAt = some (ms 1500) ∧ s.share.peers.get 1 = some p ∧ p.live = true ∧
      recordExpiry 8 s.share.ceilings = some (ms 9000) := by decide

/-- A door-panel node, a peer and the own address (7); a phase in which frames are taken and the one after reset, in which not.
-/
theorem witness_EveryFrameIsWatched :
    8 ≤ (8 : Source).val ∧ ((1 : Source).val < 8 ∧ (1 : Source).val ≠ State.reset.address.val) ∧
      (7 : Source).val = State.reset.address.val ∧ State.reset.share.state ≠ .clashed ∧
      frameOf (.otherFrame 4 1 []) = some (4, 1, []) ∧ frameOf (.claim 1 [0]) = some (0, 1, [0]) ∧ malformed 0 [0] = true ∧
      rested.line.phase.receives = true ∧ State.reset.line.phase.receives = false ∧
      (after .frameAbandoned rested).line.phase.receives = false := by decide

/-- The first source at an empty table, and a source that has its record. -/
theorem witness_PeerFramesMoveTables :
    rested.mode = .running ∧ rested.line.phase.receives = true ∧
      byteAt [0, 3, 0, 9, 0, 9, 0, 9] 0 = 0 ∧ byteAt [0, 3, 0, 9, 0, 9, 0, 9] 1 < 4 ∧ byteAt [1] 0 = 1 ∧
      (1 : Station).val = (1 : Source).val ∧ (1 : Station) ≠ State.reset.address ∧ (7 : Source).val = State.reset.address.val ∧
      rested.share.ceilings.length < 4 ∧ (∃ r ∈ [(⟨8, 300, none⟩ : CeilingRecord)], r.source = 8) ∧
      [(0 : Byte), 0, 0, 0].length = 4 := by decide

def fullCeilings : State := (withPhase (.receiving [false]) State.reset).setCeilings [⟨8, 300, none⟩, ⟨9, 200, none⟩, ⟨10, 300, none⟩, ⟨11, 100, none⟩]

/-- A fifth source below, and at, the highest ceiling (R56): the lowest source of the two at 300 qW gives way. -/
theorem witness_FullCeilingTableKeepsLowest :
    fullCeilings.line.phase = .receiving [false] ∧ (∀ r ∈ fullCeilings.share.ceilings, r.source ≠ 14) ∧ fullCeilings.share.ceilings.length = 4 ∧
      ((after (.ceiling 14 [1, 43, 0, 0]) fullCeilings).share.ceilings.map (·.source)) = [14, 9, 10, 11] ∧
      (after (.ceiling 14 [1, 44, 0, 0]) fullCeilings).share.ceilings = fullCeilings.share.ceilings := by decide +kernel

theorem reset_places : State.reset.PlacesWithin := ⟨by decide, by decide, by decide, by decide, rfl⟩

theorem reset_queue : State.reset.QueueRight :=
  ⟨List.pairwise_singleton _ _, by decide, by decide⟩

theorem reset_runs : State.reset.RunsRight := by
  refine ⟨by decide, by decide, by decide, forSix ?_ ?_ ?_ ?_ ?_ ?_⟩ <;> exact ⟨List.nodup_nil, nofun⟩

theorem witness_TablesStayWithinPlaces :
    State.reset.PlacesWithin ∧ State.reset.QueueRight ∧ State.reset.RunsRight ∧ step State.reset = .next State.reset.bitTime :=
  ⟨reset_places, reset_queue, reset_runs, rfl⟩

/-- A claim at the allowance fits, one qW more does not. -/
theorem witness_ClaimIsJudgedAtItsPosition :
    admits 96 [] (claimOf 1 [0, 0, 96, 30] 0) = true ∧ admits 96 [] (claimOf 1 [0, 0, 97, 30] 0) = false ∧
      [(0 : Byte), 0, 96, 30].length = 4 := by decide

def asking : State := rested.setRequests [⟨0, .withdraw, 1, false⟩]

/-- A refused request: a claim of station 1 is live until 400 ms, and the retry hold is in force until then. -/
def heldBack (clock : Nat) : State :=
  { asking with clock := clock, claims := { asking.claims with entries := [claimAt 1 0 30 0], retryHold := some (ms 400) } }

theorem heldBack_right (clock : Nat) : (heldBack clock).HoldRight :=
  fun _ h => ⟨claimAt 1 0 30 0, List.mem_singleton_self _, rfl, Option.some.inj h⟩

/-- An unclaimed request, one behind a retry hold, and the hold at its end, at which the request is claimed. -/
theorem witness_ClaimIsHandedForOldestRequest :
    (State.reset.ClaimsHanded ∧ (heldBack (ms 399)).ClaimsHanded) ∧ step State.reset = .next State.reset.bitTime ∧
      (heldBack (ms 400)).HoldRight ∧ (heldBack (ms 400)).mode = .running ∧
      (heldBack (ms 400)).claims.retryHold = some (ms 400) ∧ (heldBack (ms 400)).dueNow.head? = some .claimExpiry ∧
      (after .claimExpiry (heldBack (ms 400))).claims.own.length = 1 ∧
      asking.claims.requests.find? (fun x => !x.claimed) = some ⟨0, .withdraw, 1, false⟩ ∧ asking.claims.own.length < 2 ∧
      asking.share.state ≠ .clashed ∧ asking.claims.retryHold = none ∧
      State.reset.claims.requests.find? (fun x => !x.claimed) = none :=
  ⟨⟨.inl nofun, .inr (.inr (.inr ⟨ms 400, rfl, by decide⟩))⟩, rfl, heldBack_right _, rfl, rfl, by decide +kernel,
    by decide +kernel, by decide, by decide, by decide, rfl, by decide⟩

theorem witness_ClaimsExpireTogether :
    ({ State.reset with claims := { entries := [claimAt 1 0 30 0] } } : State).nextClaimExpiry = some (ms 400) := by decide

/-- The own CLAIM is admitted, and refused where 96 qW are live already. -/
theorem witness_CompletionDecidesOwnClaim :
    let s := sendingClaim 0 false
    let full : State := { s with claims := { s.claims with entries := [{ claimAt 1 0 30 0 with amount := 96 }] } }
    let l := fun x : State => x.setLatch 0 { state := .withdrawWait (ms 30000) }
    s.line.phase = .sending 80 [] ∧ (sentEntry s.line.queue).isSome = true ∧ (7 : Source).val = s.address.val ∧
      ((after .transmitComplete (l s)).latch.get 0).state = .withdrawing (80 + ms 300) ∧
      ((after .transmitComplete (l full)).latch.get 0).state = .withdrawWait (ms 30000) ∧
      (after .transmitComplete (l full)).claims.retryHold = some (ms 400) := by decide +kernel

/-- Claim b7 of the worked sequence A CLASS CHECKOUT (chapter 11): admitted at 1 201 128 µs, its pulse ends at 1 501 128 µs. -/
theorem test_pulse_lasts_from_admission :
    let s := (withPhase (.sending (1201128 / 4) []) (sendingClaim 0 false)).setLatch 0 { state := .withdrawWait (ms 30000) }
    ((after .transmitComplete s).latch.get 0).state = .withdrawing (1501128 / 4) := by decide +kernel

/-- Each reading of the bolt, each attempt, with and without a restart. -/
theorem witness_WithdrawPulseEndReadsBolt :
    let s := fun (b : BoltSense) (n : Nat) (l : Bool) =>
      (withMonitor { boltIn := b }).setLatch 0 { state := .withdrawing (ms 300), attempt := n, learnAtEnd := l }
    ((s .thrown 1 false).latch.get 0).state = .withdrawing (ms 300) ∧
      ((after (.withdrawPulseEnd 0) (s .withdrawn 1 false)).latch.get 0).state = .opened .emptyOpen (ms 120300) ∧
      ((after (.withdrawPulseEnd 0) (s .thrown 1 false)).latch.get 0).state = .withdrawWait (ms 30300) ∧
      ((after (.withdrawPulseEnd 0) (s .thrown 2 false)).latch.get 0).state = .jammed ∧
      ((after (.withdrawPulseEnd 0) (s .thrown 2 true)).latch.get 0).state = .locked := by decide +kernel

theorem witness_ThrowPulseEndReadsBolt :
    let s := fun (b : BoltSense) (n : Nat) (l : Bool) =>
      (withMonitor { boltIn := b }).setLatch 0 { state := .throwing (ms 300), attempt := n, learnAtEnd := l }
    ((s .thrown 1 false).latch.get 0).state = .throwing (ms 300) ∧
      ((after (.throwPulseEnd 0) (s .thrown 2 false)).latch.get 0).state = .locked ∧
      ((after (.throwPulseEnd 0) (s .withdrawn 1 false)).latch.get 0).attempt = 2 ∧
      ((after (.throwPulseEnd 0) (s .withdrawn 2 false)).latch.get 0).state = .jammed ∧
      ((after (.throwPulseEnd 0) (s .withdrawn 2 true)).latch.get 0).state = .opened .emptyOpen (ms 120300) := by decide +kernel

theorem witness_LatchTimersExpire :
    ((withLatch { state := .opened .window (ms 10000) }).latch.get 0).state = .opened .window (ms 10000) ∧
      ((withLatch { state := .withdrawWait (ms 30000) }).latch.get 0).state = .withdrawWait (ms 30000) ∧
      ((sendingClaim 0 false).claims.own.find? (fun x => decide (x.slot = 0 ∧ x.hasRequest = true ∧ x.expires = none))).isSome =
        true := by decide

theorem trusts_panel (n : Nat) (h : n ≤ 3) : Trusts ({} : Record) 8 n := ⟨0, rfl, by decide, h⟩

/-- A shelf address, an unknown kind, and a HOLD of level 1. -/
theorem witness_FailedPermitAnswersEveryPlace :
    frameOf (.permitUnknownKind 8 [0, 7, 1, 0, 47, 0]) = some (3, 8, [0, 7, 1, 0, 47, 0]) ∧
      (scopeSlots State.reset.address [0, 7, 1, 0, 47, 0]).head? = some 0 ∧ State.reset.custody.verdict = [] ∧
      ¬ Trusts ({} : Record) 1 1 ∧ Trusts ({} : Record) 8 1 ∧ scopeSlots State.reset.address [0, 1, 1, 0, 41, 0] = [] ∧
      (scopeSlots State.reset.address [0, 1, 1, 0, 42, 0]) = [0] := by
  refine ⟨rfl, by decide, rfl, ?_, trusts_panel 1 (by decide), by decide, by decide⟩
  rintro ⟨k, h, -⟩
  have : (1 : Nat) = 8 + k.val := h
  omega

/-- A level-1 OPEN grants a PRESENT, LOCKED, charge-ready slot and answers its five neighbours NOT_LOCKED. -/
theorem witness_ReleasePermitIsJudgedSlotBySlot :
    let s := (lockedSlot rested).setCharge 0 { ready := true }
    let p : List Byte := [3, 1, 1, 42, 47, 0]
    Trusts s.cfg 8 1 ∧ scopeSlots s.address p ≠ [] ∧ (s.watched 8).releaseAnswer .openSlot 1 0 = .granted ∧
      (after (.permitOpen 8 p) s).Waits
        (.verdict 3 8 42 [.granted, .notLocked, .notLocked, .notLocked, .notLocked, .notLocked]) :=
  ⟨trusts_panel 1 (by decide), by decide, by decide, _, List.mem_of_getElem? (i := 2) rfl, by decide +kernel⟩

/-- The lanes agree where none is ATTACHED but lane 0 to slot 0, and no slot waits. -/
theorem lanes_right_of_one {s : State} (w : s.lanes.waitList = [])
    (h : ∀ l : LaneNo, l ≠ 0 → ∀ i p, (s.lanes.table.get l).state ≠ .attached i p) : s.LanesRight := by
  refine ⟨by simp [w], by simp [w], fun l m i p q a b => ?_⟩
  have x : l = 0 := by by_contra n; exact h l n i p a
  have y : m = 0 := by by_contra n; exact h m n i q b
  rw [x, y]

/-- Slot 0 holds lane 0 pinned, and its one run waits for a GO. -/
def heldByLane : State :=
  (lockedSlot (withLane (.attached 0 true) 0 .asserted .released (withRun (.goWait none) true 1 .await 0 .single))).setCharge 0
    { path := .lane }

theorem heldByLane_right : heldByLane.LanesRight :=
  lanes_right_of_one rfl (by
    refine forLanes (fun h => absurd rfl h) ?_ ?_ ?_ <;> intro _ i p h <;> cases h)

theorem heldByLane_runs : heldByLane.RunsRight := by
  refine ⟨by decide, by decide, by decide, forSix ?_ ?_ ?_ ?_ ?_ ?_⟩ <;> exact ⟨by decide, by decide⟩

/-- One busy slot; and a FORCE over the whole shelf, in which the busy slot and a LOCKED one are granted and four are not. -/
theorem witness_ForceTakesSlotFromProvisioning :
    Trusts heldByLane.cfg 8 3 ∧ scopeSlots heldByLane.address [0, 1, 131, 42, 42, 0] = [0] ∧
      (heldByLane.watched 8).releaseAnswer .openSlot 3 0 = .busy ∧ heldByLane.LanesRight ∧ heldByLane.RunsRight ∧
      (after (.permitOpen 8 [5, 1, 131, 42, 47, 0]) (heldByLane.setLatch 2 { state := .locked })).line.queue.map (·.frame) =
        [.claim 0 .withdraw 0 24 30, .claim 1 .withdraw 2 24 30, .notice .configDefaulted none 0, .result 12 7 0 .forced 1,
          .verdict 5 8 42 [.granted, .notLocked, .granted, .notLocked, .notLocked, .notLocked]] ∧
      byteAt [0, 1, 131, 42, 42, 0] 2 % 4 = 3 ∧ 128 ≤ byteAt [0, 1, 131, 42, 42, 0] 2 :=
  ⟨trusts_panel 3 (by decide), by decide, by decide, heldByLane_right, heldByLane_runs, by decide +kernel, by decide, by decide⟩

/-- Holds below, at and above a level-2 permit's level. -/
theorem witness_CustodyPermitsActOnFittedSlots :
    let s := fun h : Option Hold => rested.setHold 0 h
    Trusts State.reset.cfg 8 2 ∧ scopeSlots State.reset.address [0, 4, 2, 42, 42, 0] ≠ [] ∧ State.reset.fitted 0 = true ∧
      ((after (.permitHold 8 [0, 4, 2, 42, 42, 0]) (s none)).custody.slots.get 0).hold = some ⟨2, .admin⟩ ∧
      ((after (.permitHold 8 [0, 4, 2, 42, 42, 0]) (s (some ⟨3, .tamper⟩))).custody.slots.get 0).hold = some ⟨3, .tamper⟩ ∧
      ((after (.permitLift 8 [0, 5, 2, 42, 42, 0]) (s (some ⟨2, .admin⟩))).custody.slots.get 0).hold = none ∧
      ((after (.permitDue 8 [0, 3, 2, 42, 42, 0]) rested).custody.slots.get 0).dueUntil = some (ms 60000) ∧
      (after (.permitRestart 8 [0, 6, 3, 42, 42, 0]) rested).custody.restartDue = true :=
  ⟨trusts_panel 2 (by decide), by decide, by decide, by decide +kernel, by decide +kernel, by decide +kernel, by decide +kernel,
    by decide +kernel⟩

/-- A restart is due; slot 0 runs plan 7 and queues a run of plan 8. -/
def queuedBehind : State :=
  { heldByLane with custody := { heldByLane.custody with restartDue := true }, plans := {
      slots := setAt ({} : Plans).slots 0 { runs := [⟨7, .goWait none, 1, true⟩, ⟨8, .queued, 1, false⟩] }
      table := [⟨7, 12, [0], .single, false, 5, [⟨.await, 0⟩], 1⟩, ⟨8, 13, [0], .single, false, 5, [⟨.await, 0⟩], 1⟩] } }

theorem queuedBehind_runs : queuedBehind.RunsRight := by
  refine ⟨by decide, by decide, by decide, forSix ?_ ?_ ?_ ?_ ?_ ?_⟩ <;> exact ⟨by decide, by decide⟩

/-- Both runs are answered, the head run at its step and the queued one at 0 (R126). -/
theorem test_restart_answers_every_run :
    (after .stationRestart queuedBehind).line.queue.map (·.frame) =
      [.leave, .notice .configDefaulted none 0, .result 12 7 0 .restarted 1, .result 13 8 0 .restarted 0] := by decide +kernel

/-- A RESTART permit, received and waiting, makes a restart due. -/
theorem witness_StationRestartTakesRestartValues :
    let s : State := { heldByLane with custody := { heldByLane.custody with restartDue := true } }
    let again : State := { s with custody := { s.custody with waiting := [(8, [0, 6, 3, 42, 42, 0])] } }
    (queuedBehind.mode = .running ∧ queuedBehind.custody.restartDue = true ∧ queuedBehind.RunsRight ∧
      queuedBehind.headRun 0 = some ⟨7, .goWait none, 1, true⟩ ∧
      (⟨8, .queued, 1, false⟩ : Run) ∈ (queuedBehind.plans.slots.get 0).runs.tail ∧ (queuedBehind.planOf 7).isSome = true ∧
      (queuedBehind.planOf 8).isSome = true) ∧
    (rested.custody.restartDue = false ∧ (after (.permitRestart 8 [0, 6, 3, 42, 42, 0]) rested).custody.restartDue = true ∧
      again.custody.restartDue = true ∧ (after .stationRestart again).custody.restartDue = true ∧
    s.mode = .running ∧ s.custody.restartDue = true ∧ s.headRun 0 = some ⟨7, .goWait none, 1, true⟩ ∧
      (s.planOf 7).isSome = true ∧ ((after .stationRestart s).lanes.table.get 0).state = .scrubbing (ms 300) ∧
      (after .stationRestart s).plans.table = []) :=
  ⟨⟨rfl, rfl, queuedBehind_runs, by decide, by decide, by decide, by decide⟩, by decide +kernel⟩

/-- A PLAN of one step for slot 0, as carried: kind, station 7, id 7, mask 1, SINGLE, SHARED, tag 5, one ATTACH step. -/
def planBytes (count kind : Byte) : List Byte := [0, 7, 0, 7, 1, 0, 0, 0, 0, 0, 5, count, kind, 0, 0]

/-- An accepted plan, a repeated one, an empty mask, a step kind above 6, and a frame for another station. -/
theorem witness_PlanFrameIsJudged :
    malformed 5 (planBytes 1 1) = false ∧ (planBytes 1 1).length ≤ 40 ∧
      ((after (.plan 12 (planBytes 1 6)) (lockedSlot rested)).plans.slots.get 0).buildTag = some 5 ∧
      (after (.plan 12 (planBytes 1 1)) (lockedSlot rested)).lanes.waitList = [(0, false)] ∧
      ((withRun (.goWait none) false 1 .await 0 .single).planOf (planIdAt (planBytes 1 1) 2)).isSome = true ∧
      (after (.plan 12 (planBytes 1 7)) rested).plans.table = [] ∧
      (after (.plan 14 (planBytes 1 1)) rested).line.queue = rested.line.queue := by decide +kernel

/-- A queued run of an empty slot, of an unlocked one, of one under a TAMPER hold, of a FINAL plan, and one that starts. -/
theorem witness_StartChecksDecideRun :
    let s := withRun .queued false 1 .nothing 0
    let u := (s .final).setMonitor 0 presentSlot
    (s .single).isPresent 0 = false ∧ (u.latch.get 0).state ≠ .locked ∧
      (((lockedSlot u).setHold 0 (some ⟨3, .tamper⟩)).custody.slots.get 0).hold = some ⟨3, .tamper⟩ ∧
      (lockedSlot u).headRun 0 = some ⟨7, .queued, 1, false⟩ ∧ ((lockedSlot u).planOf 7).isSome = true ∧
      ((lockedSlot u).startCheck 0 .final) = some .outOfSequence ∧ ((lockedSlot (s .single)).startCheck 0 .single) = none := by
  decide

/-- The first step of a plan, for each kind. -/
theorem witness_StepsDoTheirWork :
    (State.reset.RunsRight ∧ [Work.start 0, .grant].length ≤ 8) ∧
    ((withLane (.attached 0 false) 0 .asserted .released rested).laneTaken 0 .release).isSome = true ∧
    ∀ k ∈ [StepKind.nothing, .attach, .floor, .await, .settle, .detach, .mark],
      let s := withRun .queued false 1 k 9 .single
      s.headRun 0 = some ⟨7, .queued, 1, false⟩ ∧ ∃ p, s.planOf 7 = some p ∧ p.steps[1 - 1]? = some ⟨k, 9⟩ := by
  refine ⟨⟨reset_runs, by decide⟩, by decide, ?_⟩
  intro k hk
  exact ⟨rfl, _, rfl, rfl⟩

theorem witness_RunTimersEndTheirRuns :
    (withRun (.enumWait (ms 500)) true 1 .attach 0 .single).headState 0 = some (.enumWait (ms 500)) ∧
      (withRun (.goWait (some (ms 500))) true 1 .await 0 .single).headState 0 = some (.goWait (some (ms 500))) ∧
      (withRun (.pause (ms 500)) true 1 .settle 0 .single).headState 0 = some (.pause (ms 500)) ∧
      (withRun (.reenumWait (.pause 3) (ms 500)) true 1 .settle 0 .single).headState 0 = some (.reenumWait (.pause 3) (ms 500)) ∧
      ((withRun (.pause (ms 500)) true 1 .settle 0 .single).planOf 7).isSome = true := by decide

theorem witness_ClassFiveFramesAct :
    heldByLane.ignoresClass5 14 [1, 7, 0, 7, 0] ∧ ¬ heldByLane.ignoresClass5 12 [1, 7, 0, 7, 0] ∧
      heldByLane.headRun 0 = some ⟨7, .goWait none, 1, true⟩ ∧ planIdAt [1, 7, 0, 7, 0] 2 = 7 ∧
      (after (.go 12 [1, 7, 0, 7, 0]) heldByLane).plans.table = [] ∧
      (after (.cancel 12 [2, 7, 0, 7, 1]) heldByLane).plans.table = [] ∧
      (after (.build 12 [4, 15, 1, 0, 0, 0, 0]) heldByLane).plans.required = some 0 ∧
      (after (.unpin 12 [3, 7, 0, 7, 0]) heldByLane).Waits (.result 12 7 0 .busy 0) :=
  ⟨Or.inl (by decide), by rintro (h | h) <;> exact absurd h (by decide), by decide, by decide, by decide +kernel,
    by decide +kernel, by decide +kernel, _, List.mem_of_getElem? (i := 1) rfl, by decide +kernel⟩

theorem witness_LanesStayRight : heldByLane.LanesRight ∧ step heldByLane = .next heldByLane.bitTime := ⟨heldByLane_right, rfl⟩

/-- Slot 0 stands on a pinned lane, PRESENT and LOCKED. -/
theorem witness_AttachedSlotsStayServed :
    heldByLane.ServedRight ∧ heldByLane.LanesRight ∧ heldByLane.PowerRight ∧ step heldByLane = .next heldByLane.bitTime := by
  refine ⟨⟨forLanes ?_ ?_ ?_ ?_, forSix ?_ ?_ ?_ ?_ ?_ ?_, forSix ?_ ?_ ?_ ?_ ?_ ?_⟩, heldByLane_right,
    forSix ⟨⟨rfl, rfl⟩, trivial⟩ ⟨⟨rfl, rfl⟩, trivial⟩ ⟨⟨rfl, rfl⟩, trivial⟩ ⟨⟨rfl, rfl⟩, trivial⟩ ⟨⟨rfl, rfl⟩, trivial⟩
      ⟨⟨rfl, rfl⟩, trivial⟩, rfl⟩
  case refine_1 => intro i q h; cases h; exact ⟨rfl, rfl, rfl, fun _ => rfl⟩
  case refine_5 => exact fun _ _ _ => ⟨rfl, rfl⟩
  case refine_2 => intro _ _ h; cases h
  case refine_3 => intro _ _ h; cases h
  case refine_4 => intro _ _ h; cases h
  all_goals exact nofun

theorem witness_NoReadyLaneBesideWaitingSlot :
    heldByLane.GrantsMade ∧ heldByLane.RunsRight ∧ step heldByLane = .next heldByLane.bitTime :=
  ⟨fun h => absurd rfl h, heldByLane_runs, rfl⟩

/-- A released line sends a run to REENUM_WAIT, and its return brings the run back with the time it had left. -/
theorem witness_EnumeratedLineMovesRun :
    let t := after (.enumeratedChange 0 .released) heldByLane
    (heldByLane.lanes.table.get 0).enumIn ≠ filteredOf .released ∧ (heldByLane.lanes.table.get 0).state = .attached 0 true ∧
      t.headState 0 = some (.reenumWait (.goWait none) (ms 30000)) ∧
      (after (.enumeratedChange 0 .asserted) t).headState 0 = some (.goWait none) := by decide +kernel

/-- The second fault leaves the lane FAULTED, the third retires it; and a fault in FAULTED is no new one. -/
theorem witness_LaneFaultTakesLaneOutOfService :
    let s := fun (x : LaneState) (n : Nat) => withLane x n .unknown .released State.reset
    ((s (.ready none) 1).lanes.table.get 0).faultIn ≠ .asserted ∧ ((s (.scrubbing (ms 300)) 1).lanes.table.get 0).state = .scrubbing (ms 300) ∧
      ((after (.laneFault 0) (s (.ready none) 1)).lanes.table.get 0).state = .faulted none ∧
      ((after (.laneFault 0) (s (.ready none) 2)).lanes.table.get 0).state = .retired ∧
      ((after (.laneFault 0) (s (.faulted (some 9)) 2)).lanes.table.get 0).faults = 2 ∧
      (heldByLane.lanes.table.get 0).state = .attached 0 true := by decide +kernel

theorem witness_LaneTimersServeSlots :
    let s := fun (x : LaneState) => withLane x 1 .unknown .asserted State.reset
    ((s (.faulted none)).lanes.table.get 0).faultIn ≠ .released ∧
      ((s (.faulted (some (ms 2000)))).lanes.table.get 0).state = .faulted (some (ms 2000)) ∧ (s (.waking (ms 50))).nextWake = some (ms 50) ∧
      ((s (.scrubbing (ms 300))).lanes.table.get 0).state = .scrubbing (ms 300) ∧
      ((s (.ready (some (ms 5000)))).lanes.table.get 0).state = .ready (some (ms 5000)) := by decide

theorem witness_GrantGoesToOldestSlot :
    let r := withRun .laneWait false 1 .attach 0 .single
    let s := withLane (.ready none) 0 .unknown .unknown { r with lanes := { waitList := [(0, true)] } }
    s.lanes.waitList = (0, true) :: [] ∧ s.laneOf 0 = none ∧ (0 : LaneNo).val < s.cfg.laneCount ∧
      (s.lanes.table.get 0).state.isReady = true ∧ s.headRun 0 = some ⟨7, .laneWait, 1, false⟩ ∧ r.lanes.waitList = [] := by
  decide

theorem witness_LineCountsRiseAndStay :
    let s : State := { sendingClaim 7 false with line := { (sendingClaim 7 false).line with errors := 65535, lost := 65534 } }
    (s.line.errors ≤ maxCount ∧ s.line.lost ≤ maxCount) ∧ (after .frameAbandoned (withPhase .idle s)).line.errors = 65535 ∧
      (after .frameAbandoned s).line.errors = 65535 ∧ (after .bitError s).line.lost = 65535 ∧
      frameOf (.claim 1 []) = some (0, 1, []) ∧ loading.mode ≠ .running ∧ loading.line.errors = 0 ∧ loading.line.lost = 0 ∧
      (after .powerOn s).line.errors = 0 ∧ (after (.pinReset 9) s).line.errors = 65535 := by decide +kernel

theorem witness_QueriesAreAnswered :
    byteAt [7, 0, 0] 0 = State.reset.address.val ∧ byteAt [6, 1, 5] 0 ≠ State.reset.address.val ∧
      (after (.querySlot 8 [7, 1, 5]) rested).line.queue.length = 2 ∧
      (after (.querySlot 8 [7, 1, 6]) rested).line.queue.length = 1 ∧
      (after (.queryStation 8 [7, 0, 0]) rested).line.queue.length = 2 := by decide +kernel

/-- The seventh failed attempt, the eighth, and a withdrawn CLAIM. -/
theorem witness_AttemptsRunByTheLine :
    rested.line.phase = .idle ∧ rested.line.queue.find? (fun x => !x.sending) = State.reset.line.queue.head? ∧
      (sentEntry (sendingClaim 6 false).line.queue).isSome = true ∧ (after .bitError (sendingClaim 6 false)).line.lost = 0 ∧
      (after .bitError (sendingClaim 7 false)).line.lost = 1 ∧
      (after .arbitrationLost (sendingClaim 0 true)).claims.own.map (·.tag) = [1] ∧ State.reset.line.phase = .busy 10 ∧
      (after .bitError (sendingClaim 0 false)).line.phase.receives = false ∧
      (after .frameAbandoned (withPhase (.receiving [false, true, true]) rested)).line.phase = .busy 8 ∧
      (after .frameAbandoned rested).line.phase = .busy 10 := by
  decide +kernel

/-- One bit time after another, with nothing waiting, until n have passed or an event is due. -/
def listen : Nat → State → State
  | 0, s => s
  | n + 1, s => if s.dueNow = [] then listen n s.passBit else s

/-- The example THREE STATIONS AT ONE IDLE (chapter 8), at station 1: its NEED loses at the second bit of the
arbitration word against a CLAIM of station 0, and the station then receives that CLAIM whole. -/
theorem test_loses_and_receives :
    let s : State := { rested with
      address := 1, wire := lineBits 0 0 [1, 0, 24, 30]
      line := { queue := [{ frame := .need .joined {}, order := 0 }], nextOrder := 1, phase := .idle } }
    let t := listen 20 (after .transmitAttempt s)
    let u := listen 100 (after .arbitrationLost t)
    t.dueNow = [.arbitrationLost] ∧ t.clock = 3 ∧ u.dueNow = [.claim 0 [1, 0, 24, 30]] ∧
      u.clock = (lineBits 0 0 [1, 0, 24, 30]).length ∧ (after .lineIdle (after (.claim 0 [1, 0, 24, 30]) u)).clock = u.clock + 2 ∧
      (after .lineIdle (after (.claim 0 [1, 0, 24, 30]) u)).dueNow = [.transmitAttempt] := by decide +kernel

/-- A mismatch after the arbitration word: six dominant bits, then the line is idle after 10 recessive ones (R151). -/
theorem test_bit_error_drives_six :
    let s : State := { rested with
      address := 1, wire := (lineBits 0 1 [1, 0, 24, 30]).take 12 ++ [false]
      line := { queue := [{ frame := .claim 1 .withdraw 0 24 30, order := 0 }], nextOrder := 1, phase := .idle } }
    let t := listen 90 (after .transmitAttempt s)
    let u := listen 20 (after .bitError t)
    t.dueNow = [.bitError] ∧ t.clock = 13 ∧ (after .bitError t).ownLevel = false ∧ u.dueNow = [.lineIdle] ∧ u.clock = t.clock + 16 := by
  decide +kernel

/-- A frame that breaks off is given up at the sixth recessive bit, and the line is idle at the tenth (R143, R145). -/
theorem test_abandoned_frame_counts_its_recessive_bits :
    let t := listen 20 { rested with line := { phase := .receiving [false] } }
    let u := listen 20 (after .frameAbandoned t)
    t.dueNow = [.frameAbandoned] ∧ t.clock = 6 ∧ u.dueNow = [.lineIdle] ∧ u.clock = 10 := by decide +kernel

/-- In a NEED from address 0 a fill bit stands between the last bit of the arbitration word and the first length bit: a mismatch
at it is a bit error, and one at a bit of the word a loss (R150, R151, notes/assumptions/35.md). -/
theorem test_fill_bit_after_the_word :
    compareLast 2 0 [] [false, false, true, false, false, false, false, false, false] = .bitError ∧
      compareLast 2 0 [] [false, false, false] = .lost := by decide +kernel

/-- In each phase, with the line recessive and dominant. -/
theorem witness_LineIsReadBitByBit :
    let s := fun (x : LinePhase) (bits : List Bool) => ({ rested with line := { phase := x }, wire := bits } : State)
    (∀ x ∈ [LinePhase.busy 10, .ended 2, .idle, .receiving [false], .breaking 6], ∀ b, (s x [b]).dueNow = []) ∧
      (s (.busy 0) []).dueNow = [.lineIdle] ∧ (s (.ended 0) []).dueNow = [.lineIdle] ∧
      (withPhase .idle State.reset).dueNow = [.transmitAttempt] ∧ (sentEntry (sendingClaim 0 false).line.queue).isSome = true ∧
      (sendingClaim 0 false).dueNow = [] ∧
      (s (.receiving (List.replicate 6 false)) []).dueNow = [.frameAbandoned] ∧
      (s (.receiving (lineBits 7 3 [1])) []).dueNow = [.otherFrame 7 3 [1]] := by decide +kernel

theorem witness_ReceiverReadsSentFrame : (7 : Nat) < 8 ∧ (15 : Nat) < 16 ∧ (List.replicate 40 (255 : Byte)).length ≤ 40 := by decide

/-- Row 2 of the lamp table for a JAMMED slot at the two phases of a fast blink; attention under the default record (R167,
R168). -/
theorem witness_LampsAndAttentionFollowTables :
    let s := withLatch { state := .jammed }
    s.mode = .running ∧ s.lamp 0 = some .amber ∧ (after .lampBlinkTick s).lamp 0 = none ∧ s.attention = true ∧
      loading.mode ≠ .running ∧ heldByLane.crosspoint 0 0 = true ∧ heldByLane.crosspoint 1 0 = false ∧
      heldByLane.lanePower 0 = true ∧ heldByLane.lanePower 1 = false := by decide +kernel

end Sys2Proof.Tests
end

section
/-! PROOF. CEILING at a full table (R55, R56): the frame's way to its consumer, the record of highest ceiling, C_eff as a
minimum, and the settling of the statement. -/

namespace Sys2Proof.Machine

/-! ## The way of a frame to its consumer -/

/-- What the watch of peers and the clash check can move: neither the peer table nor the ceiling records. -/
def watchParts : List Part := .standing :: .requests :: powerParts

theorem clash_keeps_watchParts (s : State) : Keeps watchParts s s.clash := by
  unfold State.clash
  refine Keeps.ite (Keeps.refl _ _) ?_
  have silence := (setSilence_keeps none s).mono (qs := watchParts) (by decide)
  have change := (changeShare_keeps .clashed (s.setSilence none)).mono (qs := watchParts) (by decide)
  exact ((silence.trans change).trans ((withdrawClaims_keeps _).mono (by decide))).trans ((compute_keeps _ _).mono (by decide))

theorem watched_keeps (src : Source) (s : State) : Keeps (.linePhase :: watchParts) s (s.watched src) := by
  refine ((frameEnds_keeps s).mono (by decide)).trans ?_
  unfold State.watched State.watch
  split
  · exact Keeps.refl _ _
  · exact Keeps.ite ((clash_keeps_watchParts _).mono (by decide)) ((watchPeer_keeps _).mono (by decide))

theorem watched_clock (src : Source) (s : State) : (s.watched src).clock = s.clock := watched_keeps src s .clock (by decide)
theorem watched_cfg (src : Source) (s : State) : (s.watched src).cfg = s.cfg := watched_keeps src s .cfg (by decide)
theorem watched_ceilings (src : Source) (s : State) : (s.watched src).share.ceilings = s.share.ceilings :=
  watched_keeps src s .ceilings (by decide)

theorem ceilingOf_expires (src : Source) (p : List Byte) (s : State) : (s.ceilingOf src p).expires =
    if wordAt p 2 = 0 then none else some (s.clock + wordAt p 2 * 1000 * 250) := by
  simp only [State.ceilingOf, momentAfter_eq]

theorem watched_ceilingOf (src a : Source) (p : List Byte) (s : State) :
    (s.watched src).ceilingOf a p = s.ceilingOf a p := by
  rw [State.ceilingOf, State.ceilingOf, watched_clock, watched_cfg]

/-- A well-formed frame that the station can take reaches its consumer after the watch (R145 to R147). -/
theorem takeFrame_eq_consume {cls : Nat} {p : List Byte} {s : State} (src : Source) (receives : s.line.phase.receives = true)
    (short : p.length ≤ 40) (formed : malformed cls p = false) :
    s.takeFrame cls src p = (s.watched src).consume cls src p := by
  unfold State.takeFrame
  rw [if_neg (by simp [receives]), if_neg (by omega), if_neg (by simp [formed])]
  rfl

theorem malformed_ceiling {p : List Byte} (len : p.length = 4) : malformed 1 p = false := by
  simp [malformed, len]

theorem exec_ceiling_eq_takeCeiling {s : State} {p : List Byte} (src : Source) (running : s.mode = .running)
    (receives : s.line.phase.receives = true) (len : p.length = 4) :
    exec (.ceiling src p) s = .next ((s.watched src).takeCeiling src p) := by
  show whileRunning s (State.takeFrame 1 src p) = _
  rw [whileRunning, if_pos running, takeFrame_eq_consume src receives (by omega) (malformed_ceiling len)]
  rfl

/-! ## The record of highest ceiling -/

theorem highestRecord_eq_none_iff {rs : List CeilingRecord} : highestRecord rs = none ↔ rs = [] := by
  cases rs with
  | nil => simp [highestRecord]
  | cons r rs =>
    unfold highestRecord
    split
    · simp
    · split <;> simp

/-- The record that gives way is in the table, no ceiling is above its own, and among equals its source is the lowest (R56). -/
theorem highestRecord_highest {rs : List CeilingRecord} {h : CeilingRecord} (found : highestRecord rs = some h) :
    h ∈ rs ∧ ∀ r ∈ rs, r.ceiling < h.ceiling ∨ (r.ceiling = h.ceiling ∧ h.source ≤ r.source) := by
  induction rs generalizing h with
  | nil => simp [highestRecord] at found
  | cons r rs ih =>
    unfold highestRecord at found
    split at found
    next last =>
      cases found
      simp [highestRecord_eq_none_iff.mp last]
    next x rest =>
      obtain ⟨mem, high⟩ := ih rest
      split at found
      next above =>
        cases found
        refine ⟨List.mem_cons_self, fun y hy => ?_⟩
        rcases List.mem_cons.mp hy with rfl | hy
        · exact .inr ⟨rfl, le_refl _⟩
        · have := high y hy
          rw [Fin.le_def] at this ⊢
          rw [Fin.lt_def] at above
          omega
      next below =>
        cases found
        refine ⟨List.mem_cons_of_mem _ mem, fun y hy => ?_⟩
        rcases List.mem_cons.mp hy with rfl | hy
        · rw [Fin.lt_def] at below
          rw [Fin.le_def]
          omega
        · exact high y hy

/-- At a full table without a record of its source, a new record replaces the highest one or is ignored (R56). -/
theorem enterCeiling_full {n h : CeilingRecord} {rs : List CeilingRecord} (new : ∀ r ∈ rs, r.source ≠ n.source)
    (full : ceilingPlaces ≤ rs.length) (found : highestRecord rs = some h) :
    enterCeiling n rs = if n.ceiling < h.ceiling then some (rs.map (fun r => if r = h then n else r)) else none := by
  have noRecord : ¬ rs.any (fun r => r.source = n.source) = true := by simpa using new
  rw [enterCeiling, if_neg noRecord, if_neg (by omega), found]

theorem mem_replaced {α : Type} [DecidableEq α] {h n : α} {rs : List α} (mem : h ∈ rs) :
    n ∈ rs.map (fun r => if r = h then n else r) :=
  List.mem_map.mpr ⟨h, mem, if_pos rfl⟩

/-! ## The effective ceiling -/

theorem le_foldl_ceiling {c low : Nat} {rs : List CeilingRecord} :
    c ≤ rs.foldl (fun low r => min low r.ceiling) low ↔ c ≤ low ∧ ∀ r ∈ rs, c ≤ r.ceiling := by
  induction rs generalizing low with
  | nil => simp
  | cons r rs ih => simp [ih, and_assoc]

/-- C_eff is the greatest bound of the cart ceiling and the records' ceilings (R57). -/
theorem le_ceff_iff {c : Nat} {s : State} : c ≤ s.ceff ↔ c ≤ s.cfg.cartCeiling ∧ ∀ r ∈ s.share.ceilings, c ≤ r.ceiling :=
  le_foldl_ceiling

theorem ceff_le_of_mem {s : State} {r : CeilingRecord} (mem : r ∈ s.share.ceilings) : s.ceff ≤ r.ceiling :=
  (le_ceff_iff.mp le_rfl).2 r mem

/-- A record replaced by one that is no higher does not raise C_eff. -/
theorem ceff_le_of_replaced {s t : State} {h n : CeilingRecord} (lower : n.ceiling ≤ h.ceiling) (cfg : t.cfg = s.cfg)
    (ceilings : t.share.ceilings = s.share.ceilings.map (fun r => if r = h then n else r)) : t.ceff ≤ s.ceff := by
  obtain ⟨cart, _⟩ := le_ceff_iff.mp (le_refl t.ceff)
  refine le_ceff_iff.mpr ⟨cfg ▸ cart, fun r hr => ?_⟩
  have image : (if r = h then n else r) ∈ t.share.ceilings := ceilings ▸ List.mem_map_of_mem hr
  calc t.ceff ≤ (if r = h then n else r).ceiling := ceff_le_of_mem image
    _ ≤ r.ceiling := by
      split
      next same => exact same ▸ lower
      next => exact le_rfl

/-! ## A table entered, and the computation that follows -/

/-- The table that a CEILING frame enters is the one before the frame: the watch has left it alone. -/
theorem watched_takeCeiling_of_entered {s : State} {src : Source} {p : List Byte} {rs : List CeilingRecord}
    (entered : enterCeiling (s.ceilingOf src p) s.share.ceilings = some rs) :
    (s.watched src).takeCeiling src p = ((s.watched src).setCeilings rs).compute false := by
  rw [State.takeCeiling, watched_ceilingOf, watched_ceilings, entered]

theorem watched_takeCeiling_of_ignored {s : State} {src : Source} {p : List Byte}
    (ignored : enterCeiling (s.ceilingOf src p) s.share.ceilings = none) :
    (s.watched src).takeCeiling src p = s.watched src := by
  rw [State.takeCeiling, watched_ceilingOf, watched_ceilings, ignored]

/-- What stands after a table of ceiling records is entered and the computation made. -/
theorem setCeilings_compute {rs : List CeilingRecord} {s t : State} (eq : t = (s.setCeilings rs).compute false) :
    t.share.ceilings = rs ∧ Computed 0 s t ∧ Keeps [.ceilings, .charge, .share, .queue] s t := by
  rw [eq]
  have entry := setCeilings_keeps rs s
  have compute := compute_keeps false (s.setCeilings rs)
  have table : ((s.setCeilings rs).compute false).share.ceilings = rs := compute .ceilings (by decide)
  have computed : Computed 0 s ((s.setCeilings rs).compute false) := (compute_computed false _).after entry (by decide)
  exact ⟨table, computed, (entry.mono (by decide)).trans (compute.mono (by decide))⟩

/-- Settles O29: the record of highest ceiling is the one that gives way, and C_eff is a minimum over the records. -/
theorem fullCeilingTableKeepsLowest : Obligations.FullCeilingTableKeepsLowest := by
  intro s src p running ⟨read, receiving⟩ len new full
  have nonempty : s.share.ceilings ≠ [] := List.ne_nil_of_length_eq_add_one full
  obtain ⟨h, found⟩ := Option.ne_none_iff_exists'.mp (mt highestRecord_eq_none_iff.mp nonempty)
  obtain ⟨mem, high⟩ := highestRecord_highest found
  have entry := enterCeiling_full (n := s.ceilingOf src p) new full.ge found
  refine ⟨h, mem, (s.watched src).takeCeiling src p, high,
    exec_ceiling_eq_takeCeiling src running (by rw [receiving]; rfl) len, fun below => ?_, fun above => ?_⟩
  · obtain ⟨table, computed, keeps⟩ := setCeilings_compute (watched_takeCeiling_of_entered (entry.trans (if_pos below)))
    have cfg : ((s.watched src).takeCeiling src p).cfg = (s.watched src).cfg := keeps .cfg (by decide)
    have placed : s.ceilingOf src p ∈ ((s.watched src).takeCeiling src p).share.ceilings := table ▸ mem_replaced mem
    exact ⟨⟨s.ceilingOf src p, rfl, rfl, ceilingOf_expires src p s, table, placed, ceff_le_of_mem placed⟩,
      ceff_le_of_replaced below.le (cfg.trans (watched_cfg src s)) table, computed, keeps⟩
  · exact watched_takeCeiling_of_ignored (entry.trans (if_neg above.not_gt))

end Sys2Proof.Machine
end

section
/-! PROOF. The start of a head run (R110 to R112): a frame handed waits or is counted lost, the end of a run and its place in the
plan table, the four start checks, and the settling of the statement. -/

namespace Sys2Proof.Machine

/-! ## A frame handed (R148) -/

theorem enter_queues (f : TxFrame) (l : Line) : { frame := f, order := l.nextOrder } ∈ (l.enter f).queue :=
  (mem_insertEntry _ _ _).mpr (.inl rfl)

/-- Where a frame is handed, it is in the queue or the count of lost frames has risen or stands at its bound. -/
theorem handed_of_line {f : TxFrame} {s t : State} (line : t.line = s.line.hand f) : Handed f s t := by
  rintro ⟨_, within⟩
  unfold Line.hand at line
  split at line
  next full =>
    have lost : t.line.lost = min (s.line.lost + 1) maxCount := by rw [line]; rfl
    omega
  next place =>
    exact .inl ⟨_, line ▸ enter_queues f s.line, rfl, rfl⟩

/-! ## The place of a finished run in the plan table (R110) -/

theorem tableWithout_head (p : PlanRecord) (rs : List PlanRecord) :
    tableWithout p (p :: rs) = if p.runsOpen ≤ 1 then rs else { p with runsOpen := p.runsOpen - 1 } :: rs := by
  simp [tableWithout]

theorem tableWithout_other {p r : PlanRecord} (other : r ≠ p) (rs : List PlanRecord) :
    tableWithout p (r :: rs) = r :: tableWithout p rs := by
  unfold tableWithout
  split
  next => exact List.erase_cons_tail (by simpa using other)
  next =>
    have differ : (p == r) = false := beq_eq_false_iff_ne.mpr other.symm
    simp only [List.replace_cons, differ]

/-- The record that a finished run counts down is the one that its plan id names. -/
theorem closeRun_eq_tableWithout {id : PlanId} {p : PlanRecord} {table : List PlanRecord}
    (found : table.find? (fun r => r.id = id) = some p) : closeRun id table = tableWithout p table := by
  induction table with
  | nil => cases found
  | cons r rs ih =>
    by_cases named : r.id = id
    · have first : r = p := by simpa [named] using found
      rw [closeRun, if_pos named, first, tableWithout_head]
    · have later : rs.find? (fun r => r.id = id) = some p := by simpa [named] using found
      have other : r ≠ p := by
        rintro rfl
        exact named (by simpa using List.find?_some later)
      rw [closeRun, if_neg named, ih later, tableWithout_other other]

/-! ## The end of a head run (R110) -/

theorem setPlan_othersSame (i : SlotNo) (x : PlanSlot) (s : State) : OthersSame i s.plans.slots (s.setPlan i x).plans.slots :=
  setAt_othersSame _ _ _

section
variable {i : SlotNo} {r : Run} {p : PlanRecord} {s : State}

theorem reportRun_line (o : Answer) (n : Nat) (found : s.planOf r.plan = some p) :
    (s.reportRun i r o n).line = s.line.hand (.result p.source r.plan (byteOf i.val) o n) := by
  rw [State.reportRun, found]
  rfl

theorem reportRun_table (o : Answer) (n : Nat) (found : s.planOf r.plan = some p) :
    (s.reportRun i r o n).plans.table = tableWithout p s.plans.table := by
  rw [State.reportRun, found]
  exact closeRun_eq_tableWithout found

theorem reportRun_slots (o : Answer) (n : Nat) : (s.reportRun i r o n).plans.slots = s.plans.slots := by
  unfold State.reportRun
  split <;> rfl

theorem endRun_of_head (o : Answer) (n : Nat) (head : s.headRun i = some r) : s.endRun i o n =
    (s.reportRun i r o n).setPlan i { s.plans.slots.get i with runs := (s.plans.slots.get i).runs.tail } := by
  obtain ⟨rest, runs⟩ := List.head?_eq_some_iff.mp head
  rw [State.endRun, runs]
  rfl

theorem endRun_handed (o : Answer) (n : Nat) (head : s.headRun i = some r) (found : s.planOf r.plan = some p) :
    Handed (.result p.source r.plan (byteOf i.val) o n) s (s.endRun i o n) := by
  rw [endRun_of_head o n head]
  exact handed_of_line (reportRun_line o n found)

theorem endRun_slot (o : Answer) (n : Nat) (head : s.headRun i = some r) : (s.endRun i o n).plans.slots.get i =
    { s.plans.slots.get i with runs := (s.plans.slots.get i).runs.tail } := by
  rw [endRun_of_head o n head]
  exact get_setAt_same _ _ _

theorem endRun_table (o : Answer) (n : Nat) (head : s.headRun i = some r) (found : s.planOf r.plan = some p) :
    (s.endRun i o n).plans.table = tableWithout p s.plans.table := by
  rw [endRun_of_head o n head]
  exact reportRun_table o n found

theorem endRun_othersSame (o : Answer) (n : Nat) (head : s.headRun i = some r) :
    OthersSame i s.plans.slots (s.endRun i o n).plans.slots := by
  rw [endRun_of_head o n head, ← reportRun_slots (i := i) (r := r) (s := s) o n]
  exact setPlan_othersSame i _ _

/-! ## The start of a head run (R111, R112) -/

theorem startRun_of_failed {o : Answer} (head : s.headRun i = some r) (found : s.planOf r.plan = some p)
    (queued : r.state = .queued) (failed : s.startCheck i p.phase = some o) :
    s.startRun i = (s.endRun i o 0, [.start i]) := by
  simp only [State.startRun, head, found, queued, failed, ne_eq, not_true_eq_false, if_false]

theorem startRun_of_passed (head : s.headRun i = some r) (found : s.planOf r.plan = some p)
    (queued : r.state = .queued) (passed : s.startCheck i p.phase = none) :
    s.startRun i = (s.setPlan i ((s.plans.slots.get i).begin_ p.id p.phase), [.perform i]) := by
  simp only [State.startRun, head, found, queued, passed, ne_eq, not_true_eq_false, if_false]

/-- Only a SINGLE or an INITIAL plan moves progress and build tag at its start (R112). -/
theorem begin_eq_ite (id : PlanId) (phase : PlanPhase) (x : PlanSlot) : x.begin_ id phase =
    if phase = .single ∨ phase = .initial then { x with buildTag := none, progress := some id } else x := by
  cases phase <;> simp [PlanSlot.begin_]

end

/-! ## The four start checks (R111) -/

section
variable {i : SlotNo} {phase : PlanPhase} {s : State}

theorem any_tamper_iff {hold : Option Hold} :
    hold.any (fun h => h.reason = .tamper) = true ↔ ∃ h, hold = some h ∧ h.reason = .tamper := by
  simp [Option.any_eq_true]

theorem startCheck_of_absent (absent : s.isPresent i = false) : s.startCheck i phase = some .noTablet :=
  if_pos absent

/-- With a tablet PRESENT, the second check decides first. -/
theorem startCheck_of_unlocked (present : s.isPresent i = true) (unlocked : (s.latch.get i).state ≠ .locked) :
    s.startCheck i phase = some .notLocked := by
  rw [State.startCheck, if_neg (by simp [present]), if_pos unlocked]

/-- With a tablet PRESENT in a LOCKED slot, the third and the fourth check decide. -/
theorem startCheck_of_locked (present : s.isPresent i = true) (locked : (s.latch.get i).state = .locked) :
    s.startCheck i phase =
      if (s.custody.slots.get i).hold.any (fun h => h.reason = .tamper) then some .held
      else if (phase = .continued ∨ phase = .final) ∧ (s.plans.slots.get i).progress = none then some .outOfSequence
      else none := by
  rw [State.startCheck, if_neg (by simp [present]), if_neg (not_not.mpr locked)]

end

/-- Settles O44: each outcome of the four checks, then what the end of the run or its beginning leaves. -/
theorem startChecksDecideRun : Obligations.StartChecksDecideRun := by
  intro i s r p head queued found t slot sequence tamper
  refine ⟨fun outcome refusal => ?_, fun present locked untampered inSequence => ?_⟩
  · have failed : s.startCheck i p.phase = some outcome := by
      rcases refusal with ⟨absent, rfl⟩ | ⟨present, unlocked, rfl⟩ | ⟨present, locked, tampered, rfl⟩ |
        ⟨present, locked, untampered, outOf, rfl⟩
      · exact startCheck_of_absent absent
      · exact startCheck_of_unlocked present unlocked
      · rw [startCheck_of_locked present locked, if_pos (any_tamper_iff.mpr tampered)]
      · rw [startCheck_of_locked present locked, if_neg (mt any_tamper_iff.mp untampered), if_pos outOf]
    have work : s.workStep (.start i) = (s.endRun i outcome 0, [.start i]) := startRun_of_failed head found queued failed
    have ended : t = s.endRun i outcome 0 := congrArg Prod.fst work
    rw [ended, work]
    exact ⟨rfl, endRun_handed outcome 0 head found, endRun_slot outcome 0 head, endRun_table outcome 0 head found,
      endRun_othersSame outcome 0 head, endRun_keeps i outcome 0 s⟩
  · have passed : s.startCheck i p.phase = none := by
      rw [startCheck_of_locked present locked, if_neg (mt any_tamper_iff.mp untampered), if_neg inSequence]
    have work : s.workStep (.start i) = (s.setPlan i (slot.begin_ p.id p.phase), [.perform i]) :=
      startRun_of_passed head found queued passed
    have begun : t = s.setPlan i (slot.begin_ p.id p.phase) := congrArg Prod.fst work
    rw [begun, work]
    exact ⟨rfl, (get_setAt_same _ _ _).trans (begin_eq_ite p.id p.phase slot), rfl, setPlan_othersSame i _ s,
      setPlan_keeps i _ s⟩

end Sys2Proof.Machine
end

section
/-! PROOF. The configuration record (R161, R162): a field and its bytes, what each command leaves of the record, and the settling
of the statement. -/

namespace Sys2Proof.Machine

/-! ## A field and its bytes (R158, R162) -/

theorem wordAt_eq_msbFirst (p : List Byte) (k : Nat) : wordAt p k = 256 * byteAt p k + byteAt p (k + 1) := by
  rw [wordAt, Nat.mul_comm]

theorem clamp_eq_ite {low high v : Nat} (ordered : low ≤ high := by decide) :
    clamp low high v = if v < low then low else if high < v then high else v := by
  unfold clamp
  split
  next below => omega
  next notBelow => split <;> omega

theorem clamp_wordAt {b : List Byte} {low high k : Nat} (ordered : low ≤ high := by decide) :
    clamp low high (wordAt b k) =
      let v := 256 * byteAt b k + byteAt b (k + 1)
      if v < low then low else if high < v then high else v := by
  rw [wordAt_eq_msbFirst, clamp_eq_ite ordered]

theorem recordOf_maintenance (b : List Byte) :
    (recordOf b).maintenance = clamp 100 500 (wordAt b 20) - clamp 100 500 (wordAt b 20) % 25 :=
  Nat.div_mul_self_eq_mod_sub_self

theorem recordOf_sourceLevel (b : List Byte) (k : Fin 8) :
    (recordOf b).sourceLevels.get k = clamp 0 3 (byteAt b (42 + k.val)) := by
  fin_cases k <;> rfl

/-- The bits of a mask are those of its bytes, whose reserved bits are disregarded (R162). -/
theorem getLsbD_ofNat_of_lt {w k : Nat} (within : k < w) (n : Nat) : (BitVec.ofNat w n).getLsbD k = n.testBit k := by
  rw [BitVec.getLsbD_ofNat, decide_eq_true within, Bool.true_and]

/-! ## The end of reset (R161, R164) -/

theorem endReset_of_holds {b : List Byte} (holds : HoldsRecord b) (s : State) :
    s.endReset b = s.startBlocks (recordOf b) false := if_pos ((recordGood_iff b).mpr holds)

theorem startBlocks_default_cfg (s : State) : (s.startBlocks {} true).cfg = {} :=
  (startBlocks_started {} true s fun _ => rfl).2.1

theorem exec_endOfReset_of_loading {s : State} {began : Nat} (loading : s.mode = .loading began) (b : List Byte) :
    exec (.endOfReset b) s = .next (s.endReset b) := by
  show execEndOfReset b s = _
  rw [execEndOfReset, loading]

theorem exec_configReadTimeout_of_loading {s : State} {began : Nat} (loading : s.mode = .loading began)
    (how : MemoryFailure) : ∃ u : State, exec (.configReadTimeout how) s = .next (u.startBlocks {} true) := by
  show ∃ u : State, execConfigReadTimeout how s = _
  unfold execConfigReadTimeout
  rw [loading]
  cases how <;> exact ⟨_, rfl⟩

/-! ## What a command leaves of the record -/

/-- The record after a command is the one before it, the default record, or one read from its bytes. -/
def Record.KeptOrRead (before after : Record) : Prop := after = before ∨ after = {} ∨ ∃ b, after = recordOf b

theorem endReset_record (b : List Byte) (s : State) : s.cfg.KeptOrRead (s.endReset b).cfg := by
  unfold State.endReset
  split
  next good => exact .inr (.inr ⟨b, rfl⟩)
  next bad => exact .inr (.inl (startBlocks_default_cfg s))

theorem exec_loader_record {c : Instr} {s t : State} (loader : isLoaderCommand c = true) (h : exec c s = .next t) :
    s.cfg.KeptOrRead t.cfg := by
  rcases loader_cases c loader with rfl | ⟨low, rfl⟩ | ⟨x, y, z, rfl⟩ | ⟨how, rfl⟩ | ⟨b, rfl⟩ <;> cases h
  · exact .inl rfl
  · split <;> exact .inl rfl
  · split <;> exact .inl rfl
  · split
    next late => exact .inr (.inl (startBlocks_default_cfg _))
    next missing => exact .inr (.inl (startBlocks_default_cfg _))
    next notLoading => exact .inl rfl
  · split
    next loading => exact endReset_record b s
    next notLoading => exact .inl rfl

theorem exec_record {c : Instr} {s t : State} (h : exec c s = .next t) : s.cfg.KeptOrRead t.cfg := by
  cases loader : isLoaderCommand c with
  | true => exact exec_loader_record loader h
  | false => exact .inl (exec_keeps c s t loader h .cfg (by decide))

theorem step_record {s t : State} (h : step s = .next t) : s.cfg.KeptOrRead t.cfg := by
  rcases step_cases h with ⟨c, rest, _, run⟩ | ⟨c, cs, _, _, rfl⟩ | ⟨_, _, rfl⟩
  · exact exec_record (s := { s with pending := rest }) run
  · exact .inl rfl
  · exact .inl (passBit_keeps s .cfg (by decide))

theorem Record.KeptOrRead.inRange {before after : Record} (record : before.KeptOrRead after) (within : before.InRange) :
    after.InRange := by
  rcases record with rfl | rfl | ⟨b, rfl⟩
  · exact within
  · exact default_inRange
  · exact recordOf_inRange b

/-- Settles O5: the fields of a good record from its bytes, the default record, then the ranges through every step. -/
theorem recordStaysInRange : Obligations.RecordStaysInRange := by
  refine ⟨fun bytes s began loading holds => ?_, fun how s began loading => ?_,
    fun s t before h => (step_record h).inRange before⟩
  · refine ⟨s.startBlocks (recordOf bytes) false, ?_, rfl, rfl, ?_⟩
    · rw [exec_endOfReset_of_loading loading, endReset_of_holds holds]
    intro byte word into
    have maintenance : (recordOf bytes).maintenance = into 100 500 (word 20) - into 100 500 (word 20) % 25 := by
      rw [recordOf_maintenance, clamp_wordAt]
    have levels : ∀ k : Fin 8, (recordOf bytes).sourceLevels.get k = into 0 3 (byte (42 + k.val)) := fun k =>
      (recordOf_sourceLevel bytes k).trans clamp_eq_ite
    have notices : ∀ k < 12, (recordOf bytes).noticeMask.getLsbD k = (word 50).testBit k := fun k within =>
      (getLsbD_ofNat_of_lt within _).trans (congrArg (Nat.testBit · k) (wordAt_eq_msbFirst bytes 50))
    exact ⟨clamp_wordAt, clamp_wordAt, clamp_eq_ite, clamp_wordAt, clamp_eq_ite, clamp_eq_ite, clamp_eq_ite, clamp_wordAt,
      clamp_eq_ite, clamp_eq_ite, clamp_wordAt, fun k within => getLsbD_ofNat_of_lt within _, clamp_eq_ite, clamp_wordAt,
      maintenance, clamp_wordAt, clamp_wordAt, clamp_eq_ite, clamp_wordAt, clamp_eq_ite, clamp_wordAt, clamp_wordAt,
      clamp_eq_ite, clamp_wordAt, clamp_wordAt, clamp_eq_ite, clamp_eq_ite, clamp_eq_ite, levels, notices⟩
  · obtain ⟨u, run⟩ := exec_configReadTimeout_of_loading loading how
    exact ⟨_, run, startBlocks_default_cfg u⟩

end Sys2Proof.Machine
end

section
/-! PROOF. What a command of a running part does, said once: the clock reaches the event's moment and one operation of a block
acts. Each condition that every step keeps is shown for the operations, and so for the step. -/

namespace Sys2Proof.Machine

/-! ## The acts of the blocks -/

/-- The one operation that a command outside the Start-up Loader does on a running part, once the clock has reached its
moment. -/
inductive Act (s : State) : State → Prop
  | still : Act s s
  | changePresent (i : SlotNo) (v : Level) (new : (s.monitor.get i).presentIn ≠ filteredOf v) : Act s (s.changePresent i v)
  | changeBolt (i : SlotNo) (v : BoltReading) (new : (s.monitor.get i).boltIn ≠ boltSenseOf v) : Act s (s.changeBolt i v)
  | insert (i : SlotNo) (code : Option Nat) (u : Nat) (found : Bool)
      (settling : (s.monitor.get i).presence = .settling u found) : Act s (s.insert i code found)
  | extract (i : SlotNo) (u : Nat) (leaving : (s.monitor.get i).presence = .present (some u)) : Act s (s.extract i)
  | publish (i : SlotNo) (volts amps : Nat) : Act s (s.publish i volts amps)
  | overCurrent (i : SlotNo) (judged : (s.charge.get i).phase.judgesCurrent = true) :
      Act s (s.faultSlot i .overCurrent id)
  | integrate (i : SlotNo) (mean u : Nat) : Act s (s.integrate i mean u)
  | endDetect (i : SlotNo) (u : Option Nat) (detects : (s.charge.get i).phase = .detect u) : Act s (s.endDetect i)
  | enterPhase (i : SlotNo) (dest : ChargePhase) (charges : (s.charge.get i).phase ≠ .off)
      (sound : ∀ k t, (s.charge.get i).phase ≠ .faulted k t) : Act s (s.enterPhase i dest)
  | retry (i : SlotNo) (k : FaultKind) (u : Nat) (waits : (s.charge.get i).phase = .faulted k (some u)) :
      Act s (s.chargeEvent i
        (fun c => { c with retries := c.retries + 1 }.enterDetect s.clock (s.share.slotAlloc.get i)))
  | passDue (i : SlotNo) : Act s (s.passDue i)
  | report : Act s s.report
  | spaceNeed : Act s s.spaceNeed
  | fallSilent (joined : s.share.state = .joined) : Act s (s.enterIsolated.compute false)
  | agePeer (a : Station) (p : Option Peer) : Act s ((s.setPeer a p).compute false)
  | dropCeiling (src : Source) : Act s ((s.setCeilings (s.share.ceilings.filter (fun r => r.source ≠ src))).compute false)
  | frame (cls : Nat) (src : Source) (p : List Byte) : Act s (s.takeFrame cls src p)
  | expireClaims (u : Nat) (next : s.nextClaimExpiry = some u) (reached : u ≤ s.clock) : Act s s.expireClaims
  | endWithdraw (i : SlotNo) (u : Nat) (pulse : (s.latch.get i).state = .withdrawing u) : Act s (s.endWithdraw i)
  | endThrow (i : SlotNo) (u : Nat) (pulse : (s.latch.get i).state = .throwing u) : Act s (s.endThrow i)
  | timeOutRelease (i : SlotNo) (u : Nat) (waits : (s.latch.get i).state = .withdrawWait u) : Act s (s.timeOutRelease i)
  | throwWait (i : SlotNo) (x : OpenTimer) (u : Nat) (opened : (s.latch.get i).state = .opened x u) :
      Act s (s.throwWait i 1)
  | restart (due : s.custody.restartDue = true) : Act s s.restartStages.completeRestart
  | finish (i : SlotNo) (outcome : Answer) (x : RunState) (head : s.headState i = some x) (begun : x ≠ .queued)
      (unasked : x ≠ .laneWait) : Act s (s.finishAndStart i outcome .release)
  | endPause (i : SlotNo) (u : Nat) (head : s.headState i = some (.pause u)) : Act s (s.work [.advance i])
  | changeEnumerated (l : LaneNo) (v : Level) : Act s (s.changeEnumerated l v)
  | faultAgain (l : LaneNo) (u : Option Nat) (faulted : (s.lanes.table.get l).state = .faulted u) :
      Act s (s.setLane l { s.lanes.table.get l with
        state := .faulted none, faultIn := .asserted, faultPin := true, faultRun := {} })
  | faultLane (l : LaneNo) (sampled : s.laneSampled l = true) (sound : ∀ u, (s.lanes.table.get l).state ≠ .faulted u) :
      Act s (s.faultLane l)
  | startClear (l : LaneNo) (u : Option Nat) (faulted : (s.lanes.table.get l).state = .faulted u) :
      Act s (s.setLane l { s.lanes.table.get l with
        faultIn := .released, faultPin := false, faultRun := {}, state := .faulted (some (momentAfter s.clock faultClearMs)) })
  | releaseFault (l : LaneNo) :
      Act s (s.setLane l { s.lanes.table.get l with faultIn := .released, faultPin := false, faultRun := {} })
  | endClear (l : LaneNo) (u : Nat) (faulted : (s.lanes.table.get l).state = .faulted (some u)) :
      Act s (s.moveLane l (.scrubbing (momentAfter s.clock s.cfg.scrubTime)))
  | endWake (u : Nat) : Act s ((s.endWake u).work [.grant])
  | endIdle (l : LaneNo) (u : Nat) (ready : (s.lanes.table.get l).state = .ready (some u)) :
      Act s (s.moveLane l .dormant).wakeLanes
  | endScrub (l : LaneNo) (u : Nat) (scrubs : (s.lanes.table.get l).state = .scrubbing u) :
      Act s ((s.moveLane l (.ready none)).work [.grant])
  | abandon : Act s s.abandonFrame
  | crcError : Act s (s.setLine s.line.countError.frameEnds)
  | lineIdle : Act s (s.setLine { s.line with phase := .idle })
  | attempt (e : TxEntry) (waits : firstWaiting s.line.queue = some e) : Act s (s.attempt e)
  | loseAttempt (u : Nat) (read : List Bool) (e : TxEntry) (sends : s.line.phase = .sending u read)
      (sent : sentEntry s.line.queue = some e) : Act s ((s.setLine { s.line with phase := .receiving read }).backToWaiting e)
  | breakAttempt (u : Nat) (read : List Bool) (e : TxEntry) (sends : s.line.phase = .sending u read)
      (sent : sentEntry s.line.queue = some e) : Act s (s.breakAttempt e)
  | completeAttempt (u : Nat) (read : List Bool) (e : TxEntry) (sends : s.line.phase = .sending u read)
      (sent : sentEntry s.line.queue = some e) : Act s (s.completeAttempt e)
  | tickLamps : Act s { s with lamps := s.lamps.tick }

/-- An act at a moment: the clock has reached it. -/
def ActsAt (s t : State) : Prop := ∃ u, Act (s.reach u) t

theorem reach_of_le {u : Nat} {s : State} (h : u ≤ s.clock) : s.reach u = s := by
  unfold State.reach; rw [Nat.max_eq_left h]

theorem Act.now {s t : State} (h : Act s t) : ActsAt s t := ⟨0, by rwa [reach_of_le (Nat.zero_le _)]⟩

theorem actsAt_still (s : State) : ActsAt s s := Act.still.now

/-! ## Every command outside the Start-up Loader -/

theorem actsAt_timed {s : State} (u : Nat) {t : State} (h : Act (s.reach u) t) : ActsAt s t := ⟨u, h⟩

section
variable (i : SlotNo) (l : LaneNo) (s : State) (run : s.mode = .running)
include run

theorem whileRunning_actsAt {f : State → State} {t : State} (h : whileRunning s f = .next t) (k : ActsAt s (f s)) :
    ActsAt s t := by
  unfold whileRunning at h
  rw [if_pos run] at h
  cases h
  exact k

theorem exec_monitor_actsAt {t : State} (c : Instr)
    (mine : (∃ v, c = .filteredPresentChange i v) ∨ (∃ v, c = .filteredBoltSenseChange i v) ∨ (∃ r, c = .insertion i r) ∨
      c = .extraction i ∨ (∃ v a, c = .measurementPublication i v a) ∨ c = .overCurrentCheck i ∨
      ∃ a, c = .integrationPeriodEnd i a) (h : exec c s = .next t) : ActsAt s t := by
  rcases mine with ⟨v, rfl⟩ | ⟨v, rfl⟩ | ⟨r, rfl⟩ | rfl | ⟨v, a, rfl⟩ | rfl | ⟨a, rfl⟩ <;>
    simp only [exec, execFilteredPresentChange, execFilteredBoltSenseChange, execInsertion, execExtraction,
      execMeasurementPublication, execOverCurrentCheck, execIntegrationPeriodEnd] at h <;>
    refine whileRunning_actsAt s run h ?_
  · split
    next new => exact (Act.changePresent i v new.2).now
    next => exact actsAt_still s
  · split
    next new => exact (Act.changeBolt i v new.2).now
    next => exact actsAt_still s
  · split
    next u found settling => exact actsAt_timed u (.insert i r u found settling)
    next => exact actsAt_still s
  · split
    next u leaving => exact actsAt_timed u (.extract i u leaving)
    next => exact actsAt_still s
  · split
    next => exact (Act.publish i _ _).now
    next => exact actsAt_still s
  · split
    next u _ =>
      split
      next judged => exact actsAt_timed _ (.overCurrent i judged)
      next => exact actsAt_still s
    next => exact actsAt_still s
  · split
    next u _ => exact actsAt_timed u (.integrate i _ u)
    next => exact actsAt_still s

theorem exec_charge_actsAt {t : State} (c : Instr)
    (mine : c = .detectTimerExpiry i ∨ c = .taperDwell i ∨ c = .toppedDwell i ∨ c = .taperToBulkDwell i ∨
      c = .toppedToBulkDwell i ∨ c = .restartHoldExpiry i ∨ c = .retryWaitExpiry i ∨ c = .dueUntilPasses i)
    (h : exec c s = .next t) : ActsAt s t := by
  have enter : ∀ (u : Nat) (dest : ChargePhase), (s.charge.get i).phase ≠ .off →
      (∀ k t, (s.charge.get i).phase ≠ .faulted k t) → ActsAt s ((s.reach u).enterPhase i dest) :=
    fun u dest charges sound => actsAt_timed u (.enterPhase i dest charges sound)
  rcases mine with rfl | rfl | rfl | rfl | rfl | rfl | rfl | rfl <;>
    simp only [exec, execDetectTimerExpiry, execTaperDwell, execToppedDwell, execTaperToBulkDwell, execToppedToBulkDwell,
      execRestartHoldExpiry, execRetryWaitExpiry, execDueUntilPasses] at h <;>
    refine whileRunning_actsAt s run h ?_
  · split
    next u detects => exact actsAt_timed u (.endDetect i _ detects)
    next => exact actsAt_still s
  · split
    next phase _ => exact enter _ _ (by simp [phase]) (by simp [phase])
    next => exact actsAt_still s
  · split
    next phase _ => exact enter _ _ (by simp [phase]) (by simp [phase])
    next => exact actsAt_still s
  · split
    next phase _ => exact enter _ _ (by simp [phase]) (by simp [phase])
    next => exact actsAt_still s
  · split
    next phase _ => exact enter _ _ (by simp [phase]) (by simp [phase])
    next => exact actsAt_still s
  · split
    next phase => exact enter _ _ (by simp [phase]) (by simp [phase])
    next => exact actsAt_still s
  · split
    next k u waits => exact actsAt_timed u (.retry i k u waits)
    next => exact actsAt_still s
  · split
    next u _ =>
      split
      next => exact actsAt_still s
      next => exact actsAt_timed u (.passDue i)
    next => exact actsAt_still s

theorem exec_share_actsAt {t : State} (c : Instr)
    (mine : c = .reportTimerExpiry ∨ c = .earlyNeedSpacing ∨ c = .silenceTimerExpiry ∨ (∃ a, c = .peerAging a) ∨
      (∃ src, c = .ceilingRecordExpiry src) ∨ c = .lampBlinkTick ∨ c = .stationRestart) (h : exec c s = .next t) :
    ActsAt s t := by
  rcases mine with rfl | rfl | rfl | ⟨a, rfl⟩ | ⟨src, rfl⟩ | rfl | rfl <;>
    simp only [exec, execReportTimerExpiry, execEarlyNeedSpacing, execSilenceTimerExpiry, execPeerAging, execCeilingRecordExpiry,
      execLampBlinkTick, execStationRestart] at h <;>
    refine whileRunning_actsAt s run h ?_
  · exact actsAt_timed _ .report
  · split
    next => exact actsAt_timed _ .spaceNeed
    next => exact actsAt_still s
  · split
    next joined _ => exact actsAt_timed _ (.fallSilent joined)
    next => exact actsAt_still s
  · split
    next p _ =>
      split
      next => exact actsAt_timed _ (.agePeer a (some { p with live := false }))
      next => exact actsAt_still s
    next => exact actsAt_still s
  · split
    next u _ => exact actsAt_timed u (.dropCeiling src)
    next => exact actsAt_still s
  · exact actsAt_timed _ .tickLamps
  · split
    next due => exact (Act.restart due).now
    next => exact actsAt_still s

theorem exec_latch_actsAt {t : State} (c : Instr)
    (mine : c = .claimExpiry ∨ c = .withdrawPulseEnd i ∨ c = .throwPulseEnd i ∨ c = .claimWaitTimeout i ∨
      c = .openTimerExpiry i) (h : exec c s = .next t) : ActsAt s t := by
  rcases mine with rfl | rfl | rfl | rfl | rfl <;>
    simp only [exec, execClaimExpiry, execWithdrawPulseEnd, execThrowPulseEnd, execClaimWaitTimeout, execOpenTimerExpiry] at h <;>
    refine whileRunning_actsAt s run h ?_
  · split
    next => exact actsAt_still s
    next u next => exact actsAt_timed u (.expireClaims u next (Nat.le_max_right _ _))
  · split
    next u pulse => exact actsAt_timed u (.endWithdraw i u pulse)
    next => exact actsAt_still s
  · split
    next u pulse => exact actsAt_timed u (.endThrow i u pulse)
    next => exact actsAt_still s
  · split
    next u waits => exact actsAt_timed u (.timeOutRelease i u waits)
    next => exact actsAt_still s
  · split
    next x u opened => exact actsAt_timed u (.throwWait i x u opened)
    next => exact actsAt_still s

theorem exec_run_actsAt {t : State} (c : Instr)
    (mine : c = .enumerationTimeout i ∨ c = .awaitTimeout i ∨ c = .pauseExpiry i ∨ c = .reenumGraceExpiry i)
    (h : exec c s = .next t) : ActsAt s t := by
  rcases mine with rfl | rfl | rfl | rfl <;>
    simp only [exec, execEnumerationTimeout, execAwaitTimeout, execPauseExpiry, execReenumGraceExpiry] at h <;>
    refine whileRunning_actsAt s run h ?_
  · split
    next u head => exact actsAt_timed u (.finish i _ _ head nofun nofun)
    next => exact actsAt_still s
  · split
    next u head => exact actsAt_timed u (.finish i _ _ head nofun nofun)
    next => exact actsAt_still s
  · split
    next u head => exact actsAt_timed u (.endPause i u head)
    next => exact actsAt_still s
  · split
    next u head => exact actsAt_timed u (.finish i _ _ head nofun nofun)
    next => exact actsAt_still s

theorem exec_lane_actsAt {t : State} (c : Instr)
    (mine : (∃ v, c = .enumeratedChange l v) ∨ c = .laneFault l ∨ c = .faultLineReleased l ∨ c = .faultClearExpiry l ∨
      c = .wakeTimerExpiry ∨ c = .idleTimerExpiry l ∨ c = .scrubTimerExpiry l) (h : exec c s = .next t) : ActsAt s t := by
  rcases mine with ⟨v, rfl⟩ | rfl | rfl | rfl | rfl | rfl | rfl <;>
    simp only [exec, execEnumeratedChange, execLaneFault, execFaultLineReleased, execFaultClearExpiry, execWakeTimerExpiry,
      execIdleTimerExpiry, execScrubTimerExpiry] at h <;>
    refine whileRunning_actsAt s run h ?_
  · split
    next => exact (Act.changeEnumerated l v).now
    next => exact actsAt_still s
  · split
    next fault =>
      split
      next u faulted => exact (Act.faultAgain l u faulted).now
      next sound => exact (Act.faultLane l fault.1 sound).now
    next => exact actsAt_still s
  · split
    next =>
      split
      next u faulted => exact (Act.startClear l u faulted).now
      next => exact (Act.releaseFault l).now
    next => exact actsAt_still s
  · split
    next u faulted => exact actsAt_timed u (.endClear l u faulted)
    next => exact actsAt_still s
  · split
    next => exact actsAt_still s
    next u _ => exact actsAt_timed u (.endWake u)
  · split
    next u ready => exact actsAt_timed u (.endIdle l u ready)
    next => exact actsAt_still s
  · split
    next u scrubs => exact actsAt_timed u (.endScrub l u scrubs)
    next => exact actsAt_still s

theorem exec_line_actsAt {t : State} (c : Instr)
    (mine : c = .frameAbandoned ∨ c = .crcError ∨ c = .lineIdle ∨ c = .transmitAttempt ∨ c = .arbitrationLost ∨
      c = .bitError ∨ c = .transmitComplete) (h : exec c s = .next t) : ActsAt s t := by
  rcases mine with rfl | rfl | rfl | rfl | rfl | rfl | rfl <;>
    simp only [exec, execFrameAbandoned, execCrcError, execLineIdle, execTransmitAttempt, execArbitrationLost, execBitError,
      execTransmitComplete] at h <;>
    refine whileRunning_actsAt s run h ?_
  · split
    next => exact Act.abandon.now
    next => exact actsAt_still s
  · split
    next => exact Act.crcError.now
    next => exact actsAt_still s
  · split
    next => exact actsAt_still s
    next => exact actsAt_timed _ .lineIdle
  · split
    next e _ waits => exact (Act.attempt e waits).now
    next => exact actsAt_still s
  · split
    next u read e sends sent => exact (Act.loseAttempt u read e sends sent).now
    next => exact actsAt_still s
  · split
    next u read e sends sent => exact (Act.breakAttempt u read e sends sent).now
    next => exact actsAt_still s
  · split
    next u read e sends sent => exact actsAt_timed u (.completeAttempt u read e sends sent)
    next => exact actsAt_still s

theorem exec_frame_actsAt {t : State} {c : Instr} {cls : Nat} {src : Source} {p : List Byte}
    (carries : frameOf c = some (cls, src, p)) (h : exec c s = .next t) : ActsAt s t := by
  have taken : whileRunning s (State.takeFrame cls src p) = .next t := by
    cases c <;> simp only [frameOf, reduceCtorEq, Option.some.injEq, Prod.mk.injEq] at carries <;>
      obtain ⟨rfl, rfl, rfl⟩ := carries <;> exact h
  exact whileRunning_actsAt s run taken (Act.frame cls src p).now

end

/-- Every command outside the Start-up Loader is one act at one moment. -/
theorem exec_actsAt {c : Instr} {s t : State} (hc : isLoaderCommand c = false) (run : s.mode = .running)
    (h : exec c s = .next t) : ActsAt s t := by
  cases frame : frameOf c with
  | some carried => exact exec_frame_actsAt s run frame h
  | none =>
    cases c <;> simp only [isLoaderCommand, frameOf, reduceCtorEq] at hc frame
    case filteredPresentChange i v => exact exec_monitor_actsAt i s run _ (by simp) h
    case filteredBoltSenseChange i v => exact exec_monitor_actsAt i s run _ (by simp) h
    case insertion i r => exact exec_monitor_actsAt i s run _ (by simp) h
    case extraction i => exact exec_monitor_actsAt i s run _ (by simp) h
    case measurementPublication i v a => exact exec_monitor_actsAt i s run _ (by simp) h
    case overCurrentCheck i => exact exec_monitor_actsAt i s run _ (by simp) h
    case integrationPeriodEnd i a => exact exec_monitor_actsAt i s run _ (by simp) h
    case detectTimerExpiry i => exact exec_charge_actsAt i s run _ (by simp) h
    case taperDwell i => exact exec_charge_actsAt i s run _ (by simp) h
    case toppedDwell i => exact exec_charge_actsAt i s run _ (by simp) h
    case taperToBulkDwell i => exact exec_charge_actsAt i s run _ (by simp) h
    case toppedToBulkDwell i => exact exec_charge_actsAt i s run _ (by simp) h
    case restartHoldExpiry i => exact exec_charge_actsAt i s run _ (by simp) h
    case retryWaitExpiry i => exact exec_charge_actsAt i s run _ (by simp) h
    case dueUntilPasses i => exact exec_charge_actsAt i s run _ (by simp) h
    case reportTimerExpiry => exact exec_share_actsAt s run _ (by simp) h
    case earlyNeedSpacing => exact exec_share_actsAt s run _ (by simp) h
    case silenceTimerExpiry => exact exec_share_actsAt s run _ (by simp) h
    case peerAging a => exact exec_share_actsAt s run _ (by simp) h
    case ceilingRecordExpiry src => exact exec_share_actsAt s run _ (by simp) h
    case stationRestart => exact exec_share_actsAt s run _ (by simp) h
    case lampBlinkTick => exact exec_share_actsAt s run _ (by simp) h
    case claimExpiry => exact exec_latch_actsAt 0 s run _ (by simp) h
    case withdrawPulseEnd i => exact exec_latch_actsAt i s run _ (by simp) h
    case throwPulseEnd i => exact exec_latch_actsAt i s run _ (by simp) h
    case claimWaitTimeout i => exact exec_latch_actsAt i s run _ (by simp) h
    case openTimerExpiry i => exact exec_latch_actsAt i s run _ (by simp) h
    case enumerationTimeout i => exact exec_run_actsAt i s run _ (by simp) h
    case awaitTimeout i => exact exec_run_actsAt i s run _ (by simp) h
    case pauseExpiry i => exact exec_run_actsAt i s run _ (by simp) h
    case reenumGraceExpiry i => exact exec_run_actsAt i s run _ (by simp) h
    case enumeratedChange l v => exact exec_lane_actsAt l s run _ (by simp) h
    case laneFault l => exact exec_lane_actsAt l s run _ (by simp) h
    case faultLineReleased l => exact exec_lane_actsAt l s run _ (by simp) h
    case faultClearExpiry l => exact exec_lane_actsAt l s run _ (by simp) h
    case wakeTimerExpiry => exact exec_lane_actsAt 0 s run _ (by simp) h
    case idleTimerExpiry l => exact exec_lane_actsAt l s run _ (by simp) h
    case scrubTimerExpiry l => exact exec_lane_actsAt l s run _ (by simp) h
    case frameAbandoned => exact exec_line_actsAt s run _ (by simp) h
    case crcError => exact exec_line_actsAt s run _ (by simp) h
    case lineIdle => exact exec_line_actsAt s run _ (by simp) h
    case transmitAttempt => exact exec_line_actsAt s run _ (by simp) h
    case arbitrationLost => exact exec_line_actsAt s run _ (by simp) h
    case bitError => exact exec_line_actsAt s run _ (by simp) h
    case transmitComplete => exact exec_line_actsAt s run _ (by simp) h

/-! ## A condition through every step -/

/-- A condition that stands after every event if it stood before: at any later moment, through every act, through a bit time,
and after a power-on or the start of the blocks. -/
structure Lasting (P : State → Prop) : Prop where
  reach : ∀ (u : Nat) (s : State), P s → P (s.reach u)
  act : ∀ s t : State, s.mode = .running → Act s t → P s → P t
  pending : ∀ (s : State) q, P s → P { s with pending := q }
  pass : ∀ s : State, P s → P s.passBit
  cleared : ∀ s : State, P s.clearBlocks
  released : ∀ (s : State) (x : Station) (began : Nat), s.mode = .heldInReset → P s →
    P { s with address := x, mode := .loading began }
  started : ∀ (s : State) (r : Record) (d : Bool), (d = true → r = {}) → P (s.startBlocks r d)

theorem Lasting.loader {P : State → Prop} (l : Lasting P) {c : Instr} {s t : State} (hc : isLoaderCommand c = true)
    (h : exec c s = .next t) (before : P s) : P t := by
  rcases loader_cases c hc with rfl | ⟨low, rfl⟩ | ⟨x, y, z, rfl⟩ | ⟨how, rfl⟩ | ⟨b, rfl⟩ <;> cases h
  · exact l.cleared s
  · split
    · exact before
    · exact l.cleared s
  · split
    next held => exact l.released s _ _ held before
    next => exact before
  · split
    next => exact l.started _ _ _ fun _ => rfl
    next => exact l.started _ _ _ fun _ => rfl
    next => exact before
  · split
    next =>
      unfold State.endReset
      split
      · exact l.started _ _ _ nofun
      · exact l.started _ _ _ fun _ => rfl
    next => exact before

theorem Lasting.exec {P : State → Prop} (l : Lasting P) {c : Instr} {s t : State} (h : exec c s = .next t) (before : P s) :
    P t := by
  cases hc : isLoaderCommand c with
  | true => exact l.loader hc h before
  | false =>
    by_cases run : s.mode = .running
    · obtain ⟨u, act⟩ := exec_actsAt hc run h
      exact l.act (s.reach u) t run act (l.reach u s before)
    · have waits := (nonloader_waits c s hc run).symm.trans h
      cases waits
      exact before

/-- Each case of a step keeps a lasting condition. -/
theorem Lasting.step {P : State → Prop} (l : Lasting P) {s t : State} (h : step s = .next t) (before : P s) : P t := by
  rcases step_cases h with ⟨c, rest, _, run⟩ | ⟨c, cs, _, _, rfl⟩ | ⟨_, _, rfl⟩
  · exact l.exec run (l.pending s rest before)
  · exact l.pending s _ before
  · exact l.pass s before

end Sys2Proof.Machine
end

section
/-! PROOF. The conditions on claims, bolts, shares and power stages through every step (R19 to R36, R47, R58 to R63, R69, R79,
R80). -/

namespace Sys2Proof.Machine

/-! ## The Line Interface's acts -/

theorem frameEnds_line_steady (s : State) : Steady s (s.setLine s.line.countError.frameEnds) :=
  (countError_steady s).trans (frameEnds_steady _)

/-! ## Every act -/

theorem Act.steady {s t : State} (h : Act s t) : Steady s t := by
  cases h
  case still => exact Steady.refl s
  case changePresent i v _ => exact changePresent_steady i v s
  case changeBolt i v _ => exact changeBolt_steady i v s
  case insert i code u found _ => exact insert_steady i code found s
  case extract i u _ => exact extract_steady i s
  case publish i volts amps => exact publish_steady i volts amps s
  case overCurrent i judged => exact faultSlot_steady i .overCurrent id s judged (fun _ => rfl) (fun _ => rfl)
  case integrate i mean u => exact integrate_steady i mean u s
  case endDetect i u detects => exact endDetect_steady i s u detects
  case enterPhase i dest charges sound =>
    exact enterPhase_steady i dest s fun right => valid_of_served (right i).2 charges fun k => sound k none
  case retry i k u waits => exact retry_steady i s k u waits
  case passDue i => exact passDue_steady i s
  case report => exact report_steady s
  case spaceNeed => exact spaceNeed_steady s
  case fallSilent => exact (enterIsolated_almost s).compute false
  case agePeer a p => exact (setPeer_almost a p s).compute false
  case dropCeiling src => exact (setCeilings_almost _ s).compute false
  case frame cls src p => exact takeFrame_steady cls src p s
  case expireClaims u _ _ => exact expireClaims_steady s
  case endWithdraw i u _ => exact endWithdraw_steady i s
  case endThrow i u _ => exact endThrow_steady i s
  case timeOutRelease i u _ => exact timeOutRelease_steady i s
  case throwWait i x u _ => exact throwWait_steady i 1 s
  case restart _ => exact (restartStages_steady s).trans (completeRestart_steady _)
  case finish i outcome x _ _ _ => exact finishAndStart_steady i outcome .release s
  case endPause i u _ => exact work_steady _ s
  case changeEnumerated l v => exact changeEnumerated_steady l v s
  case faultAgain l u _ => exact setLane_steady l _ s
  case faultLane l _ _ => exact faultLane_steady l s
  case startClear l u _ => exact setLane_steady l _ s
  case releaseFault l => exact setLane_steady l _ s
  case endClear l u _ => exact moveLane_steady l _ s
  case endWake u => exact (endWake_steady u s).trans (work_steady _ _)
  case endIdle l u _ => exact (moveLane_steady l _ s).trans (wakeLanes_steady _)
  case endScrub l u _ => exact (moveLane_steady l _ s).trans (work_steady _ _)
  case abandon => exact abandonFrame_steady s
  case crcError => exact frameEnds_line_steady s
  case lineIdle => exact setLinePhase_steady .idle s
  case attempt e _ => exact attempt_steady e s
  case loseAttempt u read e _ _ => exact (setLinePhase_steady _ s).trans (backToWaiting_steady e _)
  case breakAttempt u read e _ _ => exact breakAttempt_steady e s
  case completeAttempt u read e _ _ => exact completeAttempt_steady e s
  case tickLamps => exact Steady.of_keeps (ps := [.lamps]) (by intro p hp; cases p <;> simp_all [same]) (by decide)

/-! ## A bit time -/

/-- A bit time moves no cable class. -/
theorem passBit_cable (s : State) (i : SlotNo) : (s.passBit.monitor.get i).cable = (s.monitor.get i).cable := by
  rcases passBit_monitor s i with same | sampled
  · rw [same]
  · rw [sampled, MonitorSlot.sample_cable]

theorem power_of_cable {s t : State} (g : t.cfg = s.cfg) (c : t.charge = s.charge) (a : t.share.slotAlloc = s.share.slotAlloc)
    (m : ∀ i, (t.monitor.get i).cable = (s.monitor.get i).cable) (h : s.PowerRight) : t.PowerRight := by
  intro k
  rw [g, c, a, m]
  exact h k

theorem passBit_claims (s : State) (h : s.ClaimsWithin) : s.passBit.ClaimsWithin := by
  have keeps := passBit_keeps s
  refine claims_of_sublist (keeps .cfg (by decide)) ?_ h
  rw [keeps .claimList (by decide), passBit_clock]
  exact liveClaims_later _ (Nat.le_succ _)

theorem passBit_bolts (s : State) (h : s.BoltsClaimed) : s.passBit.BoltsClaimed :=
  bolts_later (by rw [passBit_clock]; exact Nat.le_succ _) (passBit_keeps s .latch (by decide))
    (passBit_keeps s .requests (by decide)).2.1 h

theorem passBit_power (s : State) (h : s.PowerRight) : s.passBit.PowerRight :=
  power_of_cable (passBit_keeps s .cfg (by decide)) (passBit_keeps s .charge (by decide))
    (passBit_keeps s .share (by decide)).2.2.2.2.2.2.2 (passBit_cable s) h

theorem passBit_share (s : State) (h : s.ShareRight) : s.passBit.ShareRight :=
  share_of_keeps (passBit_keeps s) (by decide) (sums_of_eq (passBit_keeps s .charge (by decide))) (by decide) (by decide)
    (by decide) (by decide) (by decide) h

/-! ## Blocks that have just started, or stand in reset -/

/-- The blocks' values for power-on and pin reset, as far as the conditions on power and claims read them. -/
structure State.AtRest (s : State) : Prop where
  charge : ∀ i, s.charge.get i = {}
  share : ∃ at_, s.share = { reportAt := at_ }
  latch : ∀ i, s.latch.get i = {}
  claims : s.claims = {}

theorem clearBlocks_atRest (s : State) : s.clearBlocks.AtRest :=
  ⟨forSix rfl rfl rfl rfl rfl rfl, ⟨_, rfl⟩, forSix rfl rfl rfl rfl rfl rfl, rfl⟩

theorem State.Started.atRest {s : State} (h : s.Started) : s.AtRest := ⟨h.charge, ⟨_, h.share⟩, h.latch, h.claims⟩

theorem startBlocks_atRest (s : State) (r : Record) (d : Bool) (hd : d = true → r = {}) : (s.startBlocks r d).AtRest :=
  (startBlocks_started r d s hd).1.atRest

namespace State.AtRest
variable {s : State} (h : s.AtRest)
include h

theorem claimsWithin : s.ClaimsWithin := by
  unfold State.ClaimsWithin
  rw [h.claims]
  exact ⟨Nat.zero_le _, fun _ => Nat.zero_le _, Nat.zero_le _⟩

theorem boltsClaimed : s.BoltsClaimed := by
  intro i u _
  rw [h.latch]
  exact ⟨nofun, nofun⟩

theorem powerRight : s.PowerRight := by
  intro k
  rw [h.charge]
  exact ⟨⟨rfl, rfl⟩, trivial⟩

theorem sums_eq : s.sums = {} := by
  simp [State.sums, h.charge, sumSix]

/-- A station that asks for nothing takes a target of 0 (R59, R60). -/
theorem cappedTarget_eq : s.cappedTarget = 0 := by
  obtain ⟨at_, share⟩ := h.share
  have idle : s.uncappedTarget = 0 := by
    simp [State.uncappedTarget, share, tierGrant]
  simp [State.cappedTarget, idle, share]

theorem shareRight : s.ShareRight := by
  unfold State.ShareRight
  rw [h.sums_eq, h.cappedTarget_eq]
  obtain ⟨at_, share⟩ := h.share
  rw [share]
  exact ⟨rfl, rfl, Nat.le_refl _, Nat.le_refl 0⟩

end State.AtRest

/-- A condition of those that no operation undoes lasts, if a bit time keeps it and it stands in blocks at rest. -/
theorem lasting_of_steady {P : State → Prop} (steady : ∀ s t, Steady s t → P s → P t)
    (blind : ∀ (s : State) (q : List Instr) (x : Station) (m : Mode), P s →
      P { s with pending := q, address := x, mode := m })
    (pass : ∀ s : State, P s → P s.passBit) (rest : ∀ s : State, s.AtRest → P s) : Lasting P where
  reach u s := steady _ _ (reach_steady u s)
  act s t _ act := steady s t act.steady
  pending s q before := blind s q s.address s.mode before
  pass := pass
  cleared s := rest _ (clearBlocks_atRest s)
  released s x began _ before := blind s s.pending x (.loading began) before
  started s r d hd := rest _ (startBlocks_atRest s r d hd)

theorem claimsWithin_lasting : Lasting State.ClaimsWithin :=
  lasting_of_steady (fun _ _ h => h.claims) (fun _ _ _ _ h => h) passBit_claims fun _ => State.AtRest.claimsWithin

theorem boltsClaimed_lasting : Lasting State.BoltsClaimed :=
  lasting_of_steady (fun _ _ h => h.bolts) (fun _ _ _ _ h => h) passBit_bolts fun _ => State.AtRest.boltsClaimed

theorem shareRight_lasting : Lasting State.ShareRight :=
  lasting_of_steady (fun _ _ h => h.share) (fun _ _ _ _ h => h) passBit_share fun _ => State.AtRest.shareRight

theorem powerRight_lasting : Lasting State.PowerRight :=
  lasting_of_steady (fun _ _ h => h.power) (fun _ _ _ _ h => h) passBit_power fun _ => State.AtRest.powerRight

/-- Settles O6: no act admits a claim beyond the allowance, and time only takes claims away. -/
theorem claimsStayWithinAllowance : Obligations.ClaimsStayWithinAllowance :=
  fun _ _ before h => claimsWithin_lasting.step h before

/-- Settles O7: a pulse begins with the admission of its claim and ends before the claim does. -/
theorem drivenBoltsStayClaimed : Obligations.DrivenBoltsStayClaimed :=
  fun _ _ before h => boltsClaimed_lasting.step h before

/-- Settles O8: whatever moves a demand or the budget is followed by a computation in the same event. -/
theorem sharesStayRight : Obligations.SharesStayRight :=
  fun _ _ before h => shareRight_lasting.step h before

/-- Settles O9: each move of a charge record sets its output and set-point as its allocation calls for. -/
theorem powerStagesStayRight : Obligations.PowerStagesStayRight :=
  fun _ _ before h => powerRight_lasting.step h before

end Sys2Proof.Machine
end

section
/-! PROOF. The step and the Start-up Loader (R159 to R164), and what the conditions on power say of the shelf (R18, R29, R63). -/

namespace Sys2Proof.Machine

/-! ## The step -/

theorem bitTime_of_idle {s : State} (idle : s.dueNow = []) : s.bitTime = s.passBit := by
  unfold State.bitTime; rw [idle]

theorem bitTime_of_due {s : State} {c : Instr} {cs : List Instr} (due : s.dueNow = c :: cs) :
    s.bitTime = { s with pending := s.pending ++ [c] } := by
  unfold State.bitTime; rw [due]

/-- Settles O1: the three cases of the step. -/
theorem stepRunsFrontCommand : Obligations.StepRunsFrontCommand := by
  intro c s
  refine ⟨rfl, fun idle => ?_, fun d ds due => ?_⟩
  · exact congrArg Host.Outcome.next (bitTime_of_idle (s := { s with pending := [] }) idle)
  · exact congrArg Host.Outcome.next (bitTime_of_due (s := { s with pending := [] }) due)

/-! ## The loader's commands -/

theorem startBlocks_keeps_inputs (r : Record) (d : Bool) (s : State) :
    (s.startBlocks r d).pending = s.pending ∧ (s.startBlocks r d).wire = s.wire ∧ (s.startBlocks r d).clock = s.clock := by
  unfold State.startBlocks State.notice
  dsimp only
  repeat' split
  all_goals exact ⟨rfl, rfl, rfl⟩

/-- A loader's command leaves the waiting commands and the line's input, and never sets the clock back. -/
theorem exec_loader_inputs {c : Instr} {s t : State} (loader : isLoaderCommand c = true) (h : exec c s = .next t) :
    t.pending = s.pending ∧ t.wire = s.wire ∧ s.clock ≤ t.clock := by
  have start : ∀ (u : State) (r : Record) (d : Bool), u.pending = s.pending → u.wire = s.wire → s.clock ≤ u.clock →
      (u.startBlocks r d).pending = s.pending ∧ (u.startBlocks r d).wire = s.wire ∧ s.clock ≤ (u.startBlocks r d).clock := by
    intro u r d pending wire clock
    obtain ⟨p, w, k⟩ := startBlocks_keeps_inputs r d u
    exact ⟨p.trans pending, w.trans wire, k ▸ clock⟩
  have same : s.pending = s.pending ∧ s.wire = s.wire ∧ s.clock ≤ s.clock := ⟨rfl, rfl, Nat.le_refl _⟩
  rcases loader_cases c loader with rfl | ⟨low, rfl⟩ | ⟨x, y, z, rfl⟩ | ⟨how, rfl⟩ | ⟨b, rfl⟩ <;> cases h
  · exact same
  · split <;> exact same
  · split <;> exact same
  · split
    next began _ => exact start (s.reach (momentAfter began configReadMs)) _ _ rfl rfl (Nat.le_max_left _ _)
    next => exact start s _ _ rfl rfl (Nat.le_refl _)
    next => exact same
  · split
    next =>
      unfold State.endReset
      split <;> exact start s _ _ rfl rfl (Nat.le_refl _)
    next => exact same

/-- Settles O2: the loader's commands, then the frame of the others. -/
theorem everyCommandAnswers : Obligations.EveryCommandAnswers := by
  intro c s
  obtain ⟨t, h⟩ := exec_next c s
  cases hc : isLoaderCommand c with
  | true =>
    obtain ⟨pending, wire, clock⟩ := exec_loader_inputs hc h
    exact ⟨t, h, pending, wire, clock, nofun⟩
  | false =>
    have keeps := exec_keeps c s t hc h
    refine ⟨t, h, keeps .pending (by decide), keeps .wire (by decide), exec_clock c s t hc h, fun _ =>
      ⟨keeps .mode (by decide), keeps .baseAt (by decide), keeps .address (by decide), keeps .cfg (by decide),
        keeps .defaulted (by decide), fun waits => ?_⟩⟩
    cases h.symm.trans (nonloader_waits c s hc waits)
    rfl

theorem clearBlocks_released (s : State) : s.clearBlocks.OutputsReleased := by
  refine ⟨fun i => ?_, fun l => ?_, rfl, rfl⟩
  · have idle : s.clearBlocks.boltDrive i = none := by
      rw [State.boltDrive, (clearBlocks_atRest s).latch]
    rw [(clearBlocks_atRest s).charge]
    exact ⟨rfl, rfl, idle, rfl⟩
  · have dormant : (s.clearBlocks.lanes.table.get l).state = .dormant := by
      revert l; exact forLanes rfl rfl rfl rfl
    refine ⟨?_, fun i => ?_⟩
    · simp [State.lanePower, dormant]
    · simp [State.crosspoint, dormant]

theorem clearBlocks_pins (s : State) : PinsSame s s.clearBlocks := by
  refine ⟨fun i => ?_, forLanes ⟨rfl, rfl⟩ ⟨rfl, rfl⟩ ⟨rfl, rfl⟩ ⟨rfl, rfl⟩, rfl⟩
  simp only [State.clearBlocks, sixOf_get]
  exact ⟨rfl, rfl, rfl, rfl, rfl⟩

/-- Settles O3: both rows put every block at its values for power-on, and a short pulse does nothing. -/
theorem powerOnAndPinResetReleaseOutputs : Obligations.PowerOnAndPinResetReleaseOutputs := by
  intro s low
  refine ⟨fun short => congrArg Host.Outcome.next (if_pos short), s.clearBlocks, rfl, fun long => ?_, rfl,
    clearBlocks_released s, clearBlocks_pins s, rfl, rfl, rfl, rfl, rfl, ?_⟩
  · exact congrArg Host.Outcome.next (if_neg (Nat.not_lt.mpr long))
  · intro p hp; cases p <;> simp_all [same, State.clearBlocks]

theorem strapAddress_val (a b c : Strap) : (strapAddress a b c).val =
    (if a = .low then 0 else 4) + (if b = .low then 0 else 2) + (if c = .low then 0 else 1) := by
  cases a <;> cases b <;> cases c <;> rfl

theorem exec_resetRelease_of_held {s : State} (held : s.mode = .heldInReset) (a b c : Strap) :
    exec (.resetRelease a b c) s = .next { s with address := strapAddress a b c, mode := .loading s.clock } := by
  show execResetRelease a b c s = _
  rw [execResetRelease, held]

theorem exec_resetRelease_of_other {s : State} (other : s.mode ≠ .heldInReset) (a b c : Strap) :
    exec (.resetRelease a b c) s = .next s := by
  show execResetRelease a b c s = _
  unfold execResetRelease
  cases mode : s.mode with
  | heldInReset => exact absurd mode other
  | loading => rfl
  | running => rfl

theorem exec_configReadTimeout_of_loading_eq {s : State} {began : Nat} (loading : s.mode = .loading began)
    (how : MemoryFailure) : exec (.configReadTimeout how) s = .next
      ((if how = .notCompleteIn50ms then s.reach (began + 50 * 250) else s).startBlocks {} true) := by
  show execConfigReadTimeout how s = _
  unfold execConfigReadTimeout
  rw [loading]
  cases how <;> rfl

/-- Settles O4: the straps at the release, then the start of the blocks on the default record and on the bytes read. -/
theorem blocksStartOnRecord : Obligations.BlocksStartOnRecord := by
  refine ⟨fun a b c s => ⟨fun held => ?_, fun other => exec_resetRelease_of_other other a b c⟩, fun how s began loading => ?_,
    fun bytes s began loading => ?_⟩
  · refine ⟨_, exec_resetRelease_of_held held a b c, rfl, strapAddress_val a b c, ?_⟩
    intro p hp; cases p <;> simp_all [same]
  · generalize hv : (if how = .notCompleteIn50ms then s.reach (began + 50 * 250) else s) = v
    have run := exec_configReadTimeout_of_loading_eq loading how
    rw [hv] at run
    obtain ⟨started, cfg, defaulted, address, pins, pending, clock⟩ := startBlocks_started {} true v fun _ => rfl
    refine ⟨_, run, started, cfg, defaulted, attention_of_defaulted _ started.running defaulted, ?_⟩
    rw [address, pending, clock]
    split at hv <;> subst hv
    next late => exact ⟨rfl, pins, rfl, (if_pos late).symm⟩
    next missing => exact ⟨rfl, pins, rfl, (if_neg missing).symm⟩
  · rw [exec_endOfReset_of_loading loading]
    by_cases holds : HoldsRecord bytes
    · rw [endReset_of_holds holds]
      obtain ⟨started, cfg, defaulted, address, pins, pending, clock⟩ := startBlocks_started (recordOf bytes) false s nofun
      exact ⟨_, rfl, started, fun _ => ⟨cfg, defaulted⟩, fun n => absurd holds n, address, pins, pending, clock⟩
    · obtain ⟨started, cfg, defaulted, address, pins, pending, clock⟩ := startBlocks_started {} true s fun _ => rfl
      have bad : s.endReset bytes = s.startBlocks {} true := if_neg (mt (recordGood_iff bytes).mp holds)
      rw [bad]
      exact ⟨_, rfl, started, fun y => absurd y holds, fun _ => ⟨cfg, defaulted⟩, address, pins, pending, clock⟩

/-! ## The state right after reset -/

theorem reset_atRest : State.reset.AtRest :=
  ⟨forSix rfl rfl rfl rfl rfl rfl, ⟨_, rfl⟩, forSix rfl rfl rfl rfl rfl rfl, rfl⟩

theorem reset_dormant (l : LaneNo) : (State.reset.lanes.table.get l).state = .dormant := by
  revert l; exact forLanes rfl rfl rfl rfl

theorem reset_runs (i : SlotNo) : (State.reset.plans.slots.get i).runs = [] := by
  revert i; exact forSix rfl rfl rfl rfl rfl rfl

theorem reset_headState (i : SlotNo) : State.reset.headState i = none := by
  rw [State.headState, State.headRun, reset_runs]; rfl

theorem reset_servedRight : State.reset.ServedRight where
  attached l i q h := by rw [reset_dormant] at h; cases h
  head i x h := by rw [reset_headState] at h; cases h
  tail i r m := by rw [reset_runs] at m; cases m

theorem reset_runsRight : State.reset.RunsRight where
  table := ⟨Nat.zero_le _, List.nodup_nil⟩
  steps p m := nomatch m
  counted p m := nomatch m
  queued i := by rw [reset_runs]; exact ⟨List.nodup_nil, nofun⟩

theorem reset_queueRight : State.reset.QueueRight := by
  refine ⟨List.pairwise_singleton _ _, List.nodup_singleton _, fun e m => ?_⟩
  cases List.mem_singleton.mp m
  exact Nat.zero_lt_one

theorem reset_started : State.reset.Started := by
  constructor
  case monitor =>
    exact forSix (by constructor <;> decide) (by constructor <;> decide) (by constructor <;> decide)
      (by constructor <;> decide) (by constructor <;> decide) (by constructor <;> decide)
  case charge => exact reset_atRest.charge
  case latch => exact reset_atRest.latch
  case lane => exact forLanes ⟨rfl, rfl, rfl, rfl⟩ ⟨rfl, rfl, rfl, rfl⟩ ⟨rfl, rfl, rfl, rfl⟩ ⟨rfl, rfl, rfl, rfl⟩
  case line => exact ⟨rfl, rfl, rfl⟩
  all_goals rfl

/-- Settles O11: each condition on the blocks' reset values. -/
theorem resetMeetsInvariants : Obligations.ResetMeetsInvariants := by
  have lanes : State.reset.LanesRight :=
    ⟨List.nodup_nil, nofun, fun l m i p q h _ => by rw [reset_dormant] at h; cases h⟩
  exact ⟨reset_atRest.claimsWithin, reset_atRest.boltsClaimed, reset_atRest.shareRight, reset_atRest.powerRight,
    ⟨Nat.zero_le _, Nat.zero_le _⟩, default_inRange, ⟨Nat.zero_le _, Nat.zero_le _, Nat.zero_le _, by decide, rfl⟩,
    reset_queueRight, lanes, fun waits => absurd rfl waits, reset_servedRight, reset_runsRight,
    fun differs => absurd differs (by decide), .inl nofun, nofun, by decide, reset_started⟩

/-! ## Set-points and the draw of the shelf -/

theorem value_mul_convert_le (cfg : Record) (cable : CableClass) (c : ChargeSlot) (p : Nat) :
    c.working.value * convert cfg cable c p ≤ 250 * p := by
  have low : convert cfg cable c p ≤ 25 * (10 * p / c.working.value) := Nat.min_le_left _ _
  have whole := Nat.mul_div_le (10 * p) c.working.value
  calc c.working.value * convert cfg cable c p
      ≤ c.working.value * (25 * (10 * p / c.working.value)) := Nat.mul_le_mul_left _ low
    _ = 25 * (c.working.value * (10 * p / c.working.value)) := by ring
    _ ≤ 25 * (10 * p) := Nat.mul_le_mul_left _ whole
    _ = 250 * p := by ring

/-- The set-point that a slot's phase and allocation call for draws no more than the allocation (R29). -/
theorem ChargeSlot.Right.draw_le {cfg : Record} {cable : CableClass} {p : Nat} {c : ChargeSlot} (h : c.Right cfg cable p) :
    c.outputVolts * c.setPoint ≤ 250 * p := by
  have off : c.outputOn = false ∧ c.setPoint = 0 → c.outputVolts * c.setPoint ≤ 250 * p := by
    rintro ⟨_, none⟩
    rw [none]
    exact Nat.zero_le _
  unfold ChargeSlot.Right at h
  split at h
  next => exact off h
  next =>
    obtain ⟨five, ⟨enough, on, current, _⟩ | ⟨_, dark, none, _⟩⟩ := h
    · have draw : c.outputVolts * c.setPoint = 2500 := by
        simp [ChargeSlot.outputVolts, on, five, current, Volts.value, detectCurrent]
      have : detectFloor = 10 := rfl
      omega
    · exact off ⟨dark, none⟩
  next =>
    obtain ⟨on, converted, _⟩ := h
    have volts : c.outputVolts = c.working.value := if_pos on
    rw [volts, converted]
    exact value_mul_convert_le cfg cable c p
  next => exact off ⟨h.1, h.2.1⟩
  next => exact off h
  next => exact off h

theorem sumSix_le {f g : SlotNo → Nat} (h : ∀ k, f k ≤ g k) : sumSix f ≤ sumSix g := by
  unfold sumSix
  have h0 := h 0; have h1 := h 1; have h2 := h 2; have h3 := h 3; have h4 := h 4; have h5 := h 5
  omega

theorem sumSix_mul (c : Nat) (f : SlotNo → Nat) : sumSix (fun k => c * f k) = c * sumSix f := by
  simp only [sumSix, Nat.mul_add]

/-- Settles O12: slot by slot by the phase, and in sum by the distribution. -/
theorem shelfDrawWithinAllocation : Obligations.ShelfDrawWithinAllocation := by
  rintro s power ⟨_, _, _, shares⟩
  have each : ∀ k, (s.charge.get k).outputVolts * (s.charge.get k).setPoint ≤ 250 * s.share.slotAlloc.get k :=
    fun k => (power k).1.draw_le
  refine ⟨each, ?_⟩
  calc sumSix (fun k => (s.charge.get k).outputVolts * (s.charge.get k).setPoint)
      ≤ sumSix (fun k => 250 * s.share.slotAlloc.get k) := sumSix_le each
    _ = 250 * sumSix (fun k => s.share.slotAlloc.get k) := sumSix_mul 250 _
    _ ≤ 250 * s.share.alloc := Nat.mul_le_mul_left _ shares

theorem convert_eq (cfg : Record) (cable : CableClass) (c : ChargeSlot) (p : Nat) : convert cfg cable c p =
    min (25 * (10 * p / if c.working = .nine then 9 else 5)) (25 * (currentCeiling cfg c.path cable / 25)) := by
  have volts : c.working.value = if c.working = .nine then 9 else 5 := by cases c.working <;> rfl
  rw [convert, volts, Nat.mul_comm (_ / 25)]

theorem phaseMinimum_eq (cfg : Record) (ph : ChargePhase) :
    phaseMinimum cfg ph = if ph = .topped then cfg.maintenance else 100 := by cases ph <;> rfl

theorem hundred_le_phaseMinimum {cfg : Record} (within : cfg.InRange) (ph : ChargePhase) : 100 ≤ phaseMinimum cfg ph := by
  rw [phaseMinimum_eq]
  split
  · exact within.maintenance.1
  · exact Nat.le_refl _

theorem convert_range (cfg : Record) (cable : CableClass) (c : ChargeSlot) (p : Nat) :
    25 ∣ convert cfg cable c p ∧ convert cfg cable c p ≤ currentCeiling cfg c.path cable := by
  rw [convert_eq]
  constructor
  · rcases Nat.le_total (25 * (10 * p / if c.working = .nine then 9 else 5)) (25 * (currentCeiling cfg c.path cable / 25)) with
      h | h
    · rw [Nat.min_eq_left h]; exact Nat.dvd_mul_right _ _
    · rw [Nat.min_eq_right h]; exact Nat.dvd_mul_right _ _
  · exact (Nat.min_le_right _ _).trans (Nat.mul_div_le _ _)

theorem detect_le_ceiling {cfg : Record} (within : cfg.InRange) (path : Path) {cable : CableClass} (valid : cable.Valid) :
    detectCurrent ≤ currentCeiling cfg path cable := by
  cases path with
  | lane => exact within.laneCeiling.1
  | cable => rcases valid with rfl | rfl | rfl <;> simp [detectCurrent, currentCeiling]

/-- The set-point that a slot's phase and allocation call for: none, or one within its ceiling (R29). -/
theorem ChargeSlot.Right.setPoint_range {cfg : Record} {cable : CableClass} {p : Nat} {c : ChargeSlot}
    (h : c.Right cfg cable p) (served : c.Served cable) (within : cfg.InRange) :
    c.setPoint = 0 ∨ (100 ≤ c.setPoint ∧ 25 ∣ c.setPoint ∧ c.setPoint ≤ currentCeiling cfg c.path cable) := by
  unfold ChargeSlot.Right at h
  split at h
  next => exact .inl h.2
  next detects =>
    obtain ⟨_, ⟨_, _, current, _⟩ | ⟨_, _, none, _⟩⟩ := h
    · have valid : cable.Valid := by simpa [ChargeSlot.Served, detects] using served
      rw [current]
      exact .inr ⟨by decide, by decide, detect_le_ceiling within _ valid⟩
    · exact .inl none
  next ph _ =>
    obtain ⟨_, converted, least⟩ := h
    have range := convert_range cfg cable c p
    rw [← converted] at range
    exact .inr ⟨(hundred_le_phaseMinimum within ph).trans least, range⟩
  next => exact .inl h.2.1
  next => exact .inl h.2
  next => exact .inl h.2

/-- Settles O10: the conversion written out, then the range of the set-point that each phase calls for. -/
theorem setPointsStayInRange : Obligations.SetPointsStayInRange := by
  refine ⟨fun cfg cable c p => ⟨?_, phaseMinimum_eq cfg⟩, fun s t power within h i => ?_⟩
  · rw [convert_eq]
    cases c.path <;> cases cable <;> rfl
  · have right := powerStagesStayRight s t power h i
    have range := right.1.setPoint_range right.2 (recordStaysInRange.2.2 s t within h)
    refine range.imp_right fun ⟨least, steps, most⟩ => ⟨least, steps, most.trans_eq ?_⟩
    cases (t.charge.get i).path <;> cases (t.monitor.get i).cable <;> rfl

end Sys2Proof.Machine
end

section
/-! PROOF. Runs and lanes: what each operation of the Plan Engine and the Lane Switch does to the lane table, the lane wait list,
the run queues and the plan table, and the pieces of work of one event (R107 to R122, R130 to R137). -/

namespace Sys2Proof.Machine

/-! ## The lane of a slot -/

theorem mem_allLanes (l : LaneNo) : l ∈ allLanes := by revert l; decide

theorem laneOf_eq_none_iff {s : State} {i : SlotNo} :
    s.laneOf i = none ↔ ∀ l q, (s.lanes.table.get l).state ≠ .attached i q := by
  unfold State.laneOf
  rw [List.findSome?_eq_none_iff]
  constructor
  · intro h l q attached
    have := h l (mem_allLanes l)
    rw [attached] at this
    simp at this
  · intro h l _
    have hl := h l
    split
    next k q attached =>
      by_cases same : k = i
      · exact absurd (same ▸ attached) (hl q)
      · exact if_neg same
    next => rfl

theorem laneOf_attached {s : State} {i : SlotNo} {l : LaneNo} {q : Bool} (h : s.laneOf i = some (l, q)) :
    (s.lanes.table.get l).state = .attached i q := by
  unfold State.laneOf at h
  obtain ⟨m, _, found⟩ := List.exists_of_findSome?_eq_some h
  split at found
  next k p attached =>
    split at found
    next same =>
      cases found
      rw [attached, same]
    next => cases found
  next => cases found

theorem laneOf_of_states {s t : State} (h : ∀ l, (t.lanes.table.get l).state = (s.lanes.table.get l).state) (i : SlotNo) :
    t.laneOf i = s.laneOf i := by
  simp only [State.laneOf, h]

theorem laneOf_of_lanes {s t : State} (h : t.lanes = s.lanes) (i : SlotNo) : t.laneOf i = s.laneOf i :=
  laneOf_of_states (fun _ => by rw [h]) i

/-! ## Lanes -/

theorem moveLane_lane (l : LaneNo) (x : LaneState) (s : State) (m : LaneNo) : (s.moveLane l x).lanes.table.get m =
    if m = l then (s.lanes.table.get l).move s.clock x else s.lanes.table.get m := get_setAt _ _ _ _

theorem moveLane_state (l : LaneNo) (x : LaneState) (s : State) (m : LaneNo) :
    ((s.moveLane l x).lanes.table.get m).state = if m = l then x else (s.lanes.table.get m).state := by
  rw [moveLane_lane]
  split <;> simp

theorem laneDetached_lanes (i : SlotNo) (s : State) : (s.laneDetached i).lanes = s.lanes :=
  laneDetached_keeps i s .lanes (by decide)
theorem laneAttached_lanes (i : SlotNo) (s : State) : (s.laneAttached i).lanes = s.lanes :=
  laneAttached_keeps i s .lanes (by decide)

theorem detachLane_lanes (l : LaneNo) (i : SlotNo) (s : State) : (s.detachLane l i).lanes =
    (s.moveLane l (.scrubbing (momentAfter s.clock s.cfg.scrubTime))).lanes := laneDetached_lanes _ _

theorem releaseLane_eq (i : SlotNo) (s : State) : s.releaseLane i =
    match s.laneTaken i .release with
    | some l => s.detachLane l i
    | none => s := by
  unfold State.releaseLane State.laneTaken
  cases s.laneOf i with
  | none => rfl
  | some x => obtain ⟨l, q⟩ := x; cases q <;> rfl

theorem forceRelease_eq (i : SlotNo) (s : State) : s.forceRelease i =
    match s.laneTaken i .force with
    | some l => s.detachLane l i
    | none => s := by
  unfold State.forceRelease State.laneTaken
  cases s.laneOf i with
  | none => rfl
  | some x => rfl

theorem laneTaken_keep (i : SlotNo) (s : State) : s.laneTaken i .keep = none := by
  unfold State.laneTaken
  cases s.laneOf i with
  | none => rfl
  | some x => rfl

theorem laneSide_eq (i : SlotNo) (side : LaneSide) (s : State) : s.laneSide i side =
    match s.laneTaken i side with
    | some l => s.detachLane l i
    | none => s := by
  cases side with
  | release => exact releaseLane_eq i s
  | force => exact forceRelease_eq i s
  | keep => rw [laneTaken_keep]; rfl

theorem laneTaken_attached {s : State} {i : SlotNo} {side : LaneSide} {l : LaneNo} (h : s.laneTaken i side = some l) :
    ∃ q, (s.lanes.table.get l).state = .attached i q := by
  unfold State.laneTaken at h
  split at h
  next lane => cases h; exact ⟨_, laneOf_attached lane⟩
  next lane => cases h; exact ⟨_, laneOf_attached lane⟩
  next => cases h

theorem laneTaken_force_none_iff {s : State} {i : SlotNo} : s.laneTaken i .force = none ↔ s.laneOf i = none := by
  unfold State.laneTaken
  cases s.laneOf i with
  | none => simp
  | some x => simp

theorem laneTaken_of_lanes {s t : State} (h : ∀ l, (t.lanes.table.get l).state = (s.lanes.table.get l).state) (i : SlotNo)
    (side : LaneSide) : t.laneTaken i side = s.laneTaken i side := by
  unfold State.laneTaken; rw [laneOf_of_states h]

theorem laneSide_state (i : SlotNo) (side : LaneSide) (s : State) (m : LaneNo) :
    ((s.laneSide i side).lanes.table.get m).state =
      if s.laneTaken i side = some m then .scrubbing (momentAfter s.clock s.cfg.scrubTime)
      else (s.lanes.table.get m).state := by
  rw [laneSide_eq]
  cases taken : s.laneTaken i side with
  | none => simp
  | some l =>
    simp only [detachLane_lanes, moveLane_state, Option.some.injEq, eq_comm]

theorem laneSide_waitList (i : SlotNo) (side : LaneSide) (s : State) :
    (s.laneSide i side).lanes.waitList = s.lanes.waitList := by
  rw [laneSide_eq]
  cases s.laneTaken i side with
  | none => rfl
  | some l => simp only [detachLane_lanes]; rfl

/-! ## Run queues and the plan table -/

theorem setPlan_slot (i : SlotNo) (x : PlanSlot) (s : State) (k : SlotNo) :
    (s.setPlan i x).plans.slots.get k = if k = i then x else s.plans.slots.get k := get_setAt _ _ _ _

theorem setRun_runs (i : SlotNo) (r : Run) (s : State) (k : SlotNo) : ((s.setRun i r).plans.slots.get k).runs =
    if k = i then r :: (s.plans.slots.get i).runs.tail else (s.plans.slots.get k).runs := by
  rw [State.setRun, setPlan_slot]
  split <;> rfl

theorem setRun_headRun (i : SlotNo) (r : Run) (s : State) (k : SlotNo) :
    (s.setRun i r).headRun k = if k = i then some r else s.headRun k := by
  rw [State.headRun, setRun_runs]
  split <;> rfl

theorem settled_runs (s : State) : s.settled.plans.slots = s.plans.slots := (settled_keeps s .runs (by decide)).1
theorem settled_table (s : State) : s.settled.plans.table = s.plans.table := (settled_keeps s .runs (by decide)).2
theorem settled_lanes (s : State) : s.settled.lanes = s.lanes := settled_keeps s .lanes (by decide)

theorem setFloor_lanes (i : SlotNo) (q : Nat) (s : State) : (s.setFloor i q).lanes = s.lanes := settled_lanes _
theorem setFloor_table (i : SlotNo) (q : Nat) (s : State) : (s.setFloor i q).plans.table = s.plans.table := settled_table _
theorem setFloor_slot (i : SlotNo) (q : Nat) (s : State) (k : SlotNo) : (s.setFloor i q).plans.slots.get k =
    if k = i then { s.plans.slots.get i with floor := q } else s.plans.slots.get k := by
  rw [State.setFloor, settled_runs, setPlan_slot]

theorem setFloor_runs (i : SlotNo) (q : Nat) (s : State) (k : SlotNo) :
    ((s.setFloor i q).plans.slots.get k).runs = (s.plans.slots.get k).runs := by
  rw [setFloor_slot]
  split
  next same => rw [same]
  next => rfl

/-- A plan that the table does not hold closes nothing. -/
theorem closeRun_of_absent {id : PlanId} {table : List PlanRecord} (absent : table.find? (fun r => r.id = id) = none) :
    closeRun id table = table := by
  induction table with
  | nil => rfl
  | cons r rs ih =>
    by_cases named : r.id = id
    · simp [named] at absent
    · have later : rs.find? (fun r => r.id = id) = none := by simpa [named] using absent
      rw [closeRun, if_neg named, ih later]

theorem reportRun_closes (i : SlotNo) (r : Run) (o : Answer) (n : Nat) (s : State) :
    (s.reportRun i r o n).plans.table = closeRun r.plan s.plans.table := by
  unfold State.reportRun
  cases found : s.planOf r.plan with
  | none => exact (closeRun_of_absent found).symm
  | some p => rfl

theorem reportRun_lanes (i : SlotNo) (r : Run) (o : Answer) (n : Nat) (s : State) :
    (s.reportRun i r o n).lanes = s.lanes := reportRun_keeps i r o n s .lanes (by decide)

theorem endRun_lanes (i : SlotNo) (o : Answer) (n : Nat) (s : State) : (s.endRun i o n).lanes = s.lanes :=
  endRun_keeps i o n s .lanes (by decide)

theorem endRun_slot_eq (i : SlotNo) (o : Answer) (n : Nat) (s : State) (k : SlotNo) : (s.endRun i o n).plans.slots.get k =
    if k = i then { s.plans.slots.get i with runs := (s.plans.slots.get i).runs.tail } else s.plans.slots.get k := by
  cases head : s.headRun i with
  | some r =>
    by_cases same : k = i
    · rw [if_pos same, same, endRun_slot o n head]
    · rw [if_neg same, endRun_othersSame o n head k same]
  | none =>
    have empty : (s.plans.slots.get i).runs = [] := List.head?_eq_none_iff.mp head
    have ended : s.endRun i o n = s := by unfold State.endRun; rw [empty]
    have tail : (s.plans.slots.get i).runs.tail = (s.plans.slots.get i).runs := by rw [empty]; rfl
    rw [ended, tail]
    split
    next same => rw [same]
    next => rfl

theorem endRun_closes {i : SlotNo} {s : State} {r : Run} (o : Answer) (n : Nat) (head : s.headRun i = some r) :
    (s.endRun i o n).plans.table = closeRun r.plan s.plans.table := by
  rw [endRun_of_head o n head]
  exact reportRun_closes i r o n s

/-! ## The end of a head run (R110, R121 to R125) -/

section
variable {i : SlotNo} {s : State}

theorem finishHead_of_none (o : Answer) (side : LaneSide) (head : s.headRun i = none) : s.finishHead i o side = s := by
  rw [State.finishHead, head]

theorem finishHead_of_head {r : Run} (o : Answer) (side : LaneSide) (head : s.headRun i = some r) : s.finishHead i o side =
    (((s.setFloor i 0).leaveWaitList i).laneSide i side).endRun i o r.step := by
  rw [State.finishHead, head]

/-- Before the end of the run itself, its queue stands as it did. -/
theorem sided_slots (side : LaneSide) (k : SlotNo) :
    (((s.setFloor i 0).leaveWaitList i).laneSide i side).plans.slots.get k = (s.setFloor i 0).plans.slots.get k := by
  rw [(laneSide_keeps i side _ .runs (by decide)).1]
  rfl

theorem sided_headRun (side : LaneSide) (k : SlotNo) :
    (((s.setFloor i 0).leaveWaitList i).laneSide i side).headRun k = s.headRun k := by
  rw [State.headRun, sided_slots, setFloor_runs]
  rfl

theorem sided_table (side : LaneSide) :
    (((s.setFloor i 0).leaveWaitList i).laneSide i side).plans.table = s.plans.table :=
  (laneSide_keeps i side _ .runs (by decide)).2.trans (setFloor_table i 0 s)

theorem finishHead_slot {r : Run} (o : Answer) (side : LaneSide) (head : s.headRun i = some r) (k : SlotNo) :
    (s.finishHead i o side).plans.slots.get k =
      if k = i then { s.plans.slots.get i with runs := (s.plans.slots.get i).runs.tail, floor := 0 }
      else s.plans.slots.get k := by
  rw [finishHead_of_head o side head, endRun_slot_eq, sided_slots, sided_slots, setFloor_slot, setFloor_slot, if_pos rfl]
  split <;> rfl

theorem finishHead_runs (o : Answer) (side : LaneSide) (k : SlotNo) : ((s.finishHead i o side).plans.slots.get k).runs =
    if k = i then (s.plans.slots.get i).runs.tail else (s.plans.slots.get k).runs := by
  cases head : s.headRun i with
  | some r => rw [finishHead_slot o side head]; split <;> rfl
  | none =>
    have empty : (s.plans.slots.get i).runs = [] := List.head?_eq_none_iff.mp head
    rw [finishHead_of_none o side head]
    split
    next same => rw [same, empty]; rfl
    next => rfl

theorem finishHead_table {r : Run} (o : Answer) (side : LaneSide) (head : s.headRun i = some r) :
    (s.finishHead i o side).plans.table = closeRun r.plan s.plans.table := by
  rw [finishHead_of_head o side head, endRun_closes (r := r) o r.step, sided_table]
  rw [sided_headRun]
  exact head

theorem finishHead_waitList {r : Run} (o : Answer) (side : LaneSide) (head : s.headRun i = some r) :
    (s.finishHead i o side).lanes.waitList = s.lanes.waitList.filter (fun w => w.1 ≠ i) := by
  rw [finishHead_of_head o side head, endRun_lanes, laneSide_waitList]
  exact congrArg (fun x : Lanes => x.waitList.filter (fun w => w.1 ≠ i)) (setFloor_lanes i 0 s)

theorem unfloored_states (m : LaneNo) :
    (((s.setFloor i 0).leaveWaitList i).lanes.table.get m).state = (s.lanes.table.get m).state := by
  show ((s.setFloor i 0).lanes.table.get m).state = _
  rw [setFloor_lanes]

theorem finishHead_state {r : Run} (o : Answer) (side : LaneSide) (head : s.headRun i = some r) (m : LaneNo) :
    ((s.finishHead i o side).lanes.table.get m).state =
      if s.laneTaken i side = some m then .scrubbing (momentAfter s.clock s.cfg.scrubTime)
      else (s.lanes.table.get m).state := by
  have keeps : Keeps [.runs, .lanes, .charge, .share, .queue] s ((s.setFloor i 0).leaveWaitList i) :=
    ((setFloor_keeps i 0 s).mono (by decide)).trans ((leaveWaitList_keeps i _).mono (by decide))
  have clock : ((s.setFloor i 0).leaveWaitList i).clock = s.clock := keeps .clock (by decide)
  have cfg : ((s.setFloor i 0).leaveWaitList i).cfg = s.cfg := keeps .cfg (by decide)
  rw [finishHead_of_head o side head, endRun_lanes, laneSide_state, laneTaken_of_lanes unfloored_states, unfloored_states,
    clock, cfg]

end

/-! ## Waking and idle timers -/

/-- The states that waking and idle timers may give to a lane: a DORMANT lane wakes, a READY one starts its timer. -/
def LaneState.Rests : LaneState → LaneState → Prop
  | .dormant, y => y = .dormant ∨ y.isWaking = true
  | .ready _, y => y.isReady = true
  | x, y => y = x

theorem LaneState.Rests.refl (x : LaneState) : x.Rests x := by cases x <;> simp [LaneState.Rests, LaneState.isReady]

theorem LaneState.Rests.trans {x y z : LaneState} (h : x.Rests y) (k : y.Rests z) : x.Rests z := by
  cases x <;> cases y <;> simp_all [LaneState.Rests, LaneState.isReady, LaneState.isWaking]

theorem LaneState.Rests.attached {x : LaneState} {i : SlotNo} {q : Bool} (h : x.Rests (.attached i q)) :
    x = .attached i q := by
  cases x <;> simp_all [LaneState.Rests, LaneState.isReady, LaneState.isWaking]

theorem LaneState.Rests.isReady_eq {x y : LaneState} (h : x.Rests y) : y.isReady = x.isReady := by
  cases x <;> cases y <;> simp_all [LaneState.Rests, LaneState.isReady, LaneState.isWaking]

/-- Lanes wake and idle timers start, and nothing else of the lanes moves. -/
def LanesRest (s t : State) : Prop :=
  t.lanes.waitList = s.lanes.waitList ∧ ∀ l, (s.lanes.table.get l).state.Rests (t.lanes.table.get l).state

theorem LanesRest.refl (s : State) : LanesRest s s := ⟨rfl, fun _ => LaneState.Rests.refl _⟩

theorem LanesRest.trans {s t u : State} (h : LanesRest s t) (k : LanesRest t u) : LanesRest s u :=
  ⟨k.1.trans h.1, fun l => (h.2 l).trans (k.2 l)⟩

theorem moveLane_rests {l : LaneNo} {x : LaneState} {s : State} (h : (s.lanes.table.get l).state.Rests x) :
    LanesRest s (s.moveLane l x) := by
  refine ⟨rfl, fun m => ?_⟩
  rw [moveLane_state]
  split
  next same => rw [same]; exact h
  next => exact LaneState.Rests.refl _

theorem firstLane_state {s : State} {f : LaneState → Bool} {l : LaneNo} (h : s.firstLane f = some l) :
    s.configured l = true ∧ f (s.lanes.table.get l).state = true := by
  have found := List.find?_some h
  rwa [Bool.and_eq_true] at found

theorem firstLane_none {s : State} {f : LaneState → Bool} (h : s.firstLane f = none) (l : LaneNo)
    (configured : s.configured l = true) : f (s.lanes.table.get l).state = false := by
  have missing := List.find?_eq_none.mp h l (mem_allLanes l)
  simpa [configured] using missing

theorem wakeOne_rests (s : State) : LanesRest s s.wakeOne := by
  unfold State.wakeOne
  split
  next =>
    split
    next l first =>
      have dormant := (firstLane_state first).2
      refine moveLane_rests ?_
      cases state : (s.lanes.table.get l).state <;> simp_all [LaneState.isDormant, LaneState.Rests, LaneState.isWaking]
    next => exact LanesRest.refl s
  next => exact LanesRest.refl s

theorem wakeLanes_rests (s : State) : LanesRest s s.wakeLanes :=
  (((wakeOne_rests s).trans (wakeOne_rests _)).trans (wakeOne_rests _)).trans (wakeOne_rests _)

theorem startIdle_rests (s : State) : LanesRest s s.startIdle := by
  have fold : ∀ (ls : List LaneNo) (u : State), LanesRest u (ls.foldl (fun t l =>
      match (t.lanes.table.get l).state with
      | .ready none => t.moveLane l (.ready (some (momentAfter t.clock (t.cfg.laneIdle * 1000))))
      | _ => t) u) := by
    intro ls
    induction ls with
    | nil => exact LanesRest.refl
    | cons l ls ih =>
      intro u
      refine LanesRest.trans ?_ (ih _)
      dsimp only
      split
      next ready => exact moveLane_rests (by rw [ready]; rfl)
      next => exact LanesRest.refl u
  unfold State.startIdle
  split
  · exact fold allLanes s
  · exact LanesRest.refl s

/-! ## The pieces of work of one event (R107) -/

/-- A waiting slot's lane is attached, and the Charge Controller takes it (R134). -/
def State.grantLane (s : State) (l : LaneNo) (i : SlotNo) (pinned : Bool) (rest : List (SlotNo × Bool)) : State :=
  (({ s with lanes := { s.lanes with waitList := rest } } : State).moveLane l (.attached i pinned)).laneAttached i

/-- The head run of a slot asks for a lane (R114). -/
def State.askLane (s : State) (i : SlotNo) (r : Run) (pinned : Bool) : State :=
  let t := s.setRun i { r with state := .laneWait }
  { t with lanes := { t.lanes with waitList := t.lanes.waitList ++ [(i, pinned)] } }

/-- The states in which a run of a slot stands for a time, on a lane or off it (R116 to R118). -/
def RunState.Stands : RunState → Prop
  | .queued => False
  | .laneWait => False
  | _ => True

/-- What one piece of work can do, and the work that it makes. -/
inductive Piece (s : State) : Work → State → List Work → Prop
  | none (w : Work) (idle : w ≠ .grant) : Piece s w s []
  | fail (i : SlotNo) (r : Run) (o : Answer) (head : s.headRun i = some r) (queued : r.state = .queued) :
      Piece s (.start i) (s.endRun i o 0) [.start i]
  | enter (i : SlotNo) (r : Run) (p : PlanRecord) (head : s.headRun i = some r) (found : s.planOf r.plan = some p)
      (queued : r.state = .queued) (present : s.isPresent i = true) (locked : (s.latch.get i).state = .locked) :
      Piece s (.start i) (s.setPlan i ((s.plans.slots.get i).begin_ p.id p.phase)) [.perform i]
  | skip (i : SlotNo) (r : Run) (head : s.headRun i = some r) : Piece s (.perform i) s [.advance i]
  | useLane (i : SlotNo) (r : Run) (head : s.headRun i = some r) :
      Piece s (.perform i) (s.setRun i { r with usingLane := true }) [.advance i]
  | noLanes (i : SlotNo) (r : Run) (head : s.headRun i = some r) (none : s.cfg.laneCount = 0) :
      Piece s (.perform i) (s.finishHead i .noLanes .keep) [.start i]
  | ask (i : SlotNo) (r : Run) (pinned : Bool) (head : s.headRun i = some r) (free : s.laneOf i = none) :
      Piece s (.perform i) (s.askLane i r pinned) [.grant]
  | floor (i : SlotNo) (r : Run) (q : Nat) (head : s.headRun i = some r) :
      Piece s (.perform i) (s.setFloor i q) [.advance i]
  | stand (i : SlotNo) (r : Run) (x : RunState) (head : s.headRun i = some r) (stands : x.Stands) :
      Piece s (.perform i) (s.setRun i { r with state := x }) []
  | detach (i : SlotNo) (r : Run) (head : s.headRun i = some r) :
      Piece s (.perform i) ((s.releaseLane i).setRun i { r with usingLane := false }) [.advance i]
  | mark (i : SlotNo) (r : Run) (p : PlanRecord) (head : s.headRun i = some r) (found : s.planOf r.plan = some p) :
      Piece s (.perform i) (s.setPlan i { s.plans.slots.get i with buildTag := some p.tag, progress := Option.none })
        [.advance i]
  | next (i : SlotNo) (r : Run) (p : PlanRecord) (head : s.headRun i = some r) (found : s.planOf r.plan = some p)
      (more : r.step < p.steps.length) : Piece s (.advance i) (s.setRun i { r with step := r.step + 1 }) [.perform i]
  | done (i : SlotNo) (r : Run) (head : s.headRun i = some r) :
      Piece s (.advance i) (s.finishHead i .done .release) [.start i]
  | granted (i : SlotNo) (pinned : Bool) (rest : List (SlotNo × Bool)) (l : LaneNo) (r : Run) (u : Nat) (more : List Work)
      (waits : s.lanes.waitList = (i, pinned) :: rest) (ready : s.firstLane LaneState.isReady = some l)
      (head : s.headRun i = some r) (asked : r.state = .laneWait) (goes : more = [] ∨ more = [.advance i]) :
      Piece s .grant ((s.grantLane l i pinned rest).setRun i { r with usingLane := true, state := .enumWait u })
        (more ++ [.grant])
  | unasked (i : SlotNo) (pinned : Bool) (rest : List (SlotNo × Bool)) (l : LaneNo)
      (waits : s.lanes.waitList = (i, pinned) :: rest) (ready : s.firstLane LaneState.isReady = some l)
      (unasked : s.headState i ≠ some .laneWait) : Piece s .grant (s.grantLane l i pinned rest) [.grant]
  | rest (idle : s.lanes.waitList = [] ∨ s.firstLane LaneState.isReady = Option.none) :
      Piece s .grant s.wakeLanes.startIdle []

theorem waitState_stands (s : State) (i : SlotNo) (b : Bool) (held : HeldWait) : (s.waitState i b held).Stands := by
  unfold State.waitState
  split
  · trivial
  · cases held <;> trivial

theorem startCheck_passed {s : State} {i : SlotNo} {phase : PlanPhase} (h : s.startCheck i phase = none) :
    s.isPresent i = true ∧ (s.latch.get i).state = .locked := by
  unfold State.startCheck at h
  split at h
  next => cases h
  next present =>
    split at h
    next => cases h
    next locked => exact ⟨by simpa using present, by simpa using locked⟩

theorem startRun_piece (i : SlotNo) (s : State) : Piece s (.start i) (s.startRun i).1 (s.startRun i).2 := by
  unfold State.startRun
  cases head : s.headRun i with
  | none => exact .none _ nofun
  | some r =>
    dsimp only
    cases found : s.planOf r.plan with
    | none => exact .none _ nofun
    | some p =>
      dsimp only
      split
      next => exact .none _ nofun
      next queued =>
        have queued : r.state = .queued := not_not.mp queued
        cases check : s.startCheck i p.phase with
        | some o => exact .fail i r o head queued
        | none =>
          obtain ⟨present, locked⟩ := startCheck_passed check
          exact .enter i r p head found queued present locked

theorem attachStep_piece {i : SlotNo} {r : Run} (p : PlanRecord) {s : State} (head : s.headRun i = some r) :
    Piece s (.perform i) (s.attachStep i r p).1 (s.attachStep i r p).2 := by
  unfold State.attachStep
  split
  next => exact .useLane i r head
  next free =>
    split
    next none => exact .noLanes i r head none
    next => exact .ask i r p.pinned head (by simpa using free)

theorem performStep_piece (i : SlotNo) (s : State) : Piece s (.perform i) (s.performStep i).1 (s.performStep i).2 := by
  unfold State.performStep
  cases head : s.headRun i with
  | none => exact .none _ nofun
  | some r =>
    dsimp only
    cases found : s.planOf r.plan with
    | none => exact .none _ nofun
    | some p =>
      dsimp only
      cases p.steps[r.step - 1]? with
      | none => exact .none _ nofun
      | some st =>
        dsimp only
        cases st.kind with
        | nothing => exact .skip i r head
        | attach => exact attachStep_piece p head
        | floor => exact .floor i r _ head
        | await => exact .stand i r _ head (waitState_stands _ _ _ _)
        | settle =>
          dsimp only
          split
          · exact .skip i r head
          · exact .stand i r _ head (waitState_stands _ _ _ _)
        | detach => exact .detach i r head
        | mark => exact .mark i r p head found

theorem advanceRun_piece (i : SlotNo) (s : State) : Piece s (.advance i) (s.advanceRun i).1 (s.advanceRun i).2 := by
  unfold State.advanceRun
  cases head : s.headRun i with
  | none => exact .none _ nofun
  | some r =>
    dsimp only
    cases found : s.planOf r.plan with
    | none => exact .none _ nofun
    | some p =>
      dsimp only
      split
      next more => exact .next i r p head found more
      next => exact .done i r head

theorem grantLane_keeps (s : State) (l : LaneNo) (i : SlotNo) (pinned : Bool) (rest : List (SlotNo × Bool)) :
    Keeps (.lanes :: powerParts) s (s.grantLane l i pinned rest) := by
  have list : Keeps [.lanes] s { s with lanes := { s.lanes with waitList := rest } } := by
    intro p hp; cases p <;> simp_all [same]
  exact ((list.trans (moveLane_keeps l _ _)).mono (by decide)).trans ((laneAttached_keeps i _).mono (by decide))

theorem grantLane_headRun (s : State) (l : LaneNo) (i : SlotNo) (pinned : Bool) (rest : List (SlotNo × Bool)) (k : SlotNo) :
    (s.grantLane l i pinned rest).headRun k = s.headRun k := by
  unfold State.headRun
  rw [(grantLane_keeps s l i pinned rest .runs (by decide)).1]

theorem grantLane_lanes (s : State) (l : LaneNo) (i : SlotNo) (pinned : Bool) (rest : List (SlotNo × Bool)) :
    (s.grantLane l i pinned rest).lanes =
      (({ s with lanes := { s.lanes with waitList := rest } } : State).moveLane l (.attached i pinned)).lanes :=
  laneAttached_lanes _ _

theorem grantStep_piece (s : State) : Piece s .grant s.grantStep.1 s.grantStep.2 := by
  unfold State.grantStep
  split
  next i pinned rest l waits ready =>
    dsimp only
    show Piece s .grant ((s.grantLane l i pinned rest).takeGrant i).1 (((s.grantLane l i pinned rest).takeGrant i).2 ++ [.grant])
    have heads := grantLane_headRun s l i pinned rest i
    unfold State.takeGrant
    rw [heads]
    cases head : s.headRun i with
    | none => exact .unasked i pinned rest l waits ready (by simp [State.headState, head])
    | some r =>
      dsimp only
      split
      next asked =>
        refine .granted i pinned rest l r _ _ waits ready head asked ?_
        split
        · exact .inr rfl
        · exact .inl rfl
      next other => exact .unasked i pinned rest l waits ready (by simpa [State.headState, head] using other)
  next unmatched =>
    refine .rest ?_
    cases waits : s.lanes.waitList with
    | nil => exact .inl rfl
    | cons w rest =>
      obtain ⟨i, pinned⟩ := w
      cases ready : s.firstLane LaneState.isReady with
      | none => exact .inr rfl
      | some l => exact absurd ready (unmatched i pinned rest l waits)

theorem workStep_piece (w : Work) (s : State) : Piece s w (s.workStep w).1 (s.workStep w).2 := by
  cases w with
  | start i => exact startRun_piece i s
  | perform i => exact performStep_piece i s
  | advance i => exact advanceRun_piece i s
  | grant => exact grantStep_piece s

/-- A condition on a state and the work still to do that every piece of work keeps. -/
def WorkKeeps (P : State → List Work → Prop) : Prop :=
  ∀ (s t : State) (w : Work) (more ws : List Work), Piece s w t more → P s (w :: ws) → P t (more ++ ws)

theorem WorkKeeps.runWork {P : State → List Work → Prop} (rule : WorkKeeps P) :
    ∀ (n : Nat) (ws : List Work) (s : State), P s ws → ∃ left, P (runWork n ws s) left
  | 0, ws, _, h => ⟨ws, h⟩
  | _ + 1, [], _, h => ⟨[], h⟩
  | n + 1, w :: ws, s, h => rule.runWork n _ _ (rule s _ w _ ws (workStep_piece w s) h)

theorem WorkKeeps.work {P : State → List Work → Prop} (rule : WorkKeeps P) {ws : List Work} {s : State} (h : P s ws) :
    ∃ left, P (s.work ws) left := rule.runWork workRounds ws s h

/-- A condition on the state alone that every piece of work keeps. -/
theorem work_of_piece {P : State → Prop} (rule : ∀ s t w more, Piece s w t more → P s → P t) (ws : List Work) {s : State}
    (h : P s) : P (s.work ws) := by
  have keeps : WorkKeeps fun u _ => P u := fun u t w more _ piece before => rule u t w more piece before
  obtain ⟨_, after⟩ := keeps.work (ws := ws) h
  exact after

end Sys2Proof.Machine
end

section
/-! PROOF. Events that leave runs and lanes alone: a served slot stays PRESENT and LOCKED on its path (R20, R68, R111, R130). -/

namespace Sys2Proof.Machine

/-! ## What a served slot keeps -/

/-- A slot with a lane, or with a head run that has left QUEUED. -/
def State.Engaged (s : State) (k : SlotNo) : Prop :=
  (∃ l q, (s.lanes.table.get l).state = .attached k q) ∨ ∃ x, s.headState k = some x ∧ x ≠ .queued

def State.Locked (s : State) (k : SlotNo) : Prop := (s.latch.get k).state = .locked

/-- A charge record on the lane's path, at 5 V where it charges at all. -/
def ChargeSlot.OnLane (c : ChargeSlot) : Prop := c.path = .lane ∧ (c.phase ≠ .off → c.working = .five)

/-- Runs and lanes stand; a tablet that is PRESENT stays, an engaged slot stays LOCKED, and a slot on a lane's path stays so. -/
structure Calm (s t : State) : Prop where
  lanes : t.lanes = s.lanes
  runs : ∀ k, (t.plans.slots.get k).runs = (s.plans.slots.get k).runs
  table : t.plans.table = s.plans.table
  cfg : t.cfg = s.cfg
  present : ∀ k, s.isPresent k = true → t.isPresent k = true
  locked : ∀ k, s.Engaged k → s.Locked k → t.Locked k
  onLane : ∀ k, s.isPresent k = true → (s.charge.get k).OnLane → (t.charge.get k).OnLane

theorem headState_of_runs {s t : State} {k : SlotNo} (h : (t.plans.slots.get k).runs = (s.plans.slots.get k).runs) :
    t.headState k = s.headState k := by
  rw [State.headState, State.headRun, h]; rfl

theorem Calm.headState {s t : State} (h : Calm s t) (k : SlotNo) : t.headState k = s.headState k :=
  headState_of_runs (h.runs k)

theorem Calm.engaged {s t : State} (h : Calm s t) {k : SlotNo} (e : s.Engaged k) : t.Engaged k := by
  unfold State.Engaged
  rw [h.lanes, h.headState]
  exact e

theorem Calm.refl (s : State) : Calm s s :=
  ⟨rfl, fun _ => rfl, rfl, rfl, fun _ h => h, fun _ _ h => h, fun _ _ h => h⟩

theorem Calm.trans {s t u : State} (h : Calm s t) (k : Calm t u) : Calm s u where
  lanes := k.lanes.trans h.lanes
  runs i := (k.runs i).trans (h.runs i)
  table := k.table.trans h.table
  cfg := k.cfg.trans h.cfg
  present i p := k.present i (h.present i p)
  locked i e l := k.locked i (h.engaged e) (h.locked i e l)
  onLane i p o := k.onLane i (h.present i p) (h.onLane i p o)

theorem Calm.ite {s t u : State} {c : Prop} [Decidable c] (h : Calm s t) (k : Calm s u) : Calm s (if c then t else u) := by
  split <;> assumption

theorem calm_foldl {α : Type} (f : State → α → State) (h : ∀ s a, Calm s (f s a)) :
    ∀ (l : List α) (s : State), Calm s (l.foldl f s)
  | [], s => Calm.refl s
  | a :: l, s => (h s a).trans (calm_foldl f h l (f s a))

/-! ## Power -/

theorem follows_off {p q : Phase} (h : p.Follows q) (off : p = .off) : q = .off := by subst off; exact h

theorem ChargeSlot.Follows.onLane {c d : ChargeSlot} (h : c.Follows d) (o : c.OnLane) : d.OnLane := by
  refine ⟨h.path.trans o.1, fun charges => h.working.trans (o.2 fun off => charges (follows_off h.phase off))⟩

/-- The parts that a calm event moves in no way or under a condition of its own. -/
def calmParts : List Part := [.lanes, .runs, .cfg, .monitor, .latch, .charge]

section
variable {ps : List Part} {s t : State}

theorem calm_of_parts (h : Keeps ps s t) (n : ∀ p ∈ [Part.lanes, .runs, .cfg], p ∉ ps)
    (present : ∀ k, s.isPresent k = true → t.isPresent k = true) (locked : ∀ k, s.Engaged k → s.Locked k → t.Locked k)
    (onLane : ∀ k, s.isPresent k = true → (s.charge.get k).OnLane → (t.charge.get k).OnLane) : Calm s t where
  lanes := h .lanes (n _ (by simp))
  runs k := by rw [(h .runs (n _ (by simp))).1]
  table := (h .runs (n _ (by simp))).2
  cfg := h .cfg (n _ (by simp))
  present := present
  locked := locked
  onLane := onLane

theorem isPresent_of_monitor (h : t.monitor = s.monitor) (k : SlotNo) : t.isPresent k = s.isPresent k := by
  rw [State.isPresent, h]; rfl

/-- A change of power alone, where every charge record follows its allocation. -/
theorem calm_of_follow (h : Keeps ps s t) (n : ∀ p ∈ [Part.lanes, .runs, .cfg, .monitor, .latch], p ∉ ps)
    (f : AllFollow s t) : Calm s t :=
  calm_of_parts h (fun p m => n p (by revert m; simp; tauto))
    (fun k p => (isPresent_of_monitor (h .monitor (n _ (by simp))) k).trans p)
    (fun k _ l => by have latch : t.latch = s.latch := h .latch (n _ (by simp)); rw [State.Locked, latch]; exact l)
    (fun k _ o => (f k).onLane o)

theorem calm_of_keeps (h : Keeps ps s t) (n : ∀ p ∈ calmParts, p ∉ ps) : Calm s t :=
  calm_of_follow h (fun p m => n p (by revert m; simp [calmParts]; tauto)) (AllFollow.of_keeps h (n _ (by simp [calmParts])))

/-- A change of the latches alone, in which no LOCKED slot unlocks. -/
theorem calm_of_latch (h : Keeps ps s t) (n : ∀ p ∈ [Part.lanes, .runs, .cfg, .monitor, .charge], p ∉ ps)
    (locked : ∀ k, s.Locked k → t.Locked k) : Calm s t :=
  calm_of_parts h (fun p m => n p (by revert m; simp; tauto))
    (fun k p => (isPresent_of_monitor (h .monitor (n _ (by simp))) k).trans p) (fun k _ l => locked k l)
    (fun k _ o => by have charge : t.charge = s.charge := h .charge (n _ (by simp)); rw [charge]; exact o)

end

theorem settled_calm (s : State) : Calm s s.settled := calm_of_follow (settled_keeps s) (by decide) (settled_follows s)

theorem compute_calm (r : Bool) (s : State) : Calm s (s.compute r) :=
  calm_of_follow (compute_keeps r s) (by decide) (compute_follows r s)

theorem handNeed_calm (s : State) : Calm s s.handNeed := calm_of_follow (handNeed_keeps s) (by decide) fun k => by
  rw [handNeed_charge]; exact ChargeSlot.Follows.refl _

theorem notice_calm (k : NoticeKind) (i : Option SlotNo) (d : Nat) (s : State) : Calm s (s.notice k i d) :=
  calm_of_keeps (notice_keeps k i d s) (by decide)

/-- An event on one charge record whose change keeps a slot of a PRESENT tablet on its lane's path. -/
theorem chargeEvent_calm (i : SlotNo) (f : ChargeSlot → ChargeSlot) (s : State)
    (h : s.isPresent i = true → (s.charge.get i).OnLane → (f (s.charge.get i)).OnLane) : Calm s (s.chargeEvent i f) := by
  obtain ⟨own, others⟩ := chargeEvent_follows i f s
  have keeps := chargeEvent_keeps i f s
  refine calm_of_parts keeps (by decide) (fun k p => (isPresent_of_monitor (keeps .monitor (by decide)) k).trans p)
    (fun k _ l => ?_) (fun k p o => ?_)
  · have latch : (s.chargeEvent i f).latch = s.latch := keeps .latch (by decide)
    rw [State.Locked, latch]; exact l
  · by_cases same : k = i
    · subst same; exact own.onLane (h p o)
    · exact (others k same).onLane o

theorem reach_calm (u : Nat) (s : State) : Calm s (s.reach u) := calm_of_keeps (reach_keeps u s) (by decide)

/-! ## The moves of a charge record -/

section
variable {c : ChargeSlot} (o : c.OnLane)
include o

theorem OnLane.enterDetect (now p : Nat) : (c.enterDetect now p).OnLane := by
  unfold ChargeSlot.enterDetect
  dsimp only
  split <;> exact ⟨o.1, fun _ => rfl⟩

theorem OnLane.enter (cfg : Record) (m : MonitorSlot) (p : Nat) (dest : ChargePhase) (charges : c.phase ≠ .off) :
    (c.enter cfg m p dest).OnLane := by
  unfold ChargeSlot.enter
  split <;> exact ⟨o.1, fun _ => o.2 charges⟩

theorem OnLane.enterFaulted (now : Nat) (m : MonitorSlot) (k : FaultKind) (charges : c.phase ≠ .off) :
    (c.enterFaulted now m k).OnLane := ⟨o.1, fun _ => o.2 charges⟩

theorem OnLane.publish (cfg : Record) (now amps : Nat) : (c.publish cfg now amps).OnLane := ⟨o.1, o.2⟩

theorem OnLane.readyByCharge (cfg : Record) (q : Nat) : (readyByCharge cfg q c).OnLane := ⟨o.1, o.2⟩

end

theorem onLane_lane (cfg : Record) (now : Nat) (m : MonitorSlot) (c : ChargeSlot) :
    (c.onLane cfg now m .lane .five).OnLane := by
  unfold ChargeSlot.onLane
  split
  next off => exact ⟨rfl, fun charges => absurd off charges⟩
  all_goals exact ⟨rfl, fun _ => rfl⟩

/-! ## Slot Monitor and Charge Controller -/

theorem setMonitor_calm (i : SlotNo) (m : MonitorSlot) (s : State)
    (h : (s.monitor.get i).presence.isPresent = true → m.presence.isPresent = true) : Calm s (s.setMonitor i m) := by
  refine calm_of_parts (setMonitor_keeps i m s) (by decide) (fun k p => ?_) (fun k _ l => l) (fun k _ o => o)
  unfold State.isPresent at p ⊢
  rw [setMonitor_monitor, get_setAt]
  split
  next same => subst same; exact h p
  next => exact p

/-- A latch record that changes while its slot is not LOCKED, or into LOCKED. -/
theorem setLatch_locked {i : SlotNo} {l : LatchSlot} {s : State} (h : l.state = .locked ∨ ¬ s.Locked i) (k : SlotNo)
    (before : s.Locked k) : (s.setLatch i l).Locked k := by
  unfold State.Locked at before ⊢
  rw [setLatch_latch, get_setAt]
  split
  next same =>
    subst same
    rcases h with h | h
    · exact h
    · exact absurd before h
  next => exact before

theorem setLatch_calm {i : SlotNo} {l : LatchSlot} {s : State} (h : l.state = .locked ∨ ¬ s.Locked i) :
    Calm s (s.setLatch i l) := calm_of_latch (setLatch_keeps i l s) (by decide) (setLatch_locked h)

theorem setLatch_unlocked {i : SlotNo} {l : LatchSlot} {s : State} (h : l.state ≠ .locked) : ¬ (s.setLatch i l).Locked i := by
  unfold State.Locked
  rw [setLatch_latch, get_setAt_same]
  exact h

theorem learnLatch_calm {i : SlotNo} {s : State} (h : ¬ s.Locked i) : Calm s (s.learnLatch i) := by
  have first : Calm s (s.setLatch i { s.latch.get i with attempt := 1 }) := setLatch_calm (.inr h)
  have still : ¬ (s.setLatch i { s.latch.get i with attempt := 1 }).Locked i := setLatch_unlocked h
  unfold State.learnLatch
  dsimp only
  split
  · exact first.trans (setLatch_calm (.inl rfl))
  · exact first.trans (setLatch_calm (.inr still))
  · exact first.trans (setLatch_calm (.inr still))

theorem learnAtStart_calm (i : SlotNo) (s : State) : Calm s (s.learnAtStart i) := by
  unfold State.learnAtStart
  dsimp only
  split
  next learns => exact learnLatch_calm (by rw [State.Locked, learns.1]; exact nofun)
  next => exact Calm.refl s

theorem settleStart_calm (i : SlotNo) (s : State) : Calm s (s.settleStart i) :=
  (setMonitor_calm i { s.monitor.get i with startSettled := true } s fun p => p).trans (learnAtStart_calm i _)

/-- The debounce takes no tablet away (R9). -/
theorem presenceOn_present (cfg : Record) (now : Nat) (first : Bool) (v : Level) {x : Presence} (h : x.isPresent = true) :
    (presenceOn cfg now first v x).1.isPresent = true := by
  cases x with
  | empty => cases h
  | settling => cases h
  | present leaving => cases v <;> cases leaving <;> rfl

theorem changePresent_calm (i : SlotNo) (v : Level) (s : State) : Calm s (s.changePresent i v) := by
  have moved : Calm s (s.setMonitor i { s.monitor.get i with
      presentIn := filteredOf v, presentPin := levelActive v, presentRun := {}
      presence := (presenceOn s.cfg s.clock (decide ((s.monitor.get i).presentIn = .unknown)) v (s.monitor.get i).presence).1 }) :=
    setMonitor_calm i _ s (presenceOn_present _ _ _ _)
  exact Calm.ite (moved.trans (settleStart_calm i _)) moved

theorem changeBolt_calm (i : SlotNo) (v : BoltReading) (s : State) : Calm s (s.changeBolt i v) := by
  have moved : Calm s (s.setMonitor i { s.monitor.get i with
      boltIn := boltSenseOf v, boltPin := boltActive v, boltRun := {} }) := setMonitor_calm i _ s fun p => p
  exact Calm.ite (moved.trans (learnAtStart_calm i _)) moved

theorem tamperReport_calm (i : SlotNo) (c : TamperCause) (f : Bool) (s : State) : Calm s (s.tamperReport i c f) :=
  calm_of_keeps (tamperReport_keeps i c f s) (by decide)

theorem latchInsertion_calm (i : SlotNo) (f : Bool) (s : State) : Calm s (s.latchInsertion i f) := by
  unfold State.latchInsertion
  dsimp only
  split
  · exact tamperReport_calm i _ f s
  · exact tamperReport_calm i _ f s
  next withdraws => exact setLatch_calm (.inr (by rw [State.Locked, withdraws]; exact nofun))
  next opened => exact setLatch_calm (.inr (by rw [State.Locked, opened]; exact nofun))
  · exact Calm.refl s

theorem insert_calm {i : SlotNo} (code : Option Nat) {found : Bool} {u : Nat} {s : State}
    (settling : (s.monitor.get i).presence = .settling u found) : Calm s (s.insert i code found) := by
  unfold State.insert
  dsimp only
  generalize hm : ({ s.monitor.get i with
    codePin := code, cable := cableClassOf code, presence := .present none, q := 0, remainder := 0
    periodEnd := some (momentAfter s.clock integrationMs), periodSum := 0 } : MonitorSlot) = m
  have read : Calm s (s.setMonitor i m) := setMonitor_calm i m s (by rw [settling]; exact nofun)
  have told : Keeps [.monitor, .queue] s ((s.setMonitor i m).notice .inserted (some i) (cableCode (cableClassOf code))) :=
    ((setMonitor_keeps i m s).mono (by decide)).trans ((notice_keeps _ _ _ _).mono (by decide))
  generalize hv : (s.setMonitor i m).notice .inserted (some i) (cableCode (cableClassOf code)) = v at told
  generalize hf : ChargeSlot.insert v.cfg v.clock (v.share.slotAlloc.get i) (cableClassOf code) = f
  have events := (told.mono (qs := .monitor :: powerParts) (by decide)).trans ((chargeEvent_keeps i f v).mono (by decide))
  have started : Calm s (v.chargeEvent i f) := by
    obtain ⟨own, others⟩ := chargeEvent_follows i f v
    have stays := chargeEvent_keeps i f v
    have monitors : (v.chargeEvent i f).monitor = v.monitor := stays .monitor (by decide)
    have chargeSame : v.charge = s.charge := told .charge (by decide)
    refine calm_of_parts events (by decide) (fun k p => ?_) (fun k _ l => ?_) (fun k p o => ?_)
    · rw [isPresent_of_monitor monitors]
      have calm : Calm s v := hv ▸ read.trans (notice_calm _ _ _ _)
      exact calm.present k p
    · have latch : (v.chargeEvent i f).latch = s.latch := events .latch (by decide)
      rw [State.Locked, latch]; exact l
    · by_cases same : k = i
      · subst same
        rw [State.isPresent, settling] at p
        cases p
      · have follows := others k same
        rw [chargeSame] at follows
        exact follows.onLane o
  have noted := started.trans (latchInsertion_calm i found _)
  split
  · exact noted.trans (settleStart_calm i _)
  · exact noted

theorem faultSlot_calm {i : SlotNo} (k : FaultKind) {f : ChargeSlot → ChargeSlot} {s : State}
    (judged : (s.charge.get i).phase.judgesCurrent = true)
    (still : ∀ c, (f c).path = c.path ∧ (f c).phase = c.phase ∧ (f c).working = c.working) : Calm s (s.faultSlot i k f) := by
  have told := notice_keeps .chargeFault (some i) (faultDetail k) s
  have charge : (s.notice .chargeFault (some i) (faultDetail k)).charge = s.charge := told .charge (by decide)
  refine (notice_calm _ _ _ s).trans (chargeEvent_calm i _ _ fun _ o => ?_)
  rw [charge] at o ⊢
  obtain ⟨path, phase, working⟩ := still (s.charge.get i)
  have moved : (f (s.charge.get i)).OnLane := ⟨path.trans o.1, fun charges => working.trans (o.2 (phase ▸ charges))⟩
  exact OnLane.enterFaulted moved _ _ _ (by rw [phase]; exact (judges_ne judged).1)

theorem publish_calm (i : SlotNo) (volts amps : Nat) (s : State) : Calm s (s.publish i volts amps) := by
  unfold State.publish
  dsimp only
  have held : Calm s (s.setMonitor i { s.monitor.get i with
    volts := volts, amps := amps, samples := 0, voltSum := 0, ampSum := 0 }) := setMonitor_calm i _ s fun p => p
  split
  next excess =>
    exact held.trans (faultSlot_calm _ (overVoltage_judges volts _ excess) fun _ => ⟨rfl, rfl, rfl⟩)
  next => exact held.trans (chargeEvent_calm i _ _ fun _ o => OnLane.publish o _ _ _)

theorem integrate_calm (i : SlotNo) (mean u : Nat) (s : State) : Calm s (s.integrate i mean u) :=
  (setMonitor_calm i ((s.monitor.get i).integrate mean u) s fun p => p).trans
    (chargeEvent_calm i _ _ fun _ o => OnLane.readyByCharge o _ _)

theorem enterPhase_calm (i : SlotNo) (dest : ChargePhase) {s : State} (charges : (s.charge.get i).phase ≠ .off) :
    Calm s (s.enterPhase i dest) := chargeEvent_calm i _ s fun _ o => OnLane.enter o _ _ _ _ charges

theorem endDetect_calm {i : SlotNo} {s : State} {u : Option Nat} (detects : (s.charge.get i).phase = .detect u) :
    Calm s (s.endDetect i) := by
  unfold State.endDetect
  split
  next cable =>
    refine chargeEvent_calm i _ s fun _ o => ?_
    exact absurd (cable.2.symm.trans o.1) nofun
  next => exact enterPhase_calm i .bulk (by rw [detects]; exact nofun)

theorem passDue_calm (i : SlotNo) (s : State) : Calm s (s.passDue i) :=
  (calm_of_keeps (setCustody_keeps i _ s) (by decide)).trans (settled_calm _)

/-! ## Share Unit and Claim Unit -/

theorem report_calm (s : State) : Calm s s.report := by
  unfold State.report
  dsimp only
  have timed : Keeps [.standing] s
      { s with share := { s.share with reportAt := momentAfter s.share.reportAt s.cfg.reportPeriod } } := by
    intro p hp; cases p <;> simp_all [same]
  exact (((calm_of_keeps timed (by decide)).trans (calm_of_keeps (countListen_keeps _) (by decide))).trans
    (handNeed_calm _)).trans (compute_calm true _)

theorem spaceNeed_calm (s : State) : Calm s s.spaceNeed := by
  refine Calm.ite (handNeed_calm s) (calm_of_keeps (ps := [.share]) ?_ (by decide))
  intro p hp; cases p <;> simp_all [same]

theorem isolated_calm (s : State) : Calm s (s.enterIsolated.compute false) :=
  (calm_of_keeps (enterIsolated_keeps s) (by decide)).trans (compute_calm false _)

theorem setPeer_calm (a : Station) (p : Option Peer) (s : State) : Calm s ((s.setPeer a p).compute false) :=
  (calm_of_keeps (setPeer_keeps a p s) (by decide)).trans (compute_calm false _)

theorem setCeilings_calm (rs : List CeilingRecord) (s : State) : Calm s ((s.setCeilings rs).compute false) :=
  (calm_of_keeps (setCeilings_keeps rs s) (by decide)).trans (compute_calm false _)

theorem reportReserve_calm (s : State) : Calm s s.reportReserve := by
  refine (calm_of_keeps (ps := [.reserve]) (t := { s with share := { s.share with
    reserve := sumAmounts (liveClaims s.clock s.claims.entries) } }) ?_ (by decide)).trans (compute_calm false _)
  intro p hp; cases p <;> simp_all [same]

theorem enterClaim_calm (e : ClaimEntry) (s : State) : Calm s (s.enterClaim e) := by
  refine (calm_of_keeps (ps := [.claimList]) (t := { s with claims := { s.claims with
    entries := s.claims.entries ++ [{ e with admitted := true }] } }) ?_ (by decide)).trans (reportReserve_calm _)
  intro p hp; cases p <;> simp_all [same]

theorem handClaims_calm (s : State) : Calm s s.handClaims := calm_of_keeps (handClaims_keeps s) (by decide)

theorem addRequest_calm (i : SlotNo) (op : LatchOp) (n : Nat) (s : State) : Calm s (s.addRequest i op n) :=
  calm_of_keeps (addRequest_keeps i op n s) (by decide)

theorem expireClaims_calm (s : State) : Calm s s.expireClaims := by
  unfold State.expireClaims
  dsimp only
  refine Calm.trans (Calm.trans (calm_of_keeps (ps := [.claimList, .requests]) ?_ (by decide)) (reportReserve_calm _))
    (handClaims_calm _)
  intro p hp; cases p <;> simp_all [same]

theorem takeClaim_calm (e : ClaimEntry) (s : State) : Calm s (s.takeClaim e) :=
  Calm.ite (enterClaim_calm e s) (Calm.refl s)

theorem drivePulse_calm (i : SlotNo) (op : LatchOp) (d : Nat) (s : State) : Calm s (s.drivePulse i op d) := by
  unfold State.drivePulse
  dsimp only
  split
  next waits => exact setLatch_calm (.inr (by rw [State.Locked, waits]; exact nofun))
  next waits => exact setLatch_calm (.inr (by rw [State.Locked, waits]; exact nofun))
  next => exact Calm.refl s

theorem ownAdmitted_calm (c : OwnClaim) (e : ClaimEntry) (s : State) : Calm s (s.ownAdmitted c e) := by
  unfold State.ownAdmitted
  dsimp only
  have marked : ∀ own, Calm s (({ s with claims := { s.claims with own := own } } : State).enterClaim e) := fun own =>
    (calm_of_keeps (ps := [.requests]) (by intro p hp; cases p <;> simp_all [same]) (by decide)).trans (enterClaim_calm e _)
  exact Calm.ite (((marked _).trans (calm_of_keeps (setRequests_keeps _ _) (by decide))).trans (drivePulse_calm _ _ _ _))
    (marked _)

theorem completeOwnClaim_calm (tag : Nat) (op : LatchOp) (i : SlotNo) (a d : Nat) (s : State) :
    Calm s (s.completeOwnClaim tag op i a d) := by
  unfold State.completeOwnClaim
  dsimp only
  split
  · exact takeClaim_calm _ s
  · exact Calm.ite (ownAdmitted_calm _ _ s) (calm_of_keeps (ownRefused_keeps _ s) (by decide))

/-! ## Latch Driver -/

theorem jam_calm {i : SlotNo} (op : LatchOp) {s : State} (h : ¬ s.Locked i) : Calm s (s.jam i op) :=
  ((setLatch_calm (.inr h)).trans (notice_calm _ _ _ _)).trans (calm_of_keeps (jamReport_keeps i _) (by decide))

theorem throwWait_calm {i : SlotNo} (n : Nat) {s : State} (h : ¬ s.Locked i) : Calm s (s.throwWait i n) :=
  (setLatch_calm (.inr h)).trans (addRequest_calm _ _ _ _)

theorem withdrawEnded_calm {i : SlotNo} (n : Nat) {s : State} (h : ¬ s.Locked i) : Calm s (s.withdrawEnded i n) := by
  unfold State.withdrawEnded
  split
  · exact setLatch_calm (.inr h)
  · exact Calm.ite ((setLatch_calm (.inr h)).trans (addRequest_calm _ _ _ _)) (jam_calm _ h)
  · exact setLatch_calm (.inr h)

theorem endWithdraw_calm {i : SlotNo} {s : State} (h : ¬ s.Locked i) : Calm s (s.endWithdraw i) := by
  unfold State.endWithdraw
  dsimp only
  have reset : Calm s (s.setLatch i { s.latch.get i with moved := false, learnAtEnd := false }) := setLatch_calm (.inr h)
  have still : ¬ (s.setLatch i { s.latch.get i with moved := false, learnAtEnd := false }).Locked i := setLatch_unlocked h
  have ended := Calm.ite (c := (s.latch.get i).learnAtEnd = true) (learnLatch_calm still)
    (withdrawEnded_calm (s.latch.get i).attempt still)
  exact Calm.ite ((reset.trans ended).trans (tamperReport_calm _ _ _ _)) (reset.trans ended)

theorem endThrow_calm {i : SlotNo} {s : State} (h : ¬ s.Locked i) : Calm s (s.endThrow i) := by
  unfold State.endThrow
  dsimp only
  have reset : Calm s (s.setLatch i { s.latch.get i with moved := false, learnAtEnd := false }) := setLatch_calm (.inr h)
  have still : ¬ (s.setLatch i { s.latch.get i with moved := false, learnAtEnd := false }).Locked i := setLatch_unlocked h
  refine reset.trans (Calm.ite (learnLatch_calm still) ?_)
  split
  · exact setLatch_calm (.inl rfl)
  · exact Calm.ite (throwWait_calm 2 still) (jam_calm _ still)
  · exact setLatch_calm (.inr still)

theorem timeOutRelease_calm (i : SlotNo) (s : State) : Calm s (s.timeOutRelease i) := by
  unfold State.timeOutRelease
  dsimp only
  exact (((setLatch_calm (.inl rfl)).trans (calm_of_keeps (setRequests_keeps _ _) (by decide))).trans
    (notice_calm _ _ _ _)).trans ((calm_of_keeps (disownClaim_keeps _ _) (by decide)).trans (handClaims_calm _))

theorem relearn_calm (i : SlotNo) (s : State) : Calm s (s.relearn i) := by
  unfold State.relearn
  split
  next jammed => exact learnLatch_calm (by rw [State.Locked, jammed]; exact nofun)
  next => exact Calm.refl s

/-- A grant takes a slot out of LOCKED only where provisioning does not hold it (R68, R93). -/
theorem grantRelease_calm {i : SlotNo} {s : State} (free : ¬ s.Engaged i) : Calm s (s.grantRelease i) := by
  have keeps := grantRelease_keeps i s
  refine calm_of_parts keeps (by decide) (fun k p => (isPresent_of_monitor (keeps .monitor (by decide)) k).trans p)
    (fun k e l => ?_) (fun k _ o => ?_)
  · have other : k ≠ i := fun same => free (same ▸ e)
    have latch : (s.grantRelease i).latch = setAt s.latch i
        { s.latch.get i with state := .withdrawWait (momentAfter s.clock claimWaitMs), attempt := 1 } :=
      addRequest_keeps _ _ _ _ .latch (by decide)
    rw [State.Locked, latch, get_setAt_ne _ _ _ _ other]; exact l
  · have charge : (s.grantRelease i).charge = s.charge := keeps .charge (by decide)
    rw [charge]; exact o

/-! ## Frames that reach neither the Custody Unit nor the Plan Engine -/

theorem watch_calm (src : Source) (s : State) : Calm s (s.watch src) := by
  unfold State.watch
  split
  · exact Calm.refl s
  refine Calm.ite (Calm.ite (Calm.refl s) ?_) (calm_of_keeps (watchPeer_keeps s) (by decide))
  exact (((calm_of_keeps (setSilence_keeps _ s) (by decide)).trans (calm_of_keeps (changeShare_keeps _ _) (by decide))).trans
    (calm_of_keeps (withdrawClaims_keeps _) (by decide))).trans (compute_calm false _)

theorem takeCeiling_calm (src : Source) (p : List Byte) (s : State) : Calm s (s.takeCeiling src p) := by
  unfold State.takeCeiling
  split
  · exact setCeilings_calm _ s
  · exact Calm.refl s

theorem takeClass2_calm (src : Source) (p : List Byte) (s : State) : Calm s (s.takeClass2 src p) := by
  unfold State.takeClass2
  split
  · exact Calm.refl s
  refine Calm.ite ?_ (setPeer_calm _ _ s)
  unfold State.takeNeed
  dsimp only
  refine Calm.trans ?_ (compute_calm false _)
  have entered := calm_of_keeps (setPeer_keeps ‹_› (some (s.peerEntry p)) s) (by decide)
  exact Calm.ite (entered.trans (calm_of_keeps (enterJoined_keeps _) (by decide))) entered

end Sys2Proof.Machine
end

section
/-! PROOF. Every act as a chain of moves, each of which either leaves runs and lanes alone or is one event of the Plan Engine or
the Lane Switch with all its work (chapters 6 and 7). -/

namespace Sys2Proof.Machine

/-! ## Moves -/

/-- One move: a calm event, or one event of the Plan Engine or the Lane Switch. -/
inductive Move (s : State) : State → Prop
  | calm {t : State} (h : Calm s t) : Move s t
  | finish (i : SlotNo) (o : Answer) (side : LaneSide) : Move s (s.finishAndStart i o side)
  | force (i : SlotNo) : Move s (s.forceSlot i)
  | forceGrant (i : SlotNo) : Move s ((s.forceSlot i).grantRelease i)
  | starts (ks : List SlotNo) (few : ks.length ≤ 6) : Move s (s.work (ks.map Work.start))
  | unpin (i : SlotNo) : Move s (s.forceRelease i)
  | advance (i : SlotNo) (x : RunState) (head : s.headState i = some x) (stands : x.Stands) : Move s (s.work [.advance i])
  | retime (i : SlotNo) (r : Run) (x : RunState) (head : s.headRun i = some r) (before : r.state.Stands)
      (after : x.Stands) : Move s (s.setRun i { r with state := x })
  | plan (src : Source) (p : List Byte) : Move s (s.takePlan src p)
  | cancelQueued (i : SlotNo) (r x : Run) (rest : List Run) (id : PlanId) (runs : (s.plans.slots.get i).runs = r :: rest)
      (head : r.plan ≠ id) (found : rest.find? (fun y => y.plan = id) = some x) :
      Move s ((s.reportRun i x .cancelled 0).setPlan i
        { s.plans.slots.get i with runs := r :: rest.filter (fun y => y.plan ≠ id) })
  | setLane (l : LaneNo) (y : Lane) (held : ∀ i q, y.state = .attached i q → (s.lanes.table.get l).state = .attached i q)
      (ready : y.state.isReady = true → (s.lanes.table.get l).state.isReady = true) : Move s (s.setLane l y)
  | grants {u : State} (keeps : Keeps [.lanes] s u) (waits : u.lanes.waitList = s.lanes.waitList)
      (held : ∀ l i q, (u.lanes.table.get l).state = .attached i q → (s.lanes.table.get l).state = .attached i q) :
      Move s (u.work [.grant])
  | wake : Move s s.wakeLanes
  | lose (l : LaneNo) (i : SlotNo) (q : Bool) (y : Lane) (attached : (s.lanes.table.get l).state = .attached i q)
      (lost : ∀ k b, y.state ≠ .attached k b) (out : y.state.isReady = false) : Move s ((s.setLane l y).laneDetached i)
  | extract (i : SlotNo) (u : Nat) (leaving : (s.monitor.get i).presence = .present (some u)) : Move s (s.extract i)
  | restart : Move s s.restartStages

/-- A chain of moves. -/
abbrev Moves : State → State → Prop := Relation.ReflTransGen Move

theorem Move.moves {s t : State} (h : Move s t) : Moves s t := Relation.ReflTransGen.single h

theorem Calm.moves {s t : State} (h : Calm s t) : Moves s t := (Move.calm h).moves

theorem moves_foldl {α : Type} (f : State → α → State) (h : ∀ s a, Moves s (f s a)) :
    ∀ (l : List α) (s : State), Moves s (l.foldl f s)
  | [], _ => .refl
  | a :: l, s => (h s a).trans (moves_foldl f h l (f s a))

/-- A condition that every move keeps stands after a chain of them. -/
theorem Moves.keeps {P : State → Prop} (rule : ∀ s t, Move s t → P s → P t) {s t : State} (h : Moves s t)
    (before : P s) : P t := by
  induction h with
  | refl => exact before
  | tail _ move ih => exact rule _ _ move ih

/-! ## Permits -/

theorem busySlot_false {s : State} {i : SlotNo} (h : s.busySlot i = false) : s.headRun i = none ∧ s.laneOf i = none := by
  simpa [State.busySlot] using h

theorem not_engaged_of_free {s : State} {i : SlotNo} (h : s.busySlot i = false) : ¬ s.Engaged i := by
  obtain ⟨head, lane⟩ := busySlot_false h
  rintro (⟨l, q, attached⟩ | ⟨x, run, _⟩)
  · exact laneOf_eq_none_iff.mp lane l q attached
  · rw [State.headState, head] at run
    cases run

theorem finishOpen_eq (kind : PermitKind) (level : Nat) (i : SlotNo) (s : State) :
    (s.finishOpen kind level i).1 = s ∨ (s.finishOpen kind level i).1 = s.grantRelease i := by
  unfold State.finishOpen
  split
  · exact .inl rfl
  · exact .inr rfl

theorem judgeOpen_moves (kind : PermitKind) (level : Nat) (f : Bool) (i : SlotNo) (s : State) :
    Moves s (s.judgeOpen kind level f i).1 := by
  unfold State.judgeOpen
  split
  · exact .refl
  split
  next =>
    split
    next =>
      rcases finishOpen_eq kind level i (s.forceSlot i) with same | granted
      · rw [same]; exact (Move.force i).moves
      · rw [granted]; exact (Move.forceGrant i).moves
    next => exact .refl
  next free =>
    rcases finishOpen_eq kind level i s with same | granted
    · rw [same]
    · rw [granted]; exact (grantRelease_calm (not_engaged_of_free (by simpa using free))).moves

theorem judgeDue_calm (n : Nat) (i : SlotNo) (s : State) : Calm s (s.judgeDue n i).1 :=
  (calm_of_keeps (setCustody_keeps i _ s) (by decide)).trans (settled_calm _)

theorem judgeLift_calm (n : Nat) (i : SlotNo) (s : State) : Calm s (s.judgeLift n i).1 := by
  have lifted : ∀ h, Calm s (s.setHold i h) := fun h => calm_of_keeps (setHold_keeps i h s) (by decide)
  unfold State.judgeLift
  split
  · exact Calm.refl s
  split
  · exact Calm.refl s
  split
  · exact (lifted none).trans (relearn_calm i _)
  · exact lifted none

theorem judgeSlot_moves (p : Permit) (kind : PermitKind) (i : SlotNo) (s : State) : Moves s (s.judgeSlot p kind i).1 := by
  cases kind with
  | openSlot => exact judgeOpen_moves _ _ _ i s
  | return_ => exact judgeOpen_moves _ _ _ i s
  | due =>
    unfold State.judgeSlot
    dsimp only
    split
    · exact (judgeDue_calm _ i s).moves
    · exact .refl
  | hold =>
    unfold State.judgeSlot
    dsimp only
    split
    · exact (calm_of_keeps (setHold_keeps i _ s) (by decide)).moves
    · exact .refl
  | lift =>
    unfold State.judgeSlot
    dsimp only
    split
    · exact (judgeLift_calm _ i s).moves
    · exact .refl
  | restart =>
    unfold State.judgeSlot
    dsimp only
    split <;> exact .refl

theorem addOutcome_calm (a : Answer) (s : State) : Calm s (s.addOutcome a) := calm_of_keeps (addOutcome_keeps a s) (by decide)

theorem judgeSlots_moves (p : Permit) (kind : PermitKind) : ∀ (is : List SlotNo) (s : State), Moves s (judgeSlots p kind is s)
  | [], _ => .refl
  | i :: is, s => ((judgeSlot_moves p kind i s).trans (addOutcome_calm _ _).moves).trans (judgeSlots_moves p kind is _)

theorem handVerdict_calm (n : Byte) (src : Source) (first : Nat) (s : State) : Calm s (s.handVerdict n src first) :=
  calm_of_keeps (handVerdict_keeps n src first s) (by decide)

theorem setPermits_calm (v : List Answer) (w : List (Source × List Byte)) (d : Bool) (s : State) :
    Calm s { s with custody := { s.custody with verdict := v, waiting := w, restartDue := d } } :=
  calm_of_keeps (ps := [.permits]) (by intro p hp; cases p <;> simp_all [same]) (by decide)

theorem afterPermit_moves (kind : PermitKind) {ks : List SlotNo} (few : ks.length ≤ 6) (s : State) : Moves s (s.afterPermit kind ks) := by
  cases kind
  case restart => exact (setPermits_calm s.custody.verdict s.custody.waiting true s).moves
  all_goals exact (Move.starts ks few).moves

theorem judgeIn_moves (p : Permit) (first : SlotNo) {ks : List SlotNo} (few : ks.length ≤ 6) (s : State) : Moves s (s.judgeIn p first ks) := by
  unfold State.judgeIn
  dsimp only
  split
  next => exact ((calm_foldl _ (fun u _ => addOutcome_calm _ u) ks s).trans (handVerdict_calm _ _ _ _)).moves
  next => exact ((judgeSlots_moves p _ ks s).trans (handVerdict_calm _ _ _ _).moves).trans (afterPermit_moves _ few _)

theorem judgePermit_moves (p : Permit) (s : State) : Moves s (s.judgePermit p) := by
  unfold State.judgePermit
  split
  · exact .refl
  next first rest scope =>
    have few : (p.slots s.address).length ≤ 6 := (List.length_filter_le _ allSlots).trans (le_refl 6)
    exact judgeIn_moves _ _ (scope ▸ few) s

theorem takePermit_moves (src : Source) (p : List Byte) (s : State) : Moves s (s.takePermit src p) := by
  unfold State.takePermit
  split
  · exact (setPermits_calm s.custody.verdict _ s.custody.restartDue s).moves
  · exact judgePermit_moves _ s

theorem judgeWaiting_moves : ∀ (ps : List (Source × List Byte)) (s : State), Moves s (judgeWaiting ps s)
  | [], _ => .refl
  | (src, p) :: rest, s => by
    unfold judgeWaiting
    split
    · exact (setPermits_calm s.custody.verdict _ s.custody.restartDue s).moves
    · exact (judgePermit_moves _ s).trans (judgeWaiting_moves rest _)

theorem completeRestart_moves (s : State) : Moves s s.completeRestart :=
  (setPermits_calm s.custody.verdict [] false s).moves.trans (judgeWaiting_moves _ _)

/-! ## Frames of class 5 -/

theorem headState_eq {s : State} {i : SlotNo} {r : Run} (head : s.headRun i = some r) : s.headState i = some r.state := by
  rw [State.headState, head]; rfl

theorem takeGo_moves (p : List Byte) (s : State) : Moves s (s.takeGo p) := by
  unfold State.takeGo
  split
  · exact .refl
  split
  · exact .refl
  next r head =>
    split
    next u state =>
      split
      · exact (Move.advance _ _ (headState_eq head) (by rw [state]; trivial)).moves
      · exact .refl
    · exact .refl

theorem cancelSlot_moves (id : PlanId) (i : SlotNo) (s : State) : Moves s (s.cancelSlot id i) := by
  unfold State.cancelSlot
  split
  · exact .refl
  next r rest runs =>
    split
    next => exact (Move.finish i _ _).moves
    next other =>
      split
      · exact .refl
      next x found => exact (Move.cancelQueued i r x rest id runs other found).moves

theorem takeUnpin_moves (src : Source) (p : List Byte) (s : State) : Moves s (s.takeUnpin src p) := by
  have told : ∀ (u : State) a b c d e, Calm u (u.result a b c d e) := fun u a b c d e =>
    calm_of_keeps (hand_keeps _ u) (by decide)
  unfold State.takeUnpin
  dsimp only
  split
  · exact (told s _ _ _ _ _).moves
  split
  · exact (told s _ _ _ _ _).moves
  · exact (Move.unpin _).moves.trans (told _ _ _ _ _ _).moves

theorem takeClass5_moves (src : Source) (p : List Byte) (s : State) : Moves s (s.takeClass5 src p) := by
  unfold State.takeClass5
  split
  · exact .refl
  split
  · split
    · exact (calm_of_keeps (ps := [.required]) (by intro q hq; cases q <;> simp_all [same, State.takeBuild]) (by decide)).moves
    · exact .refl
  split
  · exact .refl
  split
  · exact (Move.plan src p).moves
  split
  · exact takeGo_moves p s
  split
  · unfold State.takeCancel
    split
    · exact moves_foldl _ (fun u k => cancelSlot_moves _ k u) _ s
    · exact .refl
  · exact takeUnpin_moves src p s

/-! ## Frames -/

theorem consume_moves (cls : Nat) (src : Source) (p : List Byte) (s : State) : Moves s (s.consume cls src p) := by
  unfold State.consume
  split
  · exact (takeClaim_calm _ s).moves
  · exact (takeCeiling_calm src p s).moves
  · exact (takeClass2_calm src p s).moves
  · exact takePermit_moves src p s
  · exact takeClass5_moves src p s
  · exact (calm_of_keeps (takeQuery_keeps src p s) (by decide)).moves
  · exact .refl

theorem takeFrame_moves (cls : Nat) (src : Source) (p : List Byte) (s : State) : Moves s (s.takeFrame cls src p) := by
  unfold State.takeFrame
  split
  · exact .refl
  split
  · exact (calm_of_keeps (abandonFrame_keeps s) (by decide)).moves
  dsimp only
  have seen := ((calm_of_keeps (frameEnds_keeps s) (by decide)).trans (watch_calm src _)).moves
  split
  · exact seen.trans (calm_of_keeps (countError_keeps _) (by decide)).moves
  · exact seen.trans (consume_moves cls src p _)

/-! ## Lanes -/

theorem setLane_same_moves {l : LaneNo} {y : Lane} {s : State} (h : y.state = (s.lanes.table.get l).state) :
    Moves s (s.setLane l y) := (Move.setLane l y (fun _ _ a => h ▸ a) (fun r => h ▸ r)).moves

theorem setLane_out_moves {l : LaneNo} {y : Lane} {s : State} (held : ∀ i q, y.state ≠ .attached i q)
    (ready : y.state.isReady ≠ true) : Moves s (s.setLane l y) :=
  (Move.setLane l y (fun i q a => absurd a (held i q)) (fun r => absurd r ready)).moves

theorem enumAsserted_moves (i : SlotNo) (s : State) : Moves s (s.enumAsserted i) := by
  unfold State.enumAsserted
  split
  · exact .refl
  next r head =>
    split
    next state => exact (Move.advance i _ (headState_eq head) (by rw [state]; trivial)).moves
    next state => exact Relation.ReflTransGen.single (Move.retime i r _ head (by rw [state]; trivial) (by trivial))
    next state => exact Relation.ReflTransGen.single (Move.retime i r _ head (by rw [state]; trivial) (by trivial))
    next => exact .refl

theorem enumReleased_moves (i : SlotNo) (s : State) : Moves s (s.enumReleased i) := by
  unfold State.enumReleased
  split
  · exact .refl
  next r head =>
    split
    next =>
      split
      next state => exact Relation.ReflTransGen.single (Move.retime i r _ head (by rw [state]; trivial) (by trivial))
      next state => exact Relation.ReflTransGen.single (Move.retime i r _ head (by rw [state]; trivial) (by trivial))
      next => exact .refl
    next => exact .refl

theorem changeEnumerated_moves (l : LaneNo) (v : Level) (s : State) : Moves s (s.changeEnumerated l v) := by
  have taken : Moves s (s.setLane l { s.lanes.table.get l with
    enumIn := filteredOf v, enumPin := levelActive v, enumRun := {} }) := setLane_same_moves rfl
  unfold State.changeEnumerated
  dsimp only
  split
  · exact taken.trans (enumAsserted_moves _ _)
  · exact taken.trans (enumReleased_moves _ _)
  · exact taken

/-- The state of a lane that has faulted (R139). -/
def LaneState.Out (x : LaneState) : Prop := (∃ u, x = .faulted u) ∨ x = .retired

theorem LaneState.Out.not_attached {x : LaneState} (h : x.Out) (i : SlotNo) (q : Bool) : x ≠ .attached i q := by
  rcases h with ⟨u, rfl⟩ | rfl <;> exact nofun

theorem LaneState.Out.not_ready {x : LaneState} (h : x.Out) : x.isReady = false := by
  rcases h with ⟨u, rfl⟩ | rfl <;> rfl

theorem planLaneFault_moves (i : SlotNo) (s : State) : Moves s (s.planLaneFault i) := by
  unfold State.planLaneFault
  split
  · exact (Move.finish i _ _).moves
  · exact .refl

theorem faultLane_moves (l : LaneNo) (s : State) : Moves s (s.faultLane l) := by
  unfold State.faultLane
  dsimp only
  generalize hy : Lane.move s.clock
    (if decide (faultLimit ≤ (s.lanes.table.get l).faults + 1) = true then LaneState.retired else .faulted none) _ = y
  have out : y.state.Out := by
    rw [← hy, Lane.move_state]
    split
    · exact .inr rfl
    · exact .inl ⟨_, rfl⟩
  have taken : Moves s (match (s.lanes.table.get l).state.slot with
      | some i => ((s.setLane l y).laneDetached i).planLaneFault i
      | none => s.setLane l y) := by
    split
    next i slot =>
      have attached : ∃ q, (s.lanes.table.get l).state = .attached i q := by
        cases state : (s.lanes.table.get l).state <;> simp_all [LaneState.slot]
      obtain ⟨q, attached⟩ := attached
      exact (Move.lose l i q y attached out.not_attached out.not_ready).moves.trans (planLaneFault_moves i _)
    next =>
      exact (Move.setLane l y (fun i q a => absurd a (out.not_attached i q))
        (fun r => absurd (out.not_ready.symm.trans r) nofun)).moves
  split
  · exact (taken.trans (notice_calm _ _ _ _).moves).trans Move.wake.moves
  · exact taken.trans (notice_calm _ _ _ _).moves

theorem endWake_effect (u : Nat) (s : State) : (s.endWake u).lanes.waitList = s.lanes.waitList ∧
    ∀ l i q, ((s.endWake u).lanes.table.get l).state = .attached i q → (s.lanes.table.get l).state = .attached i q := by
  unfold State.endWake
  generalize allLanes = ls
  induction ls generalizing s with
  | nil => exact ⟨rfl, fun _ _ _ a => a⟩
  | cons m ls ih =>
    rw [List.foldl_cons]
    obtain ⟨waits, held⟩ := ih (match (s.lanes.table.get m).state with
      | .waking t' => if t' = u then s.moveLane m (.ready none) else s
      | _ => s)
    refine ⟨waits.trans ?_, fun l i q a => ?_⟩
    · split
      · split <;> rfl
      · rfl
    · have after := held l i q a
      revert after
      split
      next t' _ =>
        split
        · rw [moveLane_state]
          split
          · exact nofun
          · exact id
        · exact id
      · exact id

/-! ## Every act -/

/-- The acts of the Line Interface and the lamps leave all but their own. -/
theorem setLine_moves (l : Line) (s : State) : Moves s (s.setLine l) := (calm_of_keeps (setLine_keeps l s) (by decide)).moves

theorem claimGone_calm (f : Bool) (x : TxFrame) (s : State) : Calm s (s.claimGone f x) :=
  calm_of_keeps (claimGone_keeps f x s) (by decide)

theorem backToWaiting_calm (e : TxEntry) (s : State) : Calm s (s.backToWaiting e) := by
  have set : ∀ l, Calm s (s.setLine l) := fun l => calm_of_keeps (setLine_keeps l s) (by decide)
  exact Calm.ite ((set _).trans (claimGone_calm _ _ _)) (set _)

theorem breakAttempt_calm (e : TxEntry) (s : State) : Calm s (s.breakAttempt e) := by
  have set : ∀ (u : State) l, Calm u (u.setLine l) := fun u l => calm_of_keeps (setLine_keeps l u) (by decide)
  unfold State.breakAttempt
  dsimp only
  exact Calm.ite (((set _ _).trans (set _ _)).trans (claimGone_calm _ _ _)) ((set _ _).trans (backToWaiting_calm _ _))

theorem completeAttempt_calm (e : TxEntry) (s : State) : Calm s (s.completeAttempt e) := by
  have set : ∀ l, Calm s (s.setLine l) := fun l => calm_of_keeps (setLine_keeps l s) (by decide)
  unfold State.completeAttempt State.ownFrame
  split
  · exact (set _).trans (completeOwnClaim_calm _ _ _ _ _ _)
  · exact set _

theorem not_locked_of {s : State} {i : SlotNo} {x : LatchState} (h : (s.latch.get i).state = x) (n : x ≠ .locked) :
    ¬ s.Locked i := by rw [State.Locked, h]; exact n

theorem Act.moves {s t : State} (h : Act s t) : Moves s t := by
  cases h
  case still => exact .refl
  case changePresent i v _ => exact (changePresent_calm i v s).moves
  case changeBolt i v _ => exact (changeBolt_calm i v s).moves
  case insert i code u found settling => exact (insert_calm code settling).moves
  case extract i u leaving => exact (Move.extract i u leaving).moves
  case publish i volts amps => exact (publish_calm i volts amps s).moves
  case overCurrent i judged => exact (faultSlot_calm _ judged fun _ => ⟨rfl, rfl, rfl⟩).moves
  case integrate i mean u => exact (integrate_calm i mean u s).moves
  case endDetect i u detects => exact (endDetect_calm detects).moves
  case enterPhase i dest charges _ => exact (enterPhase_calm i dest charges).moves
  case retry i k u _ => exact (chargeEvent_calm i _ s fun _ o => OnLane.enterDetect (c := { s.charge.get i with
    retries := (s.charge.get i).retries + 1 }) o _ _).moves
  case passDue i => exact (passDue_calm i s).moves
  case report => exact (report_calm s).moves
  case spaceNeed => exact (spaceNeed_calm s).moves
  case fallSilent => exact (isolated_calm s).moves
  case agePeer a p => exact (setPeer_calm a p s).moves
  case dropCeiling src => exact (setCeilings_calm _ s).moves
  case frame cls src p => exact takeFrame_moves cls src p s
  case expireClaims u _ _ => exact (expireClaims_calm s).moves
  case endWithdraw i u pulse => exact (endWithdraw_calm (not_locked_of pulse nofun)).moves
  case endThrow i u pulse => exact (endThrow_calm (not_locked_of pulse nofun)).moves
  case timeOutRelease i u _ => exact (timeOutRelease_calm i s).moves
  case throwWait i x u opened => exact (throwWait_calm 1 (not_locked_of opened nofun)).moves
  case restart _ => exact Move.restart.moves.trans (completeRestart_moves _)
  case finish i outcome x _ _ _ => exact (Move.finish i outcome .release).moves
  case endPause i u head => exact (Move.advance i _ head trivial).moves
  case changeEnumerated l v => exact changeEnumerated_moves l v s
  case faultAgain l u faulted => exact setLane_out_moves (by intro i q a; cases a) (by intro r; cases r)
  case faultLane l _ _ => exact faultLane_moves l s
  case startClear l u faulted => exact setLane_out_moves (by intro i q a; cases a) (by intro r; cases r)
  case releaseFault l => exact setLane_same_moves rfl
  case endClear l u faulted => exact setLane_out_moves (by intro i q a; cases a) (by intro r; cases r)
  case endWake u =>
    obtain ⟨waits, held⟩ := endWake_effect u s
    exact (Move.grants (endWake_keeps u s) waits held).moves
  case endIdle l u ready => exact (setLane_out_moves (by intro i q a; cases a) (by intro r; cases r)).trans Move.wake.moves
  case endScrub l u scrubs =>
    refine (Move.grants (moveLane_keeps l (.ready none) s) rfl fun m i q a => ?_).moves
    rw [moveLane_state] at a
    split at a
    · cases a
    · exact a
  case abandon => exact (calm_of_keeps (abandonFrame_keeps s) (by decide)).moves
  case crcError => exact setLine_moves _ s
  case lineIdle => exact setLine_moves _ s
  case attempt e _ => exact (calm_of_keeps (attempt_keeps e s) (by decide)).moves
  case loseAttempt u read e _ _ => exact (setLine_moves _ s).trans (backToWaiting_calm e _).moves
  case breakAttempt u read e _ _ => exact (breakAttempt_calm e s).moves
  case completeAttempt u read e _ _ => exact (completeAttempt_calm e s).moves
  case tickLamps =>
    exact (calm_of_keeps (ps := [.lamps]) (by intro p hp; cases p <;> simp_all [same]) (by decide)).moves

/-- A condition on runs, lanes and the slots they hold lasts, if every move keeps it, it reads only what a bit time leaves, and
it stands in empty tables. -/
theorem lasting_of_moves {P : State → Prop} (rule : ∀ s' t', Move s' t' → P s' → P t')
    (pass : ∀ s : State, P s → P s.passBit)
    (blind : ∀ (s : State) (q : List Instr) (x : Station) (m : Mode), P s →
      P { s with pending := q, address := x, mode := m })
    (cleared : ∀ s : State, P s.clearBlocks)
    (started : ∀ (s : State) (r : Record) (d : Bool), (d = true → r = {}) → P (s.startBlocks r d)) : Lasting P where
  reach u s := rule _ _ (.calm (reach_calm u s))
  act _ _ _ act := Moves.keeps rule act.moves
  pending s q before := blind s q s.address s.mode before
  pass := pass
  cleared := cleared
  released s x began _ before := blind s s.pending x (.loading began) before
  started := started

end Sys2Proof.Machine
end

section
/-! PROOF. The lanes and the lane wait list stay in agreement (R130, R132): O48. Every move either eases the wait list and the
attachments, or makes them one by one: a slot asks once, without a lane, and is granted off the list. -/

namespace Sys2Proof.Machine

/-! ## Easing -/

/-- Fewer slots wait, in the same order, fewer lanes are attached, and each slot that still waits waits as it did. -/
structure Eases (s t : State) : Prop where
  waits : (t.lanes.waitList.map (·.1)).Sublist (s.lanes.waitList.map (·.1))
  held : ∀ l i q, (t.lanes.table.get l).state = .attached i q → (s.lanes.table.get l).state = .attached i q
  asks : ∀ i ∈ t.lanes.waitList.map (·.1), s.headState i = some .laneWait → t.headState i = some .laneWait

theorem Eases.refl (s : State) : Eases s s := ⟨.refl _, fun _ _ _ a => a, fun _ _ a => a⟩

theorem Eases.trans {s t u : State} (h : Eases s t) (k : Eases t u) : Eases s u where
  waits := k.waits.trans h.waits
  held l i q a := h.held l i q (k.held l i q a)
  asks i w a := k.asks i w (h.asks i (k.waits.subset w) a)

/-- Lanes and run queues stand. -/
theorem eases_of_same {s t : State} (lanes : t.lanes = s.lanes) (heads : ∀ k, t.headState k = s.headState k) : Eases s t := by
  refine ⟨by rw [lanes], fun _ _ _ a => lanes ▸ a, fun k _ a => (heads k).trans a⟩

theorem Calm.eases {s t : State} (h : Calm s t) : Eases s t := eases_of_same h.lanes h.headState

theorem State.LanesRight.of_eases {s t : State} (right : s.LanesRight) (h : Eases s t) : t.LanesRight := by
  obtain ⟨once, waiting, single⟩ := right
  refine ⟨once.sublist h.waits, fun w member => ?_, fun l m i p q a b => single l m i p q (h.held l i p a) (h.held m i q b)⟩
  have named : w.1 ∈ t.lanes.waitList.map (·.1) := List.mem_map_of_mem member
  obtain ⟨v, before, same⟩ := List.mem_map.mp (h.waits.subset named)
  obtain ⟨free, asked⟩ := waiting v before
  rw [same] at free asked
  exact ⟨laneOf_eq_none_iff.mpr fun l q a => laneOf_eq_none_iff.mp free l q (h.held l _ q a), h.asks _ named asked⟩

/-! ## Operations that ease -/

/-- A new queue for one slot whose head run, if it waits for a lane, waits on. -/
theorem setPlan_eases {i : SlotNo} {x : PlanSlot} {s : State}
    (h : s.headState i = some .laneWait → (x.runs.head?.map Run.state) = some .laneWait) : Eases s (s.setPlan i x) := by
  refine ⟨.refl _, fun _ _ _ a => a, fun k _ a => ?_⟩
  rw [State.headState, State.headRun, setPlan_slot]
  split
  next same => exact h (same ▸ a)
  next => exact a

theorem setRun_eases {i : SlotNo} {r : Run} {s : State} (h : s.headState i = some .laneWait → r.state = .laneWait) :
    Eases s (s.setRun i r) := setPlan_eases fun a => congrArg some (h a)

theorem setRun_same_eases {i : SlotNo} {r x : Run} {s : State} (head : s.headRun i = some r) (same : x.state = r.state) :
    Eases s (s.setRun i x) := setRun_eases fun a => by
  rw [headState_eq head] at a
  exact same.trans (Option.some.inj a)

theorem setFloor_eases (i : SlotNo) (q : Nat) (s : State) : Eases s (s.setFloor i q) :=
  eases_of_same (setFloor_lanes i q s) fun k => headState_of_runs (setFloor_runs i q s k)

theorem moveLane_eases {l : LaneNo} {x : LaneState} {s : State}
    (h : ∀ i q, x = .attached i q → (s.lanes.table.get l).state = .attached i q) : Eases s (s.moveLane l x) := by
  refine ⟨.refl _, fun m i q a => ?_, fun _ _ a => a⟩
  rw [moveLane_state] at a
  split at a
  next same => rw [same]; exact h i q a
  next => exact a

theorem laneDetached_eases (i : SlotNo) (s : State) : Eases s (s.laneDetached i) :=
  eases_of_same (laneDetached_lanes i s) fun k =>
    headState_of_runs (congrArg (fun x : Vector PlanSlot 6 => (x.get k).runs) (laneDetached_keeps i s .runs (by decide)).1)

theorem detachLane_eases (l : LaneNo) (i : SlotNo) (s : State) : Eases s (s.detachLane l i) :=
  (moveLane_eases (by intro k q a; cases a)).trans (laneDetached_eases i _)

theorem laneSide_eases (i : SlotNo) (side : LaneSide) (s : State) : Eases s (s.laneSide i side) := by
  rw [laneSide_eq]
  split
  · exact detachLane_eases _ i s
  · exact Eases.refl s

theorem LanesRest.eases {s t : State} (h : LanesRest s t) (heads : ∀ k, t.headState k = s.headState k) : Eases s t := by
  obtain ⟨waits, moved⟩ := h
  refine ⟨by rw [waits], fun l i q a => ?_, fun k _ a => (heads k).trans a⟩
  exact (a ▸ moved l : LaneState.Rests _ (.attached i q)).attached

theorem leaveWaitList_eases (i : SlotNo) (s : State) : Eases s (s.leaveWaitList i) :=
  ⟨List.filter_sublist.map _, fun _ _ _ a => a, fun _ _ a => a⟩

/-- The end of a head run that does not wait for a lane. -/
theorem endRun_eases {i : SlotNo} {s : State} (o : Answer) (n : Nat) (h : i ∈ s.lanes.waitList.map (·.1) →
    s.headState i ≠ some .laneWait) : Eases s (s.endRun i o n) := by
  have lanes := endRun_lanes i o n s
  refine ⟨by rw [lanes], fun _ _ _ a => lanes ▸ a, fun k w a => ?_⟩
  have other : k ≠ i := fun same => h (by rw [← same, ← lanes]; exact w) (same ▸ a)
  rw [← a]
  exact headState_of_runs (by rw [endRun_slot_eq, if_neg other])

theorem finishHead_eases (i : SlotNo) (o : Answer) (side : LaneSide) (s : State) : Eases s (s.finishHead i o side) := by
  cases head : s.headRun i with
  | none => rw [finishHead_of_none o side head]; exact Eases.refl s
  | some r =>
    have floored := setFloor_eases i 0 s
    have sided := (floored.trans (leaveWaitList_eases i _)).trans (laneSide_eases i side _)
    rw [finishHead_of_head o side head]
    refine sided.trans (endRun_eases o r.step fun w => ?_)
    rw [laneSide_waitList] at w
    simp [State.leaveWaitList] at w

theorem forceRelease_eases (i : SlotNo) (s : State) : Eases s (s.forceRelease i) := laneSide_eases i .force s

theorem heads_of_keeps {ps : List Part} {s t : State} (h : Keeps ps s t) (n : Part.runs ∉ ps) (k : SlotNo) :
    t.headState k = s.headState k :=
  headState_of_runs (congrArg (fun x : Vector PlanSlot 6 => (x.get k).runs) (h .runs n).1)

theorem wakeLanes_eases (s : State) : Eases s s.wakeLanes :=
  (wakeLanes_rests s).eases (heads_of_keeps (wakeLanes_keeps s) (by decide))

theorem startIdle_eases (s : State) : Eases s s.startIdle :=
  (startIdle_rests s).eases (heads_of_keeps (startIdle_keeps s) (by decide))

/-! ## The work of one event -/

/-- Work that may wait behind other work: it reads the state that it finds. -/
def Work.Waits : Work → Prop
  | .start _ => True
  | .grant => True
  | _ => False

/-- A piece of work on the step of a head run finds its slot in this condition. -/
def Work.Finds (Q : SlotNo → Prop) : Work → Prop
  | .perform i => Q i
  | .advance i => Q i
  | _ => True

/-- The work still to do: the front finds its slot in the condition, and all behind it reads the state that it finds. -/
def WorkReady (Q : SlotNo → Prop) : List Work → Prop
  | [] => True
  | w :: ws => w.Finds Q ∧ ∀ x ∈ ws, x.Waits

theorem Work.Waits.finds {w : Work} (h : w.Waits) (Q : SlotNo → Prop) : w.Finds Q := by
  cases w <;> simp_all [Work.Waits, Work.Finds]

theorem workReady_of_waits {Q : SlotNo → Prop} {ws : List Work} (h : ∀ x ∈ ws, x.Waits) : WorkReady Q ws := by
  cases ws with
  | nil => trivial
  | cons w ws => exact ⟨(h w (by simp)).finds Q, fun x m => h x (by simp [m])⟩

theorem workReady_append {Q : SlotNo → Prop} {ws : List Work} (more : List Work) (ready : WorkReady Q more)
    (h : ∀ x ∈ ws, x.Waits) : WorkReady Q (more ++ ws) := by
  cases more with
  | nil => exact workReady_of_waits h
  | cons w more =>
    refine ⟨ready.1, fun x m => ?_⟩
    rcases List.mem_append.mp m with m | m
    · exact ready.2 x m
    · exact h x m

theorem workReady_one {Q : SlotNo → Prop} {w : Work} (h : w.Finds Q) : WorkReady Q [w] := ⟨h, by simp⟩

/-- The head run of the slot does not wait for a lane. -/
def State.Unasked (s : State) (i : SlotNo) : Prop := s.headState i ≠ some .laneWait

theorem unasked_of_eases {s t : State} {i : SlotNo} (h : t.headState i = s.headState i) (u : s.Unasked i) : t.Unasked i := by
  rw [State.Unasked, h]; exact u

theorem setRun_headState (i : SlotNo) (r : Run) (s : State) : (s.setRun i r).headState i = some r.state := by
  rw [State.headState, setRun_headRun, if_pos rfl]; rfl

/-- A slot asks for a lane: it has none and did not wait (R114, R132). -/
theorem askLane_right {s : State} {i : SlotNo} {r : Run} (pinned : Bool) (right : s.LanesRight) (unasked : s.Unasked i)
    (free : s.laneOf i = none) : (s.askLane i r pinned).LanesRight := by
  obtain ⟨once, waiting, single⟩ := right
  have absent : i ∉ s.lanes.waitList.map (·.1) := fun m => by
    obtain ⟨w, member, same⟩ := List.mem_map.mp m
    exact unasked (same ▸ (waiting w member).2)
  have lane : ∀ k, (s.askLane i r pinned).laneOf k = s.laneOf k := laneOf_of_states fun _ => rfl
  have heads : ∀ k, (s.askLane i r pinned).headState k = if k = i then some .laneWait else s.headState k := fun k => by
    show (s.setRun i { r with state := .laneWait }).headState k = _
    rw [State.headState, setRun_headRun]
    split <;> rfl
  have list : (s.askLane i r pinned).lanes.waitList = s.lanes.waitList ++ [(i, pinned)] := rfl
  refine ⟨?_, fun w member => ?_, single⟩
  · rw [list, List.map_append, List.nodup_append]
    refine ⟨once, by simp, fun a member b single same => absent ?_⟩
    have last : b = i := List.mem_singleton.mp single
    rw [← last, ← same]
    exact member
  · rw [lane, heads]
    rw [list] at member
    rcases List.mem_append.mp member with member | member
    · have other : w.1 ≠ i := fun same => absent (same ▸ List.mem_map_of_mem member)
      rw [if_neg other]
      exact waiting w member
    · rw [List.mem_singleton] at member
      rw [member, if_pos rfl]
      exact ⟨free, rfl⟩

/-- The oldest waiting slot leaves the list with its lane (R134). -/
theorem grantLane_right {s : State} {l : LaneNo} {i : SlotNo} {pinned : Bool} {rest : List (SlotNo × Bool)}
    (right : s.LanesRight) (waits : s.lanes.waitList = (i, pinned) :: rest) : (s.grantLane l i pinned rest).LanesRight := by
  obtain ⟨once, waiting, single⟩ := right
  have state : ∀ m, ((s.grantLane l i pinned rest).lanes.table.get m).state =
      if m = l then .attached i pinned else (s.lanes.table.get m).state := fun m => by
    rw [grantLane_lanes, moveLane_state]
  have list : (s.grantLane l i pinned rest).lanes.waitList = rest := congrArg Lanes.waitList (grantLane_lanes s l i pinned rest)
  rw [waits] at once waiting
  obtain ⟨absent, once⟩ := List.nodup_cons.mp once
  have free := laneOf_eq_none_iff.mp (waiting (i, pinned) (by simp)).1
  refine ⟨by rw [list]; exact once, fun w member => ?_, fun a b k p q => ?_⟩
  · rw [list] at member
    obtain ⟨unheld, asked⟩ := waiting w (by simp [member])
    have named : w.1 ∈ rest.map (·.1) := List.mem_map_of_mem member
    have other : w.1 ≠ i := fun same => absent (show i ∈ rest.map (·.1) from same ▸ named)
    refine ⟨laneOf_eq_none_iff.mpr fun m q => ?_, ?_⟩
    · rw [state]
      split
      · exact fun same => other (by injection same with same; exact same.symm)
      · exact laneOf_eq_none_iff.mp unheld m q
    · rw [State.headState, grantLane_headRun]; exact asked
  · rw [state, state]
    split <;> split
    next a b => exact fun _ _ => a.trans b.symm
    next => exact fun same held => absurd held (by injection same with same; rw [← same]; exact free b q)
    next => exact fun held same => absurd held (by injection same with same; rw [← same]; exact free a p)
    next => exact single a b k p q

/-- The agreement of lanes and wait list, and the work still to do. -/
def LanesWork (s : State) (ws : List Work) : Prop := s.LanesRight ∧ WorkReady s.Unasked ws

theorem lanesWork_of_eases {s t : State} {more ws : List Work} (right : s.LanesRight) (h : Eases s t)
    (ready : WorkReady t.Unasked more) (tail : ∀ x ∈ ws, x.Waits) : LanesWork t (more ++ ws) :=
  ⟨right.of_eases h, workReady_append more ready tail⟩

theorem RunState.Stands.unasked {x : RunState} (h : x.Stands) : x ≠ .laneWait := by rintro rfl; exact h

theorem begin_runs (p : PlanSlot) (id : PlanId) (phase : PlanPhase) : (p.begin_ id phase).runs = p.runs := by
  cases phase <;> rfl

theorem begun_slot_runs (i : SlotNo) (id : PlanId) (phase : PlanPhase) (s : State) (k : SlotNo) :
    ((s.setPlan i ((s.plans.slots.get i).begin_ id phase)).plans.slots.get k).runs = (s.plans.slots.get k).runs := by
  rw [setPlan_slot]
  split
  next same => rw [same, begin_runs]
  next => rfl

theorem lanesWork : WorkKeeps LanesWork := by
  rintro s t w more ws piece ⟨right, front, tail⟩
  cases piece
  case none => exact ⟨right, workReady_append [] trivial tail⟩
  case fail i r o head queued =>
    exact lanesWork_of_eases right (endRun_eases o 0 fun _ => by rw [headState_eq head, queued]; exact nofun)
      (workReady_one trivial) tail
  case enter i r p head found queued present locked =>
    have same : ∀ k, State.headState _ k = s.headState k := fun k => headState_of_runs (begun_slot_runs i p.id p.phase s k)
    refine lanesWork_of_eases right (eases_of_same rfl same) (workReady_one (unasked_of_eases (same i) ?_)) tail
    rw [State.Unasked, headState_eq head, queued]
    exact nofun
  case skip i r head => exact lanesWork_of_eases right (Eases.refl s) (workReady_one front) tail
  case useLane i r head =>
    exact lanesWork_of_eases right (setRun_same_eases head rfl)
      (workReady_one (unasked_of_eases ((setRun_headState _ _ _).trans (headState_eq head).symm) front)) tail
  case noLanes i r head none => exact lanesWork_of_eases right (finishHead_eases i _ _ s) (workReady_one trivial) tail
  case ask i r pinned head free => exact ⟨askLane_right pinned right front free, workReady_append [.grant] (workReady_one trivial) tail⟩
  case floor i r q head =>
    exact lanesWork_of_eases right (setFloor_eases i q s)
      (workReady_one (unasked_of_eases (headState_of_runs (setFloor_runs i q s i)) front)) tail
  case stand i r x head stands =>
    exact lanesWork_of_eases right (setRun_eases fun a => absurd a front) (more := []) trivial tail
  case detach i r head =>
    have released : Eases s (s.releaseLane i) := laneSide_eases i .release s
    have heads : (s.releaseLane i).headRun i = s.headRun i := by
      rw [State.headRun, (releaseLane_keeps i s .runs (by decide)).1]; rfl
    exact lanesWork_of_eases right (released.trans (setRun_same_eases (heads.trans head) rfl))
      (workReady_one (unasked_of_eases ((setRun_headState _ _ _).trans (headState_eq head).symm) front)) tail
  case mark i r p head found =>
    have same : ∀ k, (s.setPlan i { s.plans.slots.get i with buildTag := some p.tag, progress := none }).headState k =
        s.headState k := fun k => headState_of_runs (by rw [setPlan_slot]; split <;> simp_all)
    exact lanesWork_of_eases right (eases_of_same rfl same) (workReady_one (unasked_of_eases (same i) front)) tail
  case next i r p head found more =>
    exact lanesWork_of_eases right (setRun_same_eases head rfl)
      (workReady_one (unasked_of_eases ((setRun_headState _ _ _).trans (headState_eq head).symm) front)) tail
  case done i r head => exact lanesWork_of_eases right (finishHead_eases i _ _ s) (workReady_one trivial) tail
  case granted i pinned rest l r u more waits ready head asked goes =>
    have attached := grantLane_right (l := l) right waits
    have absent : i ∉ rest.map (·.1) := by
      have once := right.1
      rw [waits] at once
      exact (List.nodup_cons.mp once).1
    have list : (s.grantLane l i pinned rest).lanes.waitList = rest := congrArg Lanes.waitList (grantLane_lanes s l i pinned rest)
    have eased : Eases (s.grantLane l i pinned rest)
        ((s.grantLane l i pinned rest).setRun i { r with usingLane := true, state := .enumWait u }) := by
      refine ⟨.refl _, fun _ _ _ a => a, fun k w a => ?_⟩
      have other : k ≠ i := by
        rintro rfl
        exact absent (list ▸ w)
      rw [State.headState, setRun_headRun, if_neg other]
      exact a
    refine lanesWork_of_eases attached eased ?_ tail
    rcases goes with rfl | rfl
    · exact workReady_one trivial
    · refine ⟨?_, by simp [Work.Waits]⟩
      show State.headState _ _ ≠ _
      rw [setRun_headState]
      exact nofun
  case unasked i pinned rest l waits ready unasked =>
    exact absurd (right.2.1 (i, pinned) (by rw [waits]; simp)).2 unasked
  case rest idle =>
    exact lanesWork_of_eases right ((wakeLanes_eases s).trans (startIdle_eases _)) (more := []) trivial tail

theorem work_lanesRight {ws : List Work} {s : State} (right : s.LanesRight) (ready : WorkReady s.Unasked ws) :
    (s.work ws).LanesRight := by
  obtain ⟨_, after, _⟩ := lanesWork.work ⟨right, ready⟩
  exact after

theorem starts_wait (ks : List SlotNo) : ∀ x ∈ ks.map Work.start, x.Waits := by
  intro x m
  obtain ⟨k, _, rfl⟩ := List.mem_map.mp m
  trivial

/-! ## Extraction (R122, R136) -/

/-- The blocks but the Plan Engine and the Lane Switch at an extraction (R10, R20, R74, R104). -/
def State.unseat (i : SlotNo) (s : State) : State :=
  let t := ((s.setMonitor i (s.monitor.get i).clear).notice .extracted (some i) (s.monitor.get i).q).chargeEvent i
    ChargeSlot.extract
  let u := t.latchExtraction i
  u.setCustody i { u.custody.slots.get i with dueUntil := none, duePassed := false }

theorem extract_eq (i : SlotNo) (s : State) :
    s.extract i = (((s.unseat i).planExtraction i).leaveWaitList i).forceRelease i := rfl

theorem unseat_keeps (i : SlotNo) (s : State) : Keeps [.monitor, .latch, .custody, .charge, .share, .queue] s (s.unseat i) :=
  (((((setMonitor_keeps _ _ _).mono (by decide)).trans ((notice_keeps _ _ _ _).mono (by decide))).trans
    ((chargeEvent_keeps _ _ _).mono (by decide))).trans ((latchExtraction_keeps _ _).mono (by decide))).trans
    ((setCustody_keeps _ _ _).mono (by decide))

theorem unseat_lanes (i : SlotNo) (s : State) : (s.unseat i).lanes = s.lanes := unseat_keeps i s .lanes (by decide)
theorem unseat_slots (i : SlotNo) (s : State) : (s.unseat i).plans.slots = s.plans.slots :=
  (unseat_keeps i s .runs (by decide)).1
theorem unseat_table (i : SlotNo) (s : State) : (s.unseat i).plans.table = s.plans.table :=
  (unseat_keeps i s .runs (by decide)).2

theorem reportRuns_slots (i : SlotNo) (o : Answer) (rs : List Run) (s : State) :
    (rs.foldl (fun t r => t.reportRun i r o 0) s).plans.slots = s.plans.slots := by
  induction rs generalizing s with
  | nil => rfl
  | cons r rs ih => rw [List.foldl_cons, ih, reportRun_slots]

theorem failQueued_lanes (i : SlotNo) (s : State) : (s.failQueued i).lanes = s.lanes := failQueued_keeps i s .lanes (by decide)

theorem failQueued_runs (i : SlotNo) (s : State) (k : SlotNo) : ((s.failQueued i).plans.slots.get k).runs =
    if k = i then [] else (s.plans.slots.get k).runs := by
  rw [State.failQueued, setPlan_slot]
  split
  · rfl
  · rw [reportRuns_slots]

/-- A slot whose progress and build tag are cleared. -/
theorem cleared_runs (i : SlotNo) (s : State) (a : Option PlanId) (b : Option (BitVec 32)) (k : SlotNo) :
    ((s.setPlan i { s.plans.slots.get i with progress := a, buildTag := b }).plans.slots.get k).runs =
      (s.plans.slots.get k).runs := by
  rw [setPlan_slot]
  split
  next same => rw [same]
  next => rfl

theorem planExtraction_runs (i : SlotNo) (s : State) (k : SlotNo) : ((s.planExtraction i).plans.slots.get k).runs =
    if k = i then [] else (s.plans.slots.get k).runs := by
  rw [State.planExtraction, failQueued_runs]
  split
  · rfl
  next other => rw [finishHead_runs, if_neg other, cleared_runs]

theorem extract_runs (i : SlotNo) (s : State) (k : SlotNo) : ((s.extract i).plans.slots.get k).runs =
    if k = i then [] else (s.plans.slots.get k).runs := by
  rw [extract_eq, (forceRelease_keeps i _ .runs (by decide)).1, ← unseat_slots i s]
  exact planExtraction_runs i (s.unseat i) k

/-- The fail of the queued runs of a slot that does not wait for a lane. -/
theorem failQueued_eases {i : SlotNo} {s : State} (h : i ∈ s.lanes.waitList.map (·.1) → s.headState i ≠ some .laneWait) :
    Eases s (s.failQueued i) := by
  have lanes := failQueued_lanes i s
  refine ⟨by rw [lanes], fun _ _ _ a => lanes ▸ a, fun k w a => ?_⟩
  have other : k ≠ i := fun same => h (by rw [← same, ← lanes]; exact w) (same ▸ a)
  rw [← a]
  exact headState_of_runs (by rw [failQueued_runs, if_neg other])

theorem finishHead_unasked (i : SlotNo) (o : Answer) (side : LaneSide) {s : State}
    (w : i ∈ (s.finishHead i o side).lanes.waitList.map (·.1)) : (s.finishHead i o side).headState i ≠ some .laneWait := by
  cases head : s.headRun i with
  | none => rw [finishHead_of_none o side head, State.headState, head]; exact nofun
  | some r => rw [finishHead_waitList o side head] at w; simp at w

theorem planExtraction_eases (i : SlotNo) (s : State) : Eases s (s.planExtraction i) := by
  have cleared : Eases s (s.setPlan i { s.plans.slots.get i with progress := none, buildTag := none }) :=
    eases_of_same rfl fun k => headState_of_runs (cleared_runs i s none none k)
  exact (cleared.trans (finishHead_eases i .extracted .keep _)).trans (failQueued_eases (finishHead_unasked i _ _))

theorem extract_eases (i : SlotNo) (s : State) : Eases s (s.extract i) := by
  have unseated : Eases s (s.unseat i) := eases_of_same (unseat_lanes i s) (heads_of_keeps (unseat_keeps i s) (by decide))
  rw [extract_eq]
  exact ((unseated.trans (planExtraction_eases i _)).trans (leaveWaitList_eases i _)).trans (forceRelease_eases i _)

theorem mem_allSlots (i : SlotNo) : i ∈ allSlots := by revert i; decide

/-! ## Restart (R126, R142) -/

theorem restartPlans_lanes (s : State) : s.restartPlans.lanes = s.lanes := by
  unfold State.restartPlans
  rw [settled_lanes]
  have plans := keeps_forSlots State.restartPlan (fun i s => restartPlan_keeps i s) allSlots s
  revert plans
  generalize forSlots allSlots State.restartPlan s = t
  exact fun plans => plans .lanes (by decide)

theorem reportRestarted_slots (i : SlotNo) (rs : List Run) (s : State) : (s.reportRestarted i rs).plans.slots = s.plans.slots := by
  cases rs with
  | nil => rfl
  | cons r rs => rw [State.reportRestarted, reportRuns_slots, reportRun_slots]

theorem restartPlan_runs (i : SlotNo) (s : State) (k : SlotNo) : ((s.restartPlan i).plans.slots.get k).runs =
    if k = i then [] else (s.plans.slots.get k).runs := by
  rw [State.restartPlan, setPlan_slot]
  split
  · rfl
  · rw [reportRestarted_slots]

theorem restartPlans_runs (s : State) (k : SlotNo) : (s.restartPlans.plans.slots.get k).runs = [] := by
  have folded : ∀ (is : List SlotNo) (u : State), ((forSlots is State.restartPlan u).plans.slots.get k).runs =
      if k ∈ is then [] else (u.plans.slots.get k).runs := by
    intro is
    induction is with
    | nil => intro u; rfl
    | cons i is ih =>
      intro u
      rw [forSlots, List.foldl_cons]
      refine (ih _).trans ?_
      rw [restartPlan_runs]
      by_cases same : k = i
      · simp [same]
      · simp [same]
  rw [State.restartPlans, settled_runs]
  exact (folded allSlots s).trans (if_pos (mem_allSlots k))

theorem restartPlans_table (s : State) : s.restartPlans.plans.table = [] := by
  rw [State.restartPlans, settled_table]

/-- What a restart makes of a lane's state: an ATTACHED and a RETIRED lane scrub (R142). -/
theorem restartLane_state (l : LaneNo) (s : State) (m : LaneNo) : ((s.restartLane l).lanes.table.get m).state =
    if m = l then
      match (s.lanes.table.get l).state with
      | .attached _ _ => .scrubbing (momentAfter s.clock s.cfg.scrubTime)
      | .retired => .scrubbing (momentAfter s.clock s.cfg.scrubTime)
      | x => x
    else (s.lanes.table.get m).state := by
  unfold State.restartLane
  dsimp only
  generalize hv : s.setLane l { s.lanes.table.get l with faults := 0 } = v
  have cleared : ∀ k, (v.lanes.table.get k).state = (s.lanes.table.get k).state := fun k => by
    rw [← hv]
    show ((setAt s.lanes.table l _).get k).state = _
    rw [get_setAt]
    split
    next same => rw [same]
    next => rfl
  have clock : v.clock = s.clock := hv ▸ rfl
  have cfg : v.cfg = s.cfg := hv ▸ rfl
  rw [cleared l]
  cases state : (s.lanes.table.get l).state <;> dsimp only
  case attached i q => rw [detachLane_lanes, moveLane_state, cleared, clock, cfg]
  case retired => rw [moveLane_state, cleared, clock, cfg]
  all_goals
    rw [cleared]
    split
    next same => rw [same, state]
    next => rfl

theorem restartLane_waitList (l : LaneNo) (s : State) : (s.restartLane l).lanes.waitList = s.lanes.waitList := by
  unfold State.restartLane
  dsimp only
  split
  · rw [detachLane_lanes]; rfl
  · rfl
  · rfl

/-- The Lane Switch after a restart: none waits, none is ATTACHED or RETIRED, and no lane has become READY. -/
theorem restartLanes_effect (s : State) : s.restartLanes.lanes.waitList = [] ∧
    ∀ m, (∀ i q, (s.restartLanes.lanes.table.get m).state ≠ .attached i q) := by
  have folded : ∀ (ls : List LaneNo) (u : State), (ls.foldl (fun t l => t.restartLane l) u).lanes.waitList = u.lanes.waitList ∧
      ∀ m i q, ((ls.foldl (fun t l => t.restartLane l) u).lanes.table.get m).state = .attached i q →
        m ∉ ls ∧ (u.lanes.table.get m).state = .attached i q := by
    intro ls
    induction ls with
    | nil => exact fun u => ⟨rfl, fun m i q a => ⟨by simp, a⟩⟩
    | cons l ls ih =>
      intro u
      obtain ⟨waits, held⟩ := ih (u.restartLane l)
      refine ⟨waits.trans (restartLane_waitList l u), fun m i q a => ?_⟩
      obtain ⟨out, before⟩ := held m i q a
      rw [restartLane_state] at before
      split at before
      next => cases state : (u.lanes.table.get l).state <;> simp_all
      next other => exact ⟨by simp [out, other], before⟩
  unfold State.restartLanes
  generalize hu : ({ s with lanes := { s.lanes with waitList := [] } } : State) = u
  have none : u.lanes.waitList = [] := hu ▸ rfl
  obtain ⟨waits, held⟩ := folded allLanes u
  exact ⟨waits.trans none, fun m i q a => (held m i q a).1 (mem_allLanes m)⟩

theorem restartStages_waitList (s : State) : s.restartStages.lanes.waitList = [] := by
  rw [State.restartStages]
  exact (restartLanes_effect _).1

theorem restartStages_unattached (s : State) (l : LaneNo) (i : SlotNo) (q : Bool) :
    (s.restartStages.lanes.table.get l).state ≠ .attached i q := by
  rw [State.restartStages]
  exact (restartLanes_effect _).2 l i q

theorem restartLane_leaves (l : LaneNo) (s : State) : Keeps [.lanes, .free, .charge, .share, .queue] s (s.restartLane l) := by
  unfold State.restartLane
  dsimp only
  split
  · exact ((setLane_keeps _ _ _).mono (by decide)).trans ((detachLane_keeps _ _ _).mono (by decide))
  · exact ((setLane_keeps _ _ _).mono (by decide)).trans ((moveLane_keeps _ _ _).mono (by decide))
  · exact (setLane_keeps _ _ _).mono (by decide)

theorem restartLanes_leaves (s : State) : Keeps [.lanes, .free, .charge, .share, .queue] s s.restartLanes := by
  unfold State.restartLanes
  refine Keeps.trans ?_ (keeps_foldl _ (fun _ _ => restartLane_leaves _ _) _ _)
  intro p hp; cases p <;> simp_all [same]

theorem restartStages_runs (s : State) (k : SlotNo) : (s.restartStages.plans.slots.get k).runs = [] := by
  rw [State.restartStages, (restartLanes_leaves _ .runs (by decide)).1]
  exact restartPlans_runs _ k

theorem restartStages_table (s : State) : s.restartStages.plans.table = [] := by
  rw [State.restartStages, (restartLanes_leaves _ .runs (by decide)).2]
  exact restartPlans_table _

/-! ## Moves -/

theorem forceSlot_eases (i : SlotNo) (s : State) : Eases s (s.forceSlot i) :=
  (finishHead_eases i _ _ s).trans (forceRelease_eases i _)

theorem appendRun_eases (id : PlanId) (i : SlotNo) (s : State) : Eases s (s.appendRun id i) := by
  refine setPlan_eases fun a => ?_
  cases runs : (s.plans.slots.get i).runs with
  | nil => rw [State.headState, State.headRun, runs] at a; cases a
  | cons r rest => rw [State.headState, State.headRun, runs] at a; exact a

theorem eases_foldl {α : Type} (f : State → α → State) (h : ∀ s a, Eases s (f s a)) :
    ∀ (l : List α) (s : State), Eases s (l.foldl f s)
  | [], s => Eases.refl s
  | a :: l, s => (h s a).trans (eases_foldl f h l (f s a))

theorem takePlan_lanesRight (src : Source) (p : List Byte) {s : State} (right : s.LanesRight) : (s.takePlan src p).LanesRight := by
  unfold State.takePlan
  split
  next => exact right.of_eases (calm_of_keeps (hand_keeps _ s) (by decide)).eases
  next r _ =>
    dsimp only
    refine work_lanesRight (right.of_eases (Eases.trans ?_ (eases_foldl _ (fun u k => appendRun_eases r.id k u) r.mask _)))
      (workReady_of_waits (starts_wait _))
    exact eases_of_same rfl fun _ => rfl

theorem lanesRight_empty {s : State} (waits : s.lanes.waitList = []) (free : ∀ l i q, (s.lanes.table.get l).state ≠ .attached i q) :
    s.LanesRight :=
  ⟨by rw [waits]; exact List.nodup_nil, fun _ m => absurd (waits ▸ m) List.not_mem_nil, fun l _ i p _ a => absurd a (free l i p)⟩

theorem Move.lanesRight {s t : State} (h : Move s t) (right : s.LanesRight) : t.LanesRight := by
  cases h
  case calm h => exact right.of_eases h.eases
  case finish i o side => exact work_lanesRight (right.of_eases (finishHead_eases i o side s)) (workReady_one trivial)
  case force i => exact right.of_eases (forceSlot_eases i s)
  case forceGrant i =>
    have granted := grantRelease_keeps i (s.forceSlot i)
    exact right.of_eases ((forceSlot_eases i s).trans
      (eases_of_same (granted .lanes (by decide)) (heads_of_keeps granted (by decide))))
  case starts ks few => exact work_lanesRight right (workReady_of_waits (starts_wait ks))
  case unpin i => exact right.of_eases (forceRelease_eases i s)
  case advance i x head stands =>
    refine work_lanesRight right (workReady_one ?_)
    show s.headState i ≠ _
    rw [head]
    exact fun same => stands.unasked (Option.some.inj same)
  case retime i r x head before after =>
    refine right.of_eases (setRun_eases fun a => ?_)
    rw [headState_eq head] at a
    exact absurd (Option.some.inj a) before.unasked
  case plan src p => exact takePlan_lanesRight src p right
  case cancelQueued i r x rest id runs head found =>
    refine right.of_eases ?_
    have reported : Eases s (s.reportRun i x .cancelled 0) :=
      eases_of_same (reportRun_lanes _ _ _ _ _) fun k => headState_of_runs (by rw [reportRun_slots])
    refine reported.trans (setPlan_eases fun a => ?_)
    rw [State.headState, State.headRun, reportRun_slots, runs] at a
    exact a
  case setLane l y held ready =>
    refine right.of_eases ⟨.refl _, fun m i q a => ?_, fun _ _ a => a⟩
    have state : ((s.setLane l y).lanes.table.get m) = if m = l then y else s.lanes.table.get m := get_setAt _ _ _ _
    rw [state] at a
    split at a
    next same => rw [same]; exact held i q a
    next => exact a
  case grants u keeps waits held =>
    exact work_lanesRight (right.of_eases ⟨by rw [waits], held, fun k _ a => (heads_of_keeps keeps (by decide) k).trans a⟩)
      (workReady_one trivial)
  case wake => exact right.of_eases (wakeLanes_eases s)
  case lose l i q y attached lost out =>
    refine right.of_eases (Eases.trans (t := s.setLane l y) ⟨.refl _, fun m k b a => ?_, fun _ _ a => a⟩
      (laneDetached_eases i _))
    have state : ((s.setLane l y).lanes.table.get m) = if m = l then y else s.lanes.table.get m := get_setAt _ _ _ _
    rw [state] at a
    split at a
    next => exact absurd a (lost k b)
    next => exact a
  case extract i u leaving => exact right.of_eases (extract_eases i s)
  case restart =>
    exact lanesRight_empty (restartStages_waitList s) (restartStages_unattached s)

/-! ## Blocks that have just started, or stand in reset -/

/-- Runs and lanes as power-on and pin reset leave them. -/
structure State.NoRuns (s : State) : Prop where
  plans : s.plans = {}
  waitList : s.lanes.waitList = []
  dormant : ∀ l, (s.lanes.table.get l).state = .dormant

theorem clearBlocks_noRuns (s : State) : s.clearBlocks.NoRuns := ⟨rfl, rfl, forLanes rfl rfl rfl rfl⟩

theorem startBlocks_noRuns (s : State) (r : Record) (d : Bool) (hd : d = true → r = {}) : (s.startBlocks r d).NoRuns := by
  have started := (startBlocks_started r d s hd).1
  exact ⟨started.plans, started.waitList, fun l => (started.lane l).1⟩

theorem State.NoRuns.unattached {s : State} (h : s.NoRuns) (l : LaneNo) (i : SlotNo) (q : Bool) :
    (s.lanes.table.get l).state ≠ .attached i q := by rw [h.dormant]; exact nofun

theorem State.NoRuns.runs {s : State} (h : s.NoRuns) (i : SlotNo) : (s.plans.slots.get i).runs = [] := by
  rw [h.plans]
  exact forSix (P := fun k => (({} : Plans).slots.get k).runs = []) rfl rfl rfl rfl rfl rfl i

theorem passBit_headState (s : State) (k : SlotNo) : s.passBit.headState k = s.headState k :=
  heads_of_keeps (passBit_keeps s) (by decide) k

theorem passBit_eases (s : State) : Eases s s.passBit := by
  refine ⟨by rw [passBit_waitList], fun l i q a => ?_, fun k _ a => (passBit_headState s k).trans a⟩
  rw [passBit_laneState] at a
  exact a

theorem lanesRight_lasting : Lasting State.LanesRight :=
  lasting_of_moves (fun _ _ move => move.lanesRight) (fun s right => right.of_eases (passBit_eases s)) (fun _ _ _ _ right => right)
    (fun s => lanesRight_empty (clearBlocks_noRuns s).waitList (clearBlocks_noRuns s).unattached)
    (fun s r d hd => lanesRight_empty (startBlocks_noRuns s r d hd).waitList (startBlocks_noRuns s r d hd).unattached)

/-- Settles O48: every move eases waiting and attachments or makes them one by one (`Move.lanesRight`). -/
theorem lanesStayRight : Obligations.LanesStayRight := fun _ _ right stepped => lanesRight_lasting.step stepped right

end Sys2Proof.Machine
end

section
/-! PROOF. A slot with a lane, and one whose head run has left QUEUED, stays PRESENT and LOCKED on the lane's path (R109, R111,
R130): O49. -/

namespace Sys2Proof.Machine

/-! ## What an event must give -/

/-- The slot holds a tablet under a thrown bolt. -/
def State.Seated (s : State) (k : SlotNo) : Prop := s.isPresent k = true ∧ s.Locked k

theorem State.ServedRight.engaged {s : State} (right : s.ServedRight) {k : SlotNo} (e : s.Engaged k) : s.Seated k := by
  rcases e with ⟨l, q, held⟩ | ⟨x, head, left⟩
  · obtain ⟨present, locked, _⟩ := right.attached l k q held
    exact ⟨present, locked⟩
  · exact right.head k x head left

theorem State.ServedRight.onLane {s : State} (right : s.ServedRight) {l : LaneNo} {k : SlotNo} {q : Bool}
    (held : (s.lanes.table.get l).state = .attached k q) : (s.charge.get k).OnLane := by
  obtain ⟨_, _, path, working⟩ := right.attached l k q held
  exact ⟨path, working⟩

/-- Slots that stay engaged stay seated and on their path, and a slot that is newly engaged is seated, on its path. -/
structure Serves (s t : State) : Prop where
  seated : ∀ k, t.Engaged k → s.Seated k → t.Seated k
  held : ∀ l k q, (t.lanes.table.get l).state = .attached k q →
    ((∃ q', (s.lanes.table.get l).state = .attached k q') ∧ (s.isPresent k = true → (s.charge.get k).OnLane → (t.charge.get k).OnLane)) ∨
      (t.Seated k ∧ (t.charge.get k).OnLane)
  heads : ∀ k x, t.headState k = some x → x ≠ .queued → (∃ y, s.headState k = some y ∧ y ≠ .queued) ∨ t.Seated k
  tails : ∀ k, ∀ r ∈ (t.plans.slots.get k).runs.tail, r ∈ (s.plans.slots.get k).runs.tail ∨ r.state = .queued

theorem State.ServedRight.of_serves {s t : State} (right : s.ServedRight) (h : Serves s t) : t.ServedRight where
  attached l k q held := by
    rcases h.held l k q held with ⟨⟨q', before⟩, stays⟩ | ⟨⟨present, locked⟩, path, working⟩
    · have seated := right.engaged (.inl ⟨l, q', before⟩)
      obtain ⟨present, locked⟩ := h.seated k (.inl ⟨l, q, held⟩) seated
      obtain ⟨path, working⟩ := stays seated.1 (right.onLane before)
      exact ⟨present, locked, path, working⟩
    · exact ⟨present, locked, path, working⟩
  head k x head left := by
    rcases h.heads k x head left with ⟨y, before, started⟩ | seated
    · exact h.seated k (.inr ⟨x, head, left⟩) (right.engaged (.inr ⟨y, before, started⟩))
    · exact seated
  tail k r member := by
    rcases h.tails k r member with before | queued
    · exact right.tail k r before
    · exact queued

theorem Calm.serves {s t : State} (h : Calm s t) : Serves s t where
  seated k e := fun ⟨present, locked⟩ => by
    refine ⟨h.present k present, h.locked k ?_ locked⟩
    rcases e with ⟨l, q, held⟩ | ⟨x, head, left⟩
    · exact .inl ⟨l, q, h.lanes ▸ held⟩
    · exact .inr ⟨x, (h.headState k).symm.trans head, left⟩
  held l k q held := .inl ⟨⟨q, h.lanes ▸ held⟩, h.onLane k⟩
  heads k x head left := .inl ⟨x, (h.headState k).symm.trans head, left⟩
  tails k r m := .inl (h.runs k ▸ m)

/-! ## Events of the Plan Engine and the Lane Switch -/

section
variable {ps : List Part} {s t : State}

theorem seated_of_keeps (h : Keeps ps s t) (n : ∀ p ∈ [Part.monitor, .latch], p ∉ ps) (k : SlotNo) :
    t.Seated k ↔ s.Seated k := by
  have latch : t.latch = s.latch := h .latch (n _ (by simp))
  rw [State.Seated, State.Seated, isPresent_of_monitor (h .monitor (n _ (by simp))), State.Locked, State.Locked, latch]

/-- Run queues alone change. -/
theorem serves_of_runs (h : Keeps ps s t) (n : ∀ p ∈ [Part.monitor, .latch, .lanes, .charge], p ∉ ps)
    (heads : ∀ k x, t.headState k = some x → x ≠ .queued → (∃ y, s.headState k = some y ∧ y ≠ .queued) ∨ s.Seated k)
    (tails : ∀ k, ∀ r ∈ (t.plans.slots.get k).runs.tail, r ∈ (s.plans.slots.get k).runs.tail ∨ r.state = .queued) :
    Serves s t := by
  have seated := seated_of_keeps h (fun p m => n p (by revert m; simp; tauto))
  have lanes : t.lanes = s.lanes := h .lanes (n _ (by simp))
  have charge : t.charge = s.charge := h .charge (n _ (by simp))
  refine ⟨fun k _ before => (seated k).mpr before, fun l k q held => .inl ⟨⟨q, lanes ▸ held⟩, fun _ o => charge ▸ o⟩,
    fun k x head left => (heads k x head left).imp_right (seated k).mpr, tails⟩

/-- Lanes and power alone change; no lane is newly attached, and a slot that keeps its lane keeps its record but for what its
allocation makes of it. -/
theorem serves_of_power (h : Keeps ps s t) (n : ∀ p ∈ [Part.monitor, .latch, .runs], p ∉ ps)
    (held : ∀ l k q, (t.lanes.table.get l).state = .attached k q →
      (s.lanes.table.get l).state = .attached k q ∧ (s.charge.get k).Follows (t.charge.get k)) : Serves s t := by
  have seated := seated_of_keeps h (fun p m => n p (by revert m; simp; tauto))
  have runs : t.plans.slots = s.plans.slots := (h .runs (n _ (by simp))).1
  refine ⟨fun k _ before => (seated k).mpr before, fun l k q a => ?_, fun k x head left => ?_, fun k r m => .inl (runs ▸ m)⟩
  · obtain ⟨before, follows⟩ := held l k q a
    exact .inl ⟨⟨q, before⟩, fun _ o => follows.onLane o⟩
  · exact .inl ⟨x, (headState_of_runs (by rw [runs])).symm.trans head, left⟩

end

theorem laneDetached_others (i : SlotNo) (s : State) : OthersFollow i s (s.laneDetached i) :=
  (chargeEvent_follows i _ ({ s with free := s.free + 1 } : State)).2

theorem detachLane_others (l : LaneNo) (i : SlotNo) (s : State) : OthersFollow i s (s.detachLane l i) := fun k other =>
  laneDetached_others i (s.moveLane l (.scrubbing (momentAfter s.clock s.cfg.scrubTime))) k other

/-- A slot that loses its lane holds no other (R130). -/
theorem detachLane_serves {s : State} (right : s.LanesRight) {l : LaneNo} {i : SlotNo} {q : Bool}
    (attached : (s.lanes.table.get l).state = .attached i q) : Serves s (s.detachLane l i) := by
  refine serves_of_power (detachLane_keeps l i s) (by decide) fun m k b a => ?_
  rw [detachLane_lanes, moveLane_state] at a
  split at a
  next => cases a
  next other =>
    have elsewhere : k ≠ i := by
      rintro rfl
      exact other (right.2.2 m l k b q a attached)
    exact ⟨a, detachLane_others l i s k elsewhere⟩

theorem laneSide_serves {s : State} (right : s.LanesRight) (i : SlotNo) (side : LaneSide) : Serves s (s.laneSide i side) := by
  rw [laneSide_eq]
  split
  next l taken =>
    obtain ⟨q, attached⟩ := laneTaken_attached taken
    exact detachLane_serves right attached
  next => exact (Calm.refl s).serves

theorem LanesRest.serves {ps : List Part} {s t : State} (h : LanesRest s t) (keeps : Keeps ps s t)
    (n : ∀ p ∈ [Part.monitor, .latch, .runs, .charge], p ∉ ps) : Serves s t := by
  refine serves_of_power keeps (fun p m => n p (by revert m; simp; tauto)) fun l k q a => ⟨?_, ?_⟩
  · exact (a ▸ h.2 l : LaneState.Rests _ (.attached k q)).attached
  · exact AllFollow.of_keeps keeps (n _ (by simp)) k

/-- A slot of the Plan Engine that keeps its run queue. -/
theorem setPlan_calm {i : SlotNo} {x : PlanSlot} {s : State} (h : x.runs = (s.plans.slots.get i).runs) : Calm s (s.setPlan i x) := by
  refine ⟨rfl, fun k => ?_, rfl, rfl, fun _ p => p, fun _ _ l => l, fun _ _ o => o⟩
  rw [setPlan_slot]
  split
  next same => rw [same, h]
  next => rfl

theorem setFloor_calm (i : SlotNo) (q : Nat) (s : State) : Calm s (s.setFloor i q) :=
  (setPlan_calm (x := { s.plans.slots.get i with floor := q }) rfl).trans (settled_calm _)

theorem begin_calm (i : SlotNo) (id : PlanId) (phase : PlanPhase) (s : State) :
    Calm s (s.setPlan i ((s.plans.slots.get i).begin_ id phase)) := setPlan_calm (begin_runs _ _ _)

theorem leaveWaitList_serves (i : SlotNo) (s : State) : Serves s (s.leaveWaitList i) :=
  serves_of_power (leaveWaitList_keeps i s) (by decide) fun _ k _ a => ⟨a, ChargeSlot.Follows.refl _⟩

theorem setLane_serves {l : LaneNo} {y : Lane} {s : State}
    (held : ∀ i q, y.state = .attached i q → (s.lanes.table.get l).state = .attached i q) : Serves s (s.setLane l y) := by
  refine serves_of_power (setLane_keeps l y s) (by decide) fun m k q a => ⟨?_, ChargeSlot.Follows.refl _⟩
  have lane : (s.setLane l y).lanes.table.get m = if m = l then y else s.lanes.table.get m := get_setAt _ _ _ _
  rw [lane] at a
  split at a
  next same => rw [same]; exact held k q a
  next => exact a

/-- The head run of one slot changes, to one that is QUEUED, that follows one that has left QUEUED, or whose slot is seated. -/
theorem setRun_serves {i : SlotNo} {r : Run} {s : State}
    (h : r.state ≠ .queued → (∃ y, s.headState i = some y ∧ y ≠ .queued) ∨ s.Seated i) : Serves s (s.setRun i r) := by
  refine serves_of_runs (setPlan_keeps i _ s) (by decide) (fun k x head left => ?_) (fun k x m => .inl ?_)
  · rw [State.headState, setRun_headRun] at head
    split at head
    next same =>
      rw [same]
      exact h (by rintro queued; exact left ((Option.some.inj head).symm.trans queued))
    next => exact .inl ⟨x, head, left⟩
  · rw [setRun_runs] at m
    split at m
    next same => rw [same]; exact m
    next => exact m

/-- The head run of a slot takes another step or use of its lane. -/
theorem setRun_same_serves {i : SlotNo} {r x : Run} {s : State} (head : s.headRun i = some r) (same : x.state = r.state) :
    Serves s (s.setRun i x) := setRun_serves fun left => .inl ⟨r.state, headState_eq head, same ▸ left⟩

/-! ## The end of a run -/

/-- The head run leaves its queue: the run behind it is QUEUED (R109). -/
theorem endRun_served {s : State} (right : s.ServedRight) (i : SlotNo) (o : Answer) (n : Nat) :
    (s.endRun i o n).ServedRight := by
  have runs : ∀ k, ((s.endRun i o n).plans.slots.get k).runs =
      if k = i then (s.plans.slots.get i).runs.tail else (s.plans.slots.get k).runs := fun k => by
    rw [endRun_slot_eq]; split <;> rfl
  refine right.of_serves (serves_of_runs (endRun_keeps i o n s) (by decide) (fun k x head left => ?_) (fun k r m => .inl ?_))
  · rw [State.headState, State.headRun, runs] at head
    split at head
    next =>
      obtain ⟨r, first, rfl⟩ := Option.map_eq_some_iff.mp head
      exact absurd (right.tail i r (List.mem_of_mem_head? first)) left
    next => exact .inl ⟨x, head, left⟩
  · rw [runs] at m
    split at m
    next same => rw [same]; exact List.mem_of_mem_tail m
    next => exact m

theorem finishHead_served {s : State} (right : s.ServedRight) (lanes : s.LanesRight) (i : SlotNo) (o : Answer)
    (side : LaneSide) : (s.finishHead i o side).ServedRight := by
  cases head : s.headRun i with
  | none => rw [finishHead_of_none o side head]; exact right
  | some r =>
    rw [finishHead_of_head o side head]
    have left := (right.of_serves (setFloor_calm i 0 s).serves).of_serves (leaveWaitList_serves i _)
    have still := (lanes.of_eases (setFloor_eases i 0 s)).of_eases (leaveWaitList_eases i _)
    exact endRun_served (left.of_serves (laneSide_serves still i side)) i o r.step

theorem forceSlot_served {s : State} (right : s.ServedRight) (lanes : s.LanesRight) (i : SlotNo) :
    (s.forceSlot i).ServedRight :=
  (finishHead_served right lanes i .forced .force).of_serves
    (laneSide_serves (lanes.of_eases (finishHead_eases i _ _ s)) i .force)

/-- A slot from which the lane is taken by force holds none (R130). -/
theorem laneSide_force_unattached {s : State} (lanes : s.LanesRight) (i : SlotNo) : (s.laneSide i .force).laneOf i = none := by
  rw [laneOf_eq_none_iff]
  intro m q a
  rw [laneSide_state] at a
  split at a
  next => cases a
  next kept =>
    cases taken : s.laneTaken i .force with
    | none => exact laneOf_eq_none_iff.mp (laneTaken_force_none_iff.mp taken) m q a
    | some l =>
      obtain ⟨b, attached⟩ := laneTaken_attached taken
      exact kept (by rw [taken, lanes.2.2 m l i q b a attached])

/-- A slot taken away from provisioning is no more engaged (R93). -/
theorem forceSlot_free {s : State} (right : s.ServedRight) (lanes : s.LanesRight) (i : SlotNo) : ¬ (s.forceSlot i).Engaged i := by
  have unattached := laneSide_force_unattached (lanes.of_eases (finishHead_eases i .forced .force s)) i
  rintro (⟨l, q, attached⟩ | ⟨x, head, left⟩)
  · exact laneOf_eq_none_iff.mp unattached l q attached
  · rw [State.headState, State.headRun, State.forceSlot, (forceRelease_keeps i _ .runs (by decide)).1, finishHead_runs, if_pos rfl]
      at head
    obtain ⟨r, first, rfl⟩ := Option.map_eq_some_iff.mp head
    exact left (right.tail i r (List.mem_of_mem_head? first))

/-! ## The work of one event -/

/-- The oldest waiting slot, which is seated, takes its lane and the lane's path at 5 V (R32, R134). -/
theorem grantLane_serves {s : State} (l : LaneNo) {i : SlotNo} (pinned : Bool) (rest : List (SlotNo × Bool))
    (seated : s.Seated i) : Serves s (s.grantLane l i pinned rest) := by
  have keeps := grantLane_keeps s l i pinned rest
  have same := seated_of_keeps keeps (by decide)
  have runs : (s.grantLane l i pinned rest).plans.slots = s.plans.slots := (keeps .runs (by decide)).1
  obtain ⟨own, others⟩ := chargeEvent_follows i
    (ChargeSlot.onLane s.cfg s.clock (s.monitor.get i) .lane .five)
    (({ s with lanes := { s.lanes with waitList := rest } } : State).moveLane l (.attached i pinned))
  refine ⟨fun k _ before => (same k).mpr before, fun m k q a => ?_, fun k x head left => ?_, fun k r mem => .inl (runs ▸ mem)⟩
  · by_cases granted : k = i
    · subst granted
      exact .inr ⟨(same k).mpr seated, own.onLane (onLane_lane _ _ _ _)⟩
    · rw [grantLane_lanes, moveLane_state] at a
      split at a
      next => injection a with a; exact absurd a.symm granted
      next => exact .inl ⟨⟨q, a⟩, fun _ o => (others k granted).onLane o⟩
  · exact .inl ⟨x, (headState_of_runs (by rw [runs])).symm.trans head, left⟩

theorem State.ServedRight.waiting {s : State} (right : s.ServedRight) (lanes : s.LanesRight) {w : SlotNo × Bool}
    (waits : w ∈ s.lanes.waitList) : s.Seated w.1 :=
  right.engaged (.inr ⟨_, (lanes.2.1 w waits).2, nofun⟩)

/-- The work of one event: the slot whose step the front works on is seated. -/
def ServedWork (s : State) (ws : List Work) : Prop := s.ServedRight ∧ LanesWork s ws ∧ WorkReady s.Seated ws

theorem servedWork_of {s t : State} {w : Work} {more ws : List Work} (lanes : LanesWork s (w :: ws)) (piece : Piece s w t more)
    (right : t.ServedRight) (ready : WorkReady t.Seated more) : ServedWork t (more ++ ws) :=
  ⟨right, lanesWork s t w more ws piece lanes, workReady_append more ready lanes.2.2⟩

theorem servedWork : WorkKeeps ServedWork := by
  rintro s t w more ws piece ⟨right, work, front, _⟩
  have lanes := work.1
  have after := servedWork_of work piece
  cases piece
  case none => exact after right trivial
  case fail i r o head queued => exact after (endRun_served right i o 0) (workReady_one trivial)
  case enter i r p head found queued present locked =>
    have calm := begin_calm i p.id p.phase s
    exact after (right.of_serves calm.serves) (workReady_one ⟨present, locked⟩)
  case skip i r head => exact after right (workReady_one front)
  case useLane i r head => exact after (right.of_serves (setRun_same_serves head rfl)) (workReady_one front)
  case noLanes i r head none => exact after (finishHead_served right lanes i _ _) (workReady_one trivial)
  case ask i r pinned head free =>
    have asked : Serves s (s.setRun i { r with state := .laneWait }) := setRun_serves fun _ => .inr front
    refine after (State.ServedRight.of_serves (right.of_serves asked) ?_) (workReady_one trivial)
    exact serves_of_power (ps := [.lanes]) (by intro p hp; cases p <;> simp_all [same, State.askLane]) (by decide)
      fun _ k _ a => ⟨a, ChargeSlot.Follows.refl _⟩
  case floor i r q head =>
    have seated := seated_of_keeps (setFloor_keeps i q s) (by decide) i
    exact after (right.of_serves (setFloor_calm i q s).serves) (workReady_one (seated.mpr front))
  case stand i r x head stands => exact after (right.of_serves (setRun_serves fun _ => .inr front)) trivial
  case detach i r head =>
    have released := right.of_serves (laneSide_serves lanes i .release)
    have heads : (s.releaseLane i).headRun i = s.headRun i := by
      rw [State.headRun, (releaseLane_keeps i s .runs (by decide)).1]; rfl
    have seated := seated_of_keeps (releaseLane_keeps i s) (by decide) i
    exact after (State.ServedRight.of_serves released (setRun_same_serves (heads.trans head) rfl))
      (workReady_one (seated.mpr front))
  case mark i r p head found => exact after (right.of_serves (setPlan_calm (x := { s.plans.slots.get i with buildTag := some p.tag, progress := none }) rfl).serves) (workReady_one front)
  case next i r p head found more => exact after (right.of_serves (setRun_same_serves head rfl)) (workReady_one front)
  case done i r head => exact after (finishHead_served right lanes i _ _) (workReady_one trivial)
  case granted i pinned rest l r u more waits ready head asked goes =>
    have seated := right.waiting lanes (w := (i, pinned)) (by rw [waits]; simp)
    have still := (seated_of_keeps (grantLane_keeps s l i pinned rest) (by decide) i).mpr seated
    have attached := right.of_serves (grantLane_serves l pinned rest seated)
    refine after (attached.of_serves (setRun_serves fun _ => .inr still)) ?_
    rcases goes with rfl | rfl
    · exact workReady_one trivial
    · exact ⟨still, by simp [Work.Waits]⟩
  case unasked i pinned rest l waits ready unasked =>
    exact absurd (lanes.2.1 (i, pinned) (by rw [waits]; simp)).2 unasked
  case rest idle =>
    have woken := right.of_serves ((wakeLanes_rests s).serves (wakeLanes_keeps s) (by decide))
    exact after (woken.of_serves ((startIdle_rests _).serves (startIdle_keeps _) (by decide))) trivial

theorem work_served {ws : List Work} {s : State} (right : s.ServedRight) (lanes : s.LanesRight)
    (ready : WorkReady s.Unasked ws) (seated : WorkReady s.Seated ws) : (s.work ws).ServedRight := by
  obtain ⟨_, after, _⟩ := servedWork.work ⟨right, ⟨lanes, ready⟩, seated⟩
  exact after

/-! ## Moves -/

theorem latchExtraction_others (i : SlotNo) (s : State) {k : SlotNo} (other : k ≠ i) :
    (s.latchExtraction i).latch.get k = s.latch.get k := by
  have report : (s.tamperReport i .extraction false).latch = s.latch := tamperReport_keeps i _ _ s .latch (by decide)
  unfold State.latchExtraction
  dsimp only
  split
  · rw [report]
  · rw [report]
  · exact get_setAt_ne _ _ _ _ other
  · exact get_setAt_ne _ _ _ _ other
  · rfl

/-- The other slots at an extraction (R10, R20, R74). -/
theorem unseat_others (i : SlotNo) (s : State) {k : SlotNo} (other : k ≠ i) : (s.unseat i).monitor.get k = s.monitor.get k ∧
    (s.unseat i).latch.get k = s.latch.get k ∧ (s.charge.get k).Follows ((s.unseat i).charge.get k) := by
  unfold State.unseat
  dsimp only
  generalize hu : (s.setMonitor i (s.monitor.get i).clear).notice .extracted (some i) (s.monitor.get i).q = u
  have told := notice_keeps .extracted (some i) (s.monitor.get i).q (s.setMonitor i (s.monitor.get i).clear)
  rw [hu] at told
  have monitor : u.monitor.get k = s.monitor.get k := by
    rw [show u.monitor = setAt s.monitor i (s.monitor.get i).clear from told .monitor (by decide)]
    exact get_setAt_ne _ _ _ _ other
  have latch : u.latch = s.latch := told .latch (by decide)
  have charge : u.charge = s.charge := told .charge (by decide)
  have event := chargeEvent_keeps i ChargeSlot.extract u
  have follows := (chargeEvent_follows i ChargeSlot.extract u).2 k other
  generalize u.chargeEvent i ChargeSlot.extract = v at event follows
  have noted := latchExtraction_keeps i v
  have monitorV : v.monitor = u.monitor := event .monitor (by decide)
  have monitorW : (v.latchExtraction i).monitor = v.monitor := noted .monitor (by decide)
  have latchV : v.latch = u.latch := event .latch (by decide)
  have chargeV : (v.latchExtraction i).charge = v.charge := noted .charge (by decide)
  refine ⟨?_, ?_, ?_⟩
  · rw [← monitor, ← monitorV, ← monitorW]; rfl
  · rw [← latch, ← latchV, ← latchExtraction_others i v other]; rfl
  · rw [← charge]
    have same : ((v.latchExtraction i).setCustody i
        { (v.latchExtraction i).custody.slots.get i with dueUntil := none, duePassed := false }).charge = v.charge := chargeV
    rw [same]
    exact follows

theorem planExtraction_others (i : SlotNo) (s : State) : AllFollow s (s.planExtraction i) := by
  unfold State.planExtraction
  generalize hv : s.setPlan i { s.plans.slots.get i with progress := none, buildTag := none } = v
  have charge : v.charge = s.charge := hv ▸ rfl
  have ended : AllFollow v (v.finishHead i .extracted .keep) := by
    cases head : v.headRun i with
    | none => rw [finishHead_of_none _ _ head]; exact AllFollow.refl v
    | some r =>
      rw [finishHead_of_head _ _ head]
      have floored : AllFollow v (v.setFloor i 0) := fun k =>
        settled_follows (v.setPlan i { v.plans.slots.get i with floor := 0 }) k
      have kept : Keeps [.lanes, .runs, .queue] (v.setFloor i 0)
          ((((v.setFloor i 0).leaveWaitList i).laneSide i .keep).endRun i .extracted r.step) :=
        ((leaveWaitList_keeps i _).mono (by decide)).trans ((endRun_keeps i _ _ _).mono (by decide))
      exact floored.trans (AllFollow.of_keeps kept (by decide))
  intro k
  have queued : ((v.finishHead i .extracted .keep).failQueued i).charge = (v.finishHead i .extracted .keep).charge :=
    failQueued_keeps i _ .charge (by decide)
  rw [queued, ← charge]
  exact ended k

theorem leave_keeps (i : SlotNo) (s : State) : Keeps planParts s ((s.leaveWaitList i).forceRelease i) :=
  ((leaveWaitList_keeps i s).mono (by decide)).trans ((forceRelease_keeps i _).mono (by decide))

theorem leave_others (i : SlotNo) (s : State) : OthersFollow i s ((s.leaveWaitList i).forceRelease i) := by
  rw [forceRelease_eq]
  split
  next l _ => exact fun k other => detachLane_others l i (s.leaveWaitList i) k other
  next => exact fun k _ => ChargeSlot.Follows.refl _

theorem extract_served {s : State} (right : s.ServedRight) (lanes : s.LanesRight) (i : SlotNo) : (s.extract i).ServedRight := by
  have still : ((s.unseat i).planExtraction i).LanesRight :=
    lanes.of_eases ((eases_of_same (unseat_lanes i s) (heads_of_keeps (unseat_keeps i s) (by decide))).trans
      (planExtraction_eases i _))
  have eased := extract_eases i s
  have free : (s.extract i).laneOf i = none := by
    rw [extract_eq]
    exact laneSide_force_unattached (still.of_eases (leaveWaitList_eases i _)) i
  have runs := extract_runs i s
  have gone : ∀ k, (s.extract i).Engaged k → k ≠ i := by
    rintro k (⟨l, q, held⟩ | ⟨x, head, _⟩) rfl
    · exact laneOf_eq_none_iff.mp free l q held
    · rw [State.headState, State.headRun, runs, if_pos rfl] at head
      cases head
  have after : Keeps planParts (s.unseat i) (s.extract i) := (planExtraction_keeps i _).trans (leave_keeps i _)
  have monitor : (s.extract i).monitor = (s.unseat i).monitor := after .monitor (by decide)
  have latch : (s.extract i).latch = (s.unseat i).latch := after .latch (by decide)
  have released : OthersFollow i ((s.unseat i).planExtraction i) (s.extract i) := leave_others i _
  refine right.of_serves ⟨fun k e => ?_, fun l k q held => .inl ⟨⟨q, eased.held l k q held⟩, fun _ o => ?_⟩, fun k x head left => ?_,
    fun k r m => .inl ?_⟩
  · obtain ⟨monitorK, latchK, _⟩ := unseat_others i s (gone k e)
    rw [State.Seated, State.Seated, State.isPresent, State.isPresent, State.Locked, State.Locked, monitor, latch, monitorK, latchK]
    exact id
  · have other := gone k (.inl ⟨l, q, held⟩)
    obtain ⟨_, _, follows⟩ := unseat_others i s other
    exact (released k other).onLane ((planExtraction_others i _ k).onLane (follows.onLane o))
  · have other := gone k (.inr ⟨x, head, left⟩)
    exact .inl ⟨x, (headState_of_runs (by rw [runs, if_neg other])).symm.trans head, left⟩
  · rw [runs] at m
    split at m
    · cases m
    · exact m

theorem appendRun_serves (id : PlanId) (i : SlotNo) (s : State) : Serves s (s.appendRun id i) := by
  have runs : ∀ k, ((s.appendRun id i).plans.slots.get k).runs = if k = i then (s.plans.slots.get i).runs ++
      [{ plan := id, state := .queued, step := 1, usingLane := false }] else (s.plans.slots.get k).runs := fun k => by
    rw [State.appendRun, setPlan_slot]; split <;> rfl
  refine serves_of_runs (appendRun_keeps id i s) (by decide) (fun k x head left => .inl ⟨x, ?_, left⟩) (fun k r m => ?_)
  · rw [← head, State.headState, State.headState, State.headRun, State.headRun, runs]
    split
    next same =>
      rw [same]
      cases queue : (s.plans.slots.get i).runs with
      | nil =>
        rw [State.headState, State.headRun, runs, if_pos same, queue] at head
        cases head
        exact absurd rfl left
      | cons => rfl
    next => rfl
  · rw [runs] at m
    split at m
    next same =>
      rw [same]
      cases queue : (s.plans.slots.get i).runs with
      | nil => rw [queue] at m; cases m
      | cons x rest =>
        rw [queue] at m
        rcases List.mem_append.mp m with old | new
        · exact .inl old
        · rw [List.mem_singleton] at new
          rw [new]
          exact .inr rfl
    next => exact .inl m

theorem appendRuns_served (id : PlanId) : ∀ (is : List SlotNo) {s : State}, s.ServedRight →
    (forSlots is (State.appendRun id) s).ServedRight
  | [], _, right => right
  | i :: is, _, right => appendRuns_served id is (right.of_serves (appendRun_serves id i _))

/-- The record of an accepted plan stands in the table, and ACCEPTED is handed (R109). -/
def State.planTaken (src : Source) (r : PlanRecord) (s : State) : State :=
  ({ s with plans := { s.plans with table := s.plans.table ++ [r] } } : State).result src r.id 255 .accepted 0

theorem planTaken_keeps (src : Source) (r : PlanRecord) (s : State) : Keeps [.runs, .queue] s (s.planTaken src r) := by
  refine Keeps.trans (t := { s with plans := { s.plans with table := s.plans.table ++ [r] } }) ?_
    ((hand_keeps _ _).mono (by decide))
  intro p hp; cases p <;> simp_all [same]

theorem planTaken_slots (src : Source) (r : PlanRecord) (s : State) : (s.planTaken src r).plans.slots = s.plans.slots :=
  (hand_keeps _ ({ s with plans := { s.plans with table := s.plans.table ++ [r] } } : State) .runs (by decide)).1

theorem planTaken_table (src : Source) (r : PlanRecord) (s : State) :
    (s.planTaken src r).plans.table = s.plans.table ++ [r] :=
  (hand_keeps _ ({ s with plans := { s.plans with table := s.plans.table ++ [r] } } : State) .runs (by decide)).2

theorem takePlan_served (src : Source) (p : List Byte) {s : State} (right : s.ServedRight) (lanes : s.LanesRight) :
    (s.takePlan src p).ServedRight := by
  unfold State.takePlan
  split
  next => exact right.of_serves (calm_of_keeps (hand_keeps _ s) (by decide)).serves
  next r _ =>
    dsimp only
    have taken := planTaken_keeps src r s
    have started : Serves s (s.planTaken src r) := serves_of_runs taken (by decide)
      (fun k x head left => .inl ⟨x, (headState_of_runs (by rw [planTaken_slots])).symm.trans head, left⟩)
      (fun k x m => .inl (by rw [planTaken_slots] at m; exact m))
    have eased : Eases s (s.planTaken src r) := eases_of_same (taken .lanes (by decide))
      fun k => headState_of_runs (by rw [planTaken_slots])
    exact work_served (appendRuns_served r.id r.mask (right.of_serves started))
      (lanes.of_eases (eased.trans (eases_foldl _ (fun u k => appendRun_eases r.id k u) r.mask _)))
      (workReady_of_waits (starts_wait _)) (workReady_of_waits (starts_wait _))

theorem Move.served {s t : State} (h : Move s t) (lanes : s.LanesRight) (right : s.ServedRight) : t.ServedRight := by
  have waits : ∀ (u : State) ks, WorkReady u.Seated (List.map Work.start ks) := fun _ ks => workReady_of_waits (starts_wait ks)
  cases h
  case calm h => exact right.of_serves h.serves
  case finish i o side =>
    exact work_served (finishHead_served right lanes i o side) (lanes.of_eases (finishHead_eases i o side s))
      (workReady_one trivial) (workReady_one trivial)
  case force i => exact forceSlot_served right lanes i
  case forceGrant i =>
    exact (forceSlot_served right lanes i).of_serves (grantRelease_calm (forceSlot_free right lanes i)).serves
  case starts ks few => exact work_served right lanes (workReady_of_waits (starts_wait ks)) (waits _ ks)
  case unpin i => exact right.of_serves (laneSide_serves lanes i .force)
  case advance i x head stands =>
    refine work_served right lanes (workReady_one ?_) (workReady_one ?_)
    · show s.headState i ≠ _
      rw [head]
      exact fun same => stands.unasked (Option.some.inj same)
    · exact right.engaged (.inr ⟨x, head, by rintro rfl; exact stands⟩)
  case retime i r x head before after =>
    exact right.of_serves (setRun_serves fun _ => .inl ⟨r.state, headState_eq head, by intro queued; rw [queued] at before; exact before⟩)
  case plan src p => exact takePlan_served src p right lanes
  case cancelQueued i r x rest id runs head found =>
    have reported : Serves s (s.reportRun i x .cancelled 0) := serves_of_runs (reportRun_keeps _ _ _ _ _) (by decide)
      (fun k y h l => .inl ⟨y, (headState_of_runs (by rw [reportRun_slots])).symm.trans h, l⟩)
      (fun k y m => .inl (by rw [reportRun_slots] at m; exact m))
    refine State.ServedRight.of_serves (right.of_serves reported) (serves_of_runs (setPlan_keeps _ _ _) (by decide)
      (fun k y h l => .inl ⟨y, ?_, l⟩) (fun k y m => .inl ?_))
    · rw [← h, State.headState, State.headState, State.headRun, State.headRun, setPlan_slot]
      split
      next same => rw [reportRun_slots, same, runs]; rfl
      next => rfl
    · rw [setPlan_slot] at m
      split at m
      next same =>
        rw [reportRun_slots, same, runs]
        exact List.mem_of_mem_filter m
      next => exact m
  case setLane l y held ready => exact right.of_serves (setLane_serves held)
  case grants u keeps waits' held =>
    have eased : Eases s u := ⟨by rw [waits'], held, fun k _ a => (heads_of_keeps keeps (by decide) k).trans a⟩
    have charge : u.charge = s.charge := keeps .charge (by decide)
    refine work_served (right.of_serves (serves_of_power keeps (by decide) fun l k q a => ⟨held l k q a, ?_⟩))
      (lanes.of_eases eased) (workReady_one trivial) (workReady_one trivial)
    rw [charge]
    exact ChargeSlot.Follows.refl _
  case wake => exact right.of_serves ((wakeLanes_rests s).serves (wakeLanes_keeps s) (by decide))
  case lose l i q y attached lost out =>
    refine right.of_serves (serves_of_power (ps := [.lanes, .free, .charge, .share, .queue])
      (((setLane_keeps l y s).mono (by decide)).trans ((laneDetached_keeps i _).mono (by decide))) (by decide)
      fun m k b a => ?_)
    have lane : (s.setLane l y).lanes.table.get m = if m = l then y else s.lanes.table.get m := get_setAt _ _ _ _
    rw [laneDetached_lanes, lane] at a
    split at a
    next => exact absurd a (lost k b)
    next other =>
      have elsewhere : k ≠ i := by
        rintro rfl
        exact other (lanes.2.2 m l k b q a attached)
      exact ⟨a, laneDetached_others i (s.setLane l y) k elsewhere⟩
  case extract i u leaving => exact extract_served right lanes i
  case restart =>
    refine ⟨fun l i q a => absurd a (restartStages_unattached s l i q), fun i x head => ?_, fun i r m => ?_⟩
    · rw [State.headState, State.headRun, restartStages_runs] at head; cases head
    · rw [restartStages_runs] at m; cases m

/-! ## Every step -/

theorem passBit_serves (s : State) : Serves s s.passBit := by
  have keeps := passBit_keeps s
  have runs : s.passBit.plans.slots = s.plans.slots := (keeps .runs (by decide)).1
  have latch : s.passBit.latch = s.latch := keeps .latch (by decide)
  have charge : s.passBit.charge = s.charge := keeps .charge (by decide)
  refine ⟨fun k _ => ?_, fun l k q a => .inl ⟨⟨q, (passBit_laneState s l).symm.trans a⟩, fun _ o => charge ▸ o⟩,
    fun k x head left => .inl ⟨x, (passBit_headState s k).symm.trans head, left⟩, fun k r m => .inl (runs ▸ m)⟩
  rw [State.Seated, State.Seated, passBit_isPresent, State.Locked, State.Locked, latch]
  exact id

theorem State.NoRuns.served {s : State} (h : s.NoRuns) : s.ServedRight where
  attached l i q a := absurd a (h.unattached l i q)
  head i x head := by rw [State.headState, State.headRun, h.runs] at head; cases head
  tail i r m := by rw [h.runs] at m; cases m

theorem State.NoRuns.lanesRight {s : State} (h : s.NoRuns) : s.LanesRight := lanesRight_empty h.waitList h.unattached

theorem served_lasting : Lasting fun s => s.ServedRight ∧ s.LanesRight :=
  lasting_of_moves (fun _ _ move => fun ⟨right, lanes⟩ => ⟨move.served lanes right, move.lanesRight lanes⟩)
    (fun s => fun ⟨right, lanes⟩ => ⟨right.of_serves (passBit_serves s), lanes.of_eases (passBit_eases s)⟩)
    (fun _ _ _ _ => fun ⟨right, lanes⟩ => ⟨⟨right.attached, right.head, right.tail⟩, lanes⟩)
    (fun s => ⟨(clearBlocks_noRuns s).served, (clearBlocks_noRuns s).lanesRight⟩)
    (fun s r d hd => ⟨(startBlocks_noRuns s r d hd).served, (startBlocks_noRuns s r d hd).lanesRight⟩)

/-- A slot on its lane's path gives 5 V or nothing (R130). -/
theorem outputVolts_onLane {s : State} (power : s.PowerRight) {i : SlotNo} (o : (s.charge.get i).OnLane) :
    (s.charge.get i).outputVolts = 5 ∨ (s.charge.get i).outputVolts = 0 := by
  unfold ChargeSlot.outputVolts
  split
  next on =>
    refine .inl ?_
    by_cases off : (s.charge.get i).phase = .off
    · have right := (power i).1
      rw [ChargeSlot.Right, off] at right
      exact absurd (right.1.symm.trans on) nofun
    · rw [o.2 off]; rfl
  next => exact .inr rfl

/-- Settles O49: every move serves the slots that it leaves engaged (`Move.served`). -/
theorem attachedSlotsStayServed : Obligations.AttachedSlotsStayServed := by
  intro s t right lanes power stepped
  obtain ⟨after, _⟩ := served_lasting.step stepped ⟨right, lanes⟩
  exact ⟨after, fun l i q a => outputVolts_onLane (powerRight_lasting.step stepped power) (after.onLane a)⟩

end Sys2Proof.Machine
end

section
/-! PROOF. The plan table and the run queues agree (R108 to R110): every move keeps it. -/

namespace Sys2Proof.Machine

/-! ## Counting the runs of a plan -/

/-- The number of runs of a plan that a queue holds. -/
def runsOf (id : PlanId) (rs : List Run) : Nat := (rs.filter (fun r => r.plan = id)).length

theorem runsOf_eq_zero_iff {id : PlanId} {rs : List Run} : runsOf id rs = 0 ↔ ∀ r ∈ rs, r.plan ≠ id := by
  simp [runsOf]

theorem runsOf_cons (id : PlanId) (r : Run) (rs : List Run) :
    runsOf id (r :: rs) = (if r.plan = id then 1 else 0) + runsOf id rs := by
  by_cases named : r.plan = id
  · simp [runsOf, named, Nat.add_comm]
  · simp [runsOf, named]

theorem runsOf_append (id : PlanId) (rs qs : List Run) : runsOf id (rs ++ qs) = runsOf id rs + runsOf id qs := by
  simp [runsOf]

theorem runsOf_congr {id : PlanId} {rs qs : List Run} (h : rs.map (·.plan) = qs.map (·.plan)) : runsOf id rs = runsOf id qs := by
  have plans : ∀ xs : List Run, runsOf id xs = ((xs.map (·.plan)).filter (· = id)).length := fun xs => by
    rw [List.filter_map, List.length_map]; rfl
  rw [plans, plans, h]

/-- A queue without the runs of a plan. -/
theorem runsOf_without {id other : PlanId} (rs : List Run) : runsOf other (rs.filter (fun r => r.plan ≠ id)) =
    if other = id then 0 else runsOf other rs := by
  split
  next same => rw [runsOf_eq_zero_iff]; intro r m; rw [same]; simpa using (List.mem_filter.mp m).2
  next differ =>
    unfold runsOf
    rw [List.filter_filter]
    congr 1
    refine List.filter_congr fun r _ => ?_
    by_cases named : r.plan = other
    · simp [named, differ]
    · simp [named]

theorem runsOf_one {id : PlanId} {rs : List Run} (once : (rs.map (·.plan)).Nodup) {x : Run} (held : x ∈ rs)
    (named : x.plan = id) : runsOf id rs = 1 := by
  induction rs with
  | nil => cases held
  | cons r rs ih =>
    rw [runsOf_cons]
    obtain ⟨absent, once⟩ := List.nodup_cons.mp once
    rcases List.mem_cons.mp held with rfl | held
    · have none : runsOf id rs = 0 := runsOf_eq_zero_iff.mpr fun r m same => absent (List.mem_map.mpr ⟨r, m, same.trans named.symm⟩)
      rw [if_pos named, none]
    · have other : r.plan ≠ id := fun same => absent (List.mem_map.mpr ⟨x, held, named.trans same.symm⟩)
      rw [if_neg other, ih once held]

theorem sumSix_eq_sum (f : SlotNo → Nat) : sumSix f = ∑ i, f i := (Fin.sum_univ_six f).symm

/-- A sum of which one part changes. -/
theorem sumSix_change {f g : SlotNo → Nat} (i : SlotNo) (others : ∀ k, k ≠ i → g k = f k) :
    sumSix g + f i = sumSix f + g i := by
  rw [sumSix_eq_sum, sumSix_eq_sum, ← Finset.add_sum_erase _ f (Finset.mem_univ i), ← Finset.add_sum_erase _ g (Finset.mem_univ i)]
  have same : ∑ k ∈ Finset.univ.erase i, g k = ∑ k ∈ Finset.univ.erase i, f k :=
    Finset.sum_congr rfl fun k m => others k (Finset.ne_of_mem_erase m)
  omega

theorem le_sumSix (f : SlotNo → Nat) (i : SlotNo) : f i ≤ sumSix f := by
  rw [sumSix_eq_sum]
  exact Finset.single_le_sum (fun _ _ => Nat.zero_le _) (Finset.mem_univ i)

/-! ## Closing a run (R110) -/

theorem closeRun_ids (id : PlanId) (table : List PlanRecord) :
    ((closeRun id table).map (·.id)).Sublist (table.map (·.id)) := by
  induction table with
  | nil => exact .refl _
  | cons r rs ih =>
    rw [closeRun]
    split
    · split
      · exact List.sublist_cons_self _ _
      · exact .refl _
    · exact ih.cons_cons _

/-- The records after one run of a plan has finished. -/
theorem mem_closeRun {id : PlanId} {table : List PlanRecord} (once : (table.map (·.id)).Nodup) {p : PlanRecord} :
    p ∈ closeRun id table ↔ (p ∈ table ∧ p.id ≠ id) ∨
      ∃ q ∈ table, q.id = id ∧ 1 < q.runsOpen ∧ p = { q with runsOpen := q.runsOpen - 1 } := by
  induction table with
  | nil => simp [closeRun]
  | cons r rs ih =>
    obtain ⟨absent, once⟩ := List.nodup_cons.mp once
    have ih := ih once
    rw [closeRun]
    by_cases named : r.id = id
    · have others : ∀ q ∈ rs, q.id ≠ id := fun q m same =>
        absent (List.mem_map.mpr ⟨q, m, same.trans named.symm⟩)
      rw [if_pos named]
      have rest : (∃ q ∈ r :: rs, q.id = id ∧ 1 < q.runsOpen ∧ p = { q with runsOpen := q.runsOpen - 1 }) ↔
          1 < r.runsOpen ∧ p = { r with runsOpen := r.runsOpen - 1 } := by
        constructor
        · rintro ⟨q, m, same, more, rfl⟩
          rcases List.mem_cons.mp m with rfl | m
          · exact ⟨more, rfl⟩
          · exact absurd same (others q m)
        · rintro ⟨more, rfl⟩
          exact ⟨r, by simp, named, more, rfl⟩
      rw [rest]
      have mine : (p ∈ r :: rs ∧ p.id ≠ id) ↔ p ∈ rs := by
        constructor
        · rintro ⟨m, other⟩
          rcases List.mem_cons.mp m with rfl | m
          · exact absurd named other
          · exact m
        · exact fun m => ⟨List.mem_cons_of_mem _ m, others p m⟩
      rw [mine]
      split
      next few => simp [Nat.not_lt.mpr few]
      next many => rw [List.mem_cons, or_comm]; simp [Nat.lt_of_not_le many]
    · rw [if_neg named, List.mem_cons, ih]
      constructor
      · rintro (rfl | ⟨m, other⟩ | ⟨q, m, rest⟩)
        · exact .inl ⟨by simp, named⟩
        · exact .inl ⟨List.mem_cons_of_mem _ m, other⟩
        · exact .inr ⟨q, List.mem_cons_of_mem _ m, rest⟩
      · rintro (⟨m, other⟩ | ⟨q, m, same, rest⟩)
        · rcases List.mem_cons.mp m with rfl | m
          · exact .inl rfl
          · exact .inr (.inl ⟨m, other⟩)
        · rcases List.mem_cons.mp m with rfl | m
          · exact absurd same named
          · exact .inr (.inr ⟨q, m, same, rest⟩)

/-! ## Agreement as a condition on the table and the queues alone -/

/-- The condition of `State.RunsRight` on a table and the six queues. -/
structure RunsAgree (table : List PlanRecord) (runs : SlotNo → List Run) : Prop where
  places : table.length ≤ 8
  ids : (table.map (·.id)).Nodup
  steps : ∀ p ∈ table, 1 ≤ p.steps.length ∧ p.steps.length ≤ 8
  counted : ∀ p ∈ table, p.runsOpen = sumSix (fun i => runsOf p.id (runs i))
  once : ∀ i, ((runs i).map (·.plan)).Nodup
  stands : ∀ i, ∀ r ∈ runs i, ∃ p ∈ table, p.id = r.plan ∧ 1 ≤ r.step ∧ r.step ≤ p.steps.length

/-- The run queues of a state. -/
def State.queues (s : State) (i : SlotNo) : List Run := (s.plans.slots.get i).runs

theorem runsRight_iff {s : State} : s.RunsRight ↔ RunsAgree s.plans.table s.queues :=
  ⟨fun ⟨⟨places, ids⟩, steps, counted, queued⟩ =>
      ⟨places, ids, steps, counted, fun i => (queued i).1, fun i => (queued i).2⟩,
    fun ⟨places, ids, steps, counted, once, stands⟩ =>
      ⟨⟨places, ids⟩, steps, counted, fun i => ⟨once i, stands i⟩⟩⟩

section
variable {table : List PlanRecord} {runs : SlotNo → List Run}

theorem RunsAgree.of_plans (h : RunsAgree table runs) {qs : SlotNo → List Run}
    (plans : ∀ i, (qs i).map (·.plan) = (runs i).map (·.plan))
    (stands : ∀ i, ∀ r ∈ qs i, ∃ p ∈ table, p.id = r.plan ∧ 1 ≤ r.step ∧ r.step ≤ p.steps.length) : RunsAgree table qs where
  places := h.places
  ids := h.ids
  steps := h.steps
  counted p m := by
    rw [h.counted p m]
    exact congrArg sumSix (funext fun i => (runsOf_congr (plans i)).symm)
  once i := plans i ▸ h.once i
  stands := stands

/-- A run leaves the queue of its slot and closes with its plan (R110). -/
theorem RunsAgree.close (h : RunsAgree table runs) {i : SlotNo} {x : Run} (held : x ∈ runs i) {qs : SlotNo → List Run}
    (own : qs i = (runs i).filter (fun r => r.plan ≠ x.plan)) (others : ∀ k, k ≠ i → qs k = runs k) :
    RunsAgree (closeRun x.plan table) qs := by
  have one := runsOf_one (h.once i) held rfl
  have subset : ∀ k, (qs k).Sublist (runs k) := fun k => by
    by_cases same : k = i
    · rw [same, own]; exact List.filter_sublist
    · rw [others k same]
  have count : ∀ id, sumSix (fun k => runsOf id (qs k)) + (if id = x.plan then 1 else 0) = sumSix (fun k => runsOf id (runs k)) := by
    intro id
    have changed := sumSix_change (f := fun k => runsOf id (runs k)) (g := fun k => runsOf id (qs k)) i
      (fun k other => by rw [others k other])
    rw [own, runsOf_without] at changed
    by_cases same : id = x.plan
    · rw [if_pos same] at changed ⊢
      rw [same] at changed ⊢
      omega
    · rw [if_neg same] at changed ⊢
      omega
  have ids := h.ids.sublist (closeRun_ids x.plan table)
  have places : (closeRun x.plan table).length ≤ 8 := by
    have shorter := (closeRun_ids x.plan table).length_le
    rw [List.length_map, List.length_map] at shorter
    exact shorter.trans h.places
  refine ⟨places, ids, fun p m => ?_, fun p m => ?_, fun k => (h.once k).sublist ((subset k).map _), fun k r m => ?_⟩
  · rcases (mem_closeRun h.ids).mp m with ⟨record, _⟩ | ⟨q, record, _, _, rfl⟩
    · exact h.steps p record
    · exact h.steps q record
  · rcases (mem_closeRun h.ids).mp m with ⟨record, other⟩ | ⟨q, record, named, _, rfl⟩
    · have counts := count p.id
      rw [if_neg other] at counts
      rw [h.counted p record]
      exact counts.symm
    · have counts := count q.id
      rw [if_pos named, ← h.counted q record] at counts
      show q.runsOpen - 1 = sumSix fun k => runsOf q.id (qs k)
      omega
  · obtain ⟨p, record, named, first, last⟩ := h.stands k r ((subset k).subset m)
    by_cases same : p.id = x.plan
    · have counts := count p.id
      rw [if_pos same, ← h.counted p record] at counts
      have mine : 0 < sumSix (fun j => runsOf p.id (qs j)) := by
        refine lt_of_lt_of_le (Nat.pos_of_ne_zero fun none => ?_) (le_sumSix (fun j => runsOf p.id (qs j)) k)
        exact runsOf_eq_zero_iff.mp none r m named.symm
      exact ⟨_, (mem_closeRun h.ids).mpr (.inr ⟨p, record, same, by omega, rfl⟩), named, first, last⟩
    · exact ⟨p, (mem_closeRun h.ids).mpr (.inl ⟨record, same⟩), named, first, last⟩

/-- The head run of a slot leaves its queue (R110). -/
theorem RunsAgree.closeHead (h : RunsAgree table runs) {i : SlotNo} {r : Run} {rest : List Run} (queue : runs i = r :: rest)
    {qs : SlotNo → List Run} (own : qs i = rest) (others : ∀ k, k ≠ i → qs k = runs k) :
    RunsAgree (closeRun r.plan table) qs := by
  refine h.close (x := r) (by rw [queue]; simp) ?_ others
  have once := h.once i
  rw [queue] at once ⊢
  obtain ⟨absent, _⟩ := List.nodup_cons.mp once
  have stay : rest.filter (fun y => decide (y.plan ≠ r.plan)) = rest :=
    List.filter_eq_self.mpr fun y m => decide_eq_true fun same => absent (List.mem_map.mpr ⟨y, m, same⟩)
  rw [own, List.filter_cons_of_neg (by simp)]
  exact stay.symm

/-- All runs of a slot finish, one after another (R122). -/
theorem RunsAgree.closeAll {i : SlotNo} : ∀ (rs : List Run) {table : List PlanRecord} {runs : SlotNo → List Run},
    RunsAgree table runs → runs i = rs → RunsAgree (rs.foldl (fun t r => closeRun r.plan t) table)
      (fun k => if k = i then [] else runs k)
  | [], _, runs, h, queue => by
    have same : (fun k => if k = i then [] else runs k) = runs := by
      funext k
      split
      next same => rw [same, queue]
      next => rfl
    rw [same]
    exact h
  | r :: rest, _, runs, h, queue => by
    have ended := h.closeHead queue (qs := fun k => if k = i then rest else runs k) (if_pos rfl) fun k other => if_neg other
    have after := RunsAgree.closeAll rest ended (if_pos rfl)
    have same : (fun k => if k = i then [] else if k = i then rest else runs k) = fun k => if k = i then [] else runs k := by
      funext k
      split <;> rfl
    rw [same] at after
    exact after

/-- An accepted plan takes a record and a run at the tail of each queue of its mask (R108, R109). -/
theorem RunsAgree.accept (h : RunsAgree table runs) {p : PlanRecord} {f : SlotNo → Bool}
    (fresh : ∀ q ∈ table, q.id ≠ p.id) (place : table.length < 8) (steps : 1 ≤ p.steps.length ∧ p.steps.length ≤ 8)
    (opened : p.runsOpen = (allSlots.filter f).length) :
    RunsAgree (table ++ [p]) (fun k => if f k then
      runs k ++ [{ plan := p.id, state := .queued, step := 1, usingLane := false }] else runs k) := by
  have absent : ∀ k, ∀ r ∈ runs k, r.plan ≠ p.id := fun k r m same => by
    obtain ⟨q, record, named, _⟩ := h.stands k r m
    exact fresh q record (named.trans same)
  refine ⟨by simpa using place, ?_, fun q m => ?_, fun q m => ?_, fun k => ?_, fun k r m => ?_⟩
  · rw [List.map_append, List.nodup_append]
    refine ⟨h.ids, by simp, ?_⟩
    intro a member b single same
    obtain ⟨q, record, rfl⟩ := List.mem_map.mp member
    simp only [List.map_cons, List.map_nil, List.mem_singleton] at single
    exact fresh q record (same.trans single)
  · rcases List.mem_append.mp m with m | m
    · exact h.steps q m
    · rw [List.mem_singleton.mp m]; exact steps
  · rcases List.mem_append.mp m with m | m
    · rw [h.counted q m]
      refine congrArg sumSix (funext fun k => ?_)
      split
      · rw [runsOf_append, runsOf_cons, if_neg (fresh q m ·.symm)]; rfl
      · rfl
    · rw [List.mem_singleton.mp m, opened]
      have none : ∀ k, runsOf p.id (runs k) = 0 := fun k => runsOf_eq_zero_iff.mpr (absent k)
      have each : ∀ k, runsOf p.id (if f k then runs k ++ [{ plan := p.id, state := .queued, step := 1, usingLane := false }]
          else runs k) = if f k then 1 else 0 := fun k => by
        split
        · rw [runsOf_append, none, runsOf_cons, if_pos rfl]; rfl
        · exact none k
      simp only [each]
      simp only [allSlots, List.filter_cons, List.filter_nil, sumSix]
      cases f 0 <;> cases f 1 <;> cases f 2 <;> cases f 3 <;> cases f 4 <;> cases f 5 <;> rfl
  · split
    · rw [List.map_append, List.nodup_append]
      refine ⟨h.once k, by simp, ?_⟩
      intro a member b single same
      obtain ⟨r, m, rfl⟩ := List.mem_map.mp member
      simp only [List.map_cons, List.map_nil, List.mem_singleton] at single
      exact absent k r m (same.trans single)
    · exact h.once k
  · have old : r ∈ runs k → ∃ q ∈ table ++ [p], q.id = r.plan ∧ 1 ≤ r.step ∧ r.step ≤ q.steps.length := fun m => by
      obtain ⟨q, record, rest⟩ := h.stands k r m
      exact ⟨q, List.mem_append_left _ record, rest⟩
    split at m
    · rcases List.mem_append.mp m with m | m
      · exact old m
      · rw [List.mem_singleton.mp m]
        exact ⟨p, by simp, rfl, le_refl _, steps.1⟩
    · exact old m

theorem runsAgree_empty (h : ∀ k, runs k = []) : RunsAgree [] runs :=
  ⟨Nat.zero_le _, List.nodup_nil, nofun, nofun, fun k => by rw [h k]; exact List.nodup_nil,
    fun k r m => absurd (h k ▸ m) List.not_mem_nil⟩

end

/-! ## Operations -/

theorem State.RunsRight.of_same {s t : State} (right : s.RunsRight) (table : t.plans.table = s.plans.table)
    (runs : ∀ k, (t.plans.slots.get k).runs = (s.plans.slots.get k).runs) : t.RunsRight := by
  have queues : t.queues = s.queues := funext runs
  rw [runsRight_iff, table, queues, ← runsRight_iff]
  exact right

theorem State.RunsRight.of_keeps {ps : List Part} {s t : State} (right : s.RunsRight) (h : Keeps ps s t) (n : Part.runs ∉ ps) :
    t.RunsRight :=
  right.of_same (h .runs n).2 fun k => by rw [(h .runs n).1]

theorem Calm.runsRight {s t : State} (h : Calm s t) (right : s.RunsRight) : t.RunsRight := right.of_same h.table h.runs

theorem headRun_queue {s : State} {i : SlotNo} {r : Run} (head : s.headRun i = some r) :
    s.queues i = r :: (s.plans.slots.get i).runs.tail := by
  rw [State.queues, List.eq_cons_of_mem_head? (Option.mem_def.mpr head)]; rfl

/-- The head run of a slot leaves its queue and closes with its plan. -/
theorem runsRight_of_close {s t : State} (right : s.RunsRight) {i : SlotNo} {r : Run} (head : s.headRun i = some r)
    (table : t.plans.table = closeRun r.plan s.plans.table)
    (runs : ∀ k, (t.plans.slots.get k).runs = if k = i then (s.plans.slots.get i).runs.tail else (s.plans.slots.get k).runs) :
    t.RunsRight := by
  rw [runsRight_iff, table]
  exact (runsRight_iff.mp right).closeHead (headRun_queue head) ((runs i).trans (if_pos rfl))
    fun k other => (runs k).trans (if_neg other)

theorem endRun_runsRight {s : State} (right : s.RunsRight) (i : SlotNo) (o : Answer) (n : Nat) : (s.endRun i o n).RunsRight := by
  cases head : s.headRun i with
  | none =>
    have empty : (s.plans.slots.get i).runs = [] := List.head?_eq_none_iff.mp head
    have ended : s.endRun i o n = s := by unfold State.endRun; rw [empty]
    rw [ended]
    exact right
  | some r => exact runsRight_of_close right head (endRun_closes o n head) fun k => by rw [endRun_slot_eq]; split <;> rfl

theorem finishHead_runsRight {s : State} (right : s.RunsRight) (i : SlotNo) (o : Answer) (side : LaneSide) :
    (s.finishHead i o side).RunsRight := by
  cases head : s.headRun i with
  | none => rw [finishHead_of_none o side head]; exact right
  | some r => exact runsRight_of_close right head (finishHead_table o side head) (finishHead_runs o side)

/-- The head run takes another state, use of its lane, or one of its steps. -/
theorem setRun_runsRight {s : State} (right : s.RunsRight) {i : SlotNo} {r x : Run} (head : s.headRun i = some r)
    (plan : x.plan = r.plan) (step : ∀ p ∈ s.plans.table, p.id = r.plan → 1 ≤ r.step → r.step ≤ p.steps.length →
      1 ≤ x.step ∧ x.step ≤ p.steps.length) : (s.setRun i x).RunsRight := by
  have agree := runsRight_iff.mp right
  have queue := headRun_queue head
  have runs : ∀ k, (s.setRun i x).queues k = if k = i then x :: (s.plans.slots.get i).runs.tail else s.queues k := fun k =>
    setRun_runs i x s k
  refine runsRight_iff.mpr (agree.of_plans (fun k => ?_) fun k q m => ?_)
  · rw [runs]
    split
    next same => rw [same, queue, List.map_cons, List.map_cons, plan]
    next => rfl
  · rw [runs] at m
    split at m
    next same =>
      rcases List.mem_cons.mp m with rfl | m
      · obtain ⟨p, record, named, first, last⟩ := agree.stands i r (by rw [queue]; simp)
        exact ⟨p, record, named.trans plan.symm, step p record named first last⟩
      · exact agree.stands i q (by rw [queue]; exact List.mem_cons_of_mem _ m)
    next => exact agree.stands k q m

theorem setRun_same_runsRight {s : State} (right : s.RunsRight) {i : SlotNo} {r x : Run} (head : s.headRun i = some r)
    (plan : x.plan = r.plan) (step : x.step = r.step) : (s.setRun i x).RunsRight :=
  setRun_runsRight right head plan fun _ _ _ first last => by rw [step]; exact ⟨first, last⟩

theorem planOf_mem {s : State} {id : PlanId} {p : PlanRecord} (found : s.planOf id = some p) :
    p ∈ s.plans.table ∧ p.id = id := ⟨List.mem_of_find?_eq_some found, by simpa using List.find?_some found⟩

/-- The plan of a run that stands in a queue is the one record of its id (R108). -/
theorem State.RunsRight.planOf {s : State} (right : s.RunsRight) {p q : PlanRecord} (hp : p ∈ s.plans.table)
    (hq : q ∈ s.plans.table) (same : p.id = q.id) : p = q :=
  List.inj_on_of_nodup_map right.table.2 hp hq same

/-! ## Every piece of work -/

theorem Piece.runsRight {s t : State} {w : Work} {more : List Work} (h : Piece s w t more) (right : s.RunsRight) :
    t.RunsRight := by
  cases h
  case none => exact right
  case fail i r o head queued => exact endRun_runsRight right i o 0
  case enter i r p head found queued present locked => exact (begin_calm i p.id p.phase s).runsRight right
  case skip i r head => exact right
  case useLane i r head => exact setRun_same_runsRight right head rfl rfl
  case noLanes i r head none => exact finishHead_runsRight right i _ _
  case ask i r pinned head free =>
    exact State.RunsRight.of_same (setRun_same_runsRight right head (x := { r with state := .laneWait }) rfl rfl) rfl fun _ => rfl
  case floor i r q head => exact (setFloor_calm i q s).runsRight right
  case stand i r x head stands => exact setRun_same_runsRight right head rfl rfl
  case detach i r head =>
    have keeps := releaseLane_keeps i s
    have heads : (s.releaseLane i).headRun i = s.headRun i := by rw [State.headRun, (keeps .runs (by decide)).1]; rfl
    exact setRun_same_runsRight (right.of_keeps keeps (by decide)) (heads.trans head) rfl rfl
  case mark i r p head found =>
    exact (setPlan_calm (x := { s.plans.slots.get i with buildTag := some p.tag, progress := Option.none }) rfl).runsRight right
  case next i r p head found more =>
    obtain ⟨record, named⟩ := planOf_mem found
    refine setRun_runsRight right head rfl fun q stored same first _ => ?_
    rw [right.planOf stored record (same.trans named.symm)]
    exact ⟨Nat.le_add_left 1 _, more⟩
  case done i r head => exact finishHead_runsRight right i _ _
  case granted i pinned rest l r u more waits ready head asked goes =>
    have attached := right.of_keeps (grantLane_keeps s l i pinned rest) (by decide)
    exact setRun_same_runsRight attached ((grantLane_headRun s l i pinned rest i).trans head) rfl rfl
  case unasked i pinned rest l waits ready unasked => exact right.of_keeps (grantLane_keeps s l i pinned rest) (by decide)
  case rest idle => exact (right.of_keeps (wakeLanes_keeps s) (by decide)).of_keeps (startIdle_keeps _) (by decide)

theorem work_runsRight (ws : List Work) {s : State} (right : s.RunsRight) : (s.work ws).RunsRight :=
  work_of_piece (fun _ _ _ _ piece before => piece.runsRight before) ws right

/-! ## Moves -/

theorem forceRelease_runsRight (i : SlotNo) {s : State} (right : s.RunsRight) : (s.forceRelease i).RunsRight :=
  right.of_keeps (forceRelease_keeps i s) (by decide)

theorem forceSlot_runsRight (i : SlotNo) {s : State} (right : s.RunsRight) : (s.forceSlot i).RunsRight :=
  forceRelease_runsRight i (finishHead_runsRight right i _ _)

theorem reportRuns_table (i : SlotNo) (o : Answer) (rs : List Run) (s : State) :
    (rs.foldl (fun t r => t.reportRun i r o 0) s).plans.table = rs.foldl (fun t r => closeRun r.plan t) s.plans.table := by
  induction rs generalizing s with
  | nil => rfl
  | cons r rs ih => rw [List.foldl_cons, ih, reportRun_closes, List.foldl_cons]

theorem failQueued_runsRight (i : SlotNo) {s : State} (right : s.RunsRight) : (s.failQueued i).RunsRight := by
  have table : (s.failQueued i).plans.table = (s.plans.slots.get i).runs.foldl (fun t r => closeRun r.plan t) s.plans.table :=
    reportRuns_table i _ _ s
  have queues : (s.failQueued i).queues = fun k => if k = i then [] else s.queues k := funext fun k => failQueued_runs i s k
  rw [runsRight_iff, table, queues]
  exact RunsAgree.closeAll _ (runsRight_iff.mp right) rfl

theorem planExtraction_runsRight (i : SlotNo) {s : State} (right : s.RunsRight) : (s.planExtraction i).RunsRight :=
  failQueued_runsRight i (finishHead_runsRight
    ((setPlan_calm (x := { s.plans.slots.get i with progress := none, buildTag := none }) rfl).runsRight right) i _ _)

theorem extract_runsRight (i : SlotNo) {s : State} (right : s.RunsRight) : (s.extract i).RunsRight := by
  rw [extract_eq]
  exact forceRelease_runsRight i ((planExtraction_runsRight i (right.of_keeps (unseat_keeps i s) (by decide))).of_keeps
    (leaveWaitList_keeps i _) (by decide))

theorem knownSteps_length : ∀ (xs : List (Nat × Nat)) {steps : List PlanStep}, knownSteps xs = some steps → steps.length = xs.length
  | [], _, h => by cases h; rfl
  | (kind, arg) :: rest, steps, h => by
    unfold knownSteps at h
    split at h
    next k known => cases h; rw [List.length_cons, knownSteps_length rest ‹_›, List.length_cons]
    next => cases h

theorem rawSteps_length (p : List Byte) : ∀ (k n : Nat), (rawSteps p k n).length = n
  | _, 0 => rfl
  | k, n + 1 => congrArg (· + 1) (rawSteps_length p (k + 3) n)

/-- A plan that passes the four checks of R108. -/
theorem judgePlan_accepts {s : State} {src : Source} {p : List Byte} {r : PlanRecord} (h : s.judgePlan src p = .inr r) :
    (∀ q ∈ s.plans.table, q.id ≠ r.id) ∧ s.plans.table.length < 8 ∧ (1 ≤ r.steps.length ∧ r.steps.length ≤ 8) ∧
      r.mask = maskSlots (byteAt p 4) ∧ r.runsOpen = (maskSlots (byteAt p 4)).length := by
  unfold State.judgePlan at h
  dsimp only at h
  split at h
  · cases h
  next single =>
    split at h
    · cases h
    next place =>
      split at h
      · cases h
      · split at h
        · cases h
        next fields =>
          cases h
          unfold planFields at fields
          dsimp only at fields
          split at fields
          · cases fields
          next count =>
            split at fields
            next steps phase known _ =>
              split at fields
              · cases fields
              · split at fields
                · cases fields
                · cases fields
                  have length : steps.length = byteAt p 11 := (knownSteps_length _ known).trans (rawSteps_length p 12 _)
                  refine ⟨fun q record same => single ?_, Nat.lt_of_not_le place, ?_, rfl, rfl⟩
                  · exact List.find?_isSome.mpr ⟨q, record, decide_eq_true same⟩
                  · show 1 ≤ steps.length ∧ steps.length ≤ 8
                    omega
            next => cases fields

theorem appendRuns_queues (id : PlanId) : ∀ (is : List SlotNo) (s : State), is.Nodup → ∀ k,
    (forSlots is (State.appendRun id) s).queues k = if k ∈ is then
      s.queues k ++ [{ plan := id, state := .queued, step := 1, usingLane := false }] else s.queues k
  | [], s, _, k => rfl
  | i :: is, s, once, k => by
    obtain ⟨absent, once⟩ := List.nodup_cons.mp once
    have first : (s.appendRun id i).queues k = if k = i then
        s.queues i ++ [{ plan := id, state := .queued, step := 1, usingLane := false }] else s.queues k := by
      rw [State.queues, State.appendRun, setPlan_slot]; split <;> rfl
    have rest := appendRuns_queues id is (s.appendRun id i) once k
    refine rest.trans ?_
    rw [first]
    by_cases same : k = i
    · rw [if_pos same, same, if_neg absent, if_pos (List.mem_cons_self ..)]
    · simp [same]

theorem appendRuns_table (id : PlanId) : ∀ (is : List SlotNo) (s : State),
    (forSlots is (State.appendRun id) s).plans.table = s.plans.table
  | [], _ => rfl
  | i :: is, s => appendRuns_table id is (s.appendRun id i)

/-- A record and its runs join together (R109). -/
theorem planAccepted_runsRight {s : State} (right : s.RunsRight) {src : Source} {p : List Byte} {r : PlanRecord}
    (h : s.judgePlan src p = .inr r) : (forSlots r.mask (State.appendRun r.id) (s.planTaken src r)).RunsRight := by
  obtain ⟨fresh, place, steps, mask, opened⟩ := judgePlan_accepts h
  have once : r.mask.Nodup := by
    rw [mask]
    exact List.Nodup.filter _ (by decide)
  have member : ∀ k : SlotNo, k ∈ r.mask ↔ (byteAt p 4).testBit k.val = true := fun k => by
    rw [mask, maskSlots, List.mem_filter]
    exact ⟨And.right, fun b => ⟨mem_allSlots k, b⟩⟩
  have queues : (forSlots r.mask (State.appendRun r.id) (s.planTaken src r)).queues = fun k =>
      if (byteAt p 4).testBit k.val = true then
        s.queues k ++ [{ plan := r.id, state := .queued, step := 1, usingLane := false }] else s.queues k := by
    funext k
    have before : (s.planTaken src r).queues k = s.queues k := by rw [State.queues, planTaken_slots]; rfl
    rw [appendRuns_queues r.id r.mask _ once k, before]
    simp only [member]
  rw [runsRight_iff, appendRuns_table, planTaken_table, queues]
  exact (runsRight_iff.mp right).accept (f := fun k => (byteAt p 4).testBit k.val) fresh place steps opened

theorem takePlan_runsRight (src : Source) (p : List Byte) {s : State} (right : s.RunsRight) : (s.takePlan src p).RunsRight := by
  unfold State.takePlan
  split
  next => exact (calm_of_keeps (hand_keeps _ s) (by decide)).runsRight right
  next r accepted => exact work_runsRight _ (planAccepted_runsRight right accepted)

theorem Move.runsRight {s t : State} (h : Move s t) (right : s.RunsRight) : t.RunsRight := by
  cases h
  case calm h => exact h.runsRight right
  case finish i o side => exact work_runsRight _ (finishHead_runsRight right i o side)
  case force i => exact forceSlot_runsRight i right
  case forceGrant i => exact (forceSlot_runsRight i right).of_keeps (grantRelease_keeps i _) (by decide)
  case starts ks few => exact work_runsRight _ right
  case unpin i => exact forceRelease_runsRight i right
  case advance i x head stands => exact work_runsRight _ right
  case retime i r x head before after => exact setRun_same_runsRight right head rfl rfl
  case plan src p => exact takePlan_runsRight src p right
  case cancelQueued i r x rest id runs head found =>
    have named : x.plan = id := by simpa using List.find?_some found
    have held : x ∈ s.queues i := by
      rw [State.queues, runs]
      exact List.mem_cons_of_mem _ (List.mem_of_find?_eq_some found)
    have slot : ∀ k, (((s.reportRun i x .cancelled 0).setPlan i { s.plans.slots.get i with
        runs := r :: rest.filter (fun y => y.plan ≠ id) }).plans.slots.get k).runs =
        if k = i then r :: rest.filter (fun y => y.plan ≠ id) else (s.plans.slots.get k).runs := fun k => by
      rw [setPlan_slot]
      split
      · rfl
      · rw [reportRun_slots]
    rw [runsRight_iff]
    have agree := (runsRight_iff.mp right).close held (qs := fun k =>
      if k = i then r :: rest.filter (fun y => y.plan ≠ id) else s.queues k) ?_ fun k other => if_neg other
    · rw [← reportRun_closes i x .cancelled 0 s] at agree
      exact (funext slot : State.queues _ = _) ▸ agree
    · rw [if_pos rfl, State.queues, runs, named, List.filter_cons_of_pos (p := fun y : Run => decide (y.plan ≠ id)) (decide_eq_true head)]
  case setLane l y held ready => exact right.of_keeps (setLane_keeps l y s) (by decide)
  case grants u keeps waits held => exact work_runsRight _ (right.of_keeps keeps (by decide))
  case wake => exact right.of_keeps (wakeLanes_keeps s) (by decide)
  case lose l i q y attached lost out =>
    exact (right.of_keeps (setLane_keeps l y s) (by decide)).of_keeps (laneDetached_keeps i _) (by decide)
  case extract i u leaving => exact extract_runsRight i right
  case restart =>
    rw [runsRight_iff, restartStages_table]
    exact runsAgree_empty fun k => restartStages_runs s k

theorem State.NoRuns.runsRight {s : State} (h : s.NoRuns) : s.RunsRight := by
  rw [runsRight_iff, show s.plans.table = [] by rw [h.plans]]
  exact runsAgree_empty h.runs

theorem runsRight_lasting : Lasting State.RunsRight :=
  lasting_of_moves (fun _ _ move => move.runsRight) (fun s right => right.of_keeps (passBit_keeps s) (by decide))
    (fun _ _ _ _ right => ⟨right.table, right.steps, right.counted, right.queued⟩)
    (fun s => (clearBlocks_noRuns s).runsRight) (fun s r d hd => (startBlocks_noRuns s r d hd).runsRight)

end Sys2Proof.Machine
end

section
/-! PROOF. The work of one event comes to its end within the model's bound (notes/assumptions/11.md), and no event leaves a READY
lane beside a waiting slot (R134): O50. -/

namespace Sys2Proof.Machine

/-! ## A measure of the work left -/

/-- What a piece of work can cost before it is done. -/
def Work.cost : Work → Nat
  | .start _ => 3
  | .perform _ => 2
  | .advance _ => 1
  | .grant => 1

theorem Work.cost_bounds (w : Work) : 1 ≤ w.cost ∧ w.cost ≤ 3 := by cases w <;> simp [Work.cost]

/-- What a run can still cost: two pieces for each step before it, and its end. -/
def Run.cost (r : Run) : Nat := 3 + 2 * (8 - r.step)

def runsCost (rs : List Run) : Nat := (rs.map Run.cost).sum

/-- The number of lanes that stand READY. -/
def State.readyCount (s : State) : Nat := (allLanes.filter (fun l => (s.lanes.table.get l).state.isReady)).length

/-- The measure of the work left: every piece of work lowers it. -/
def State.workLeft (s : State) (ws : List Work) : Nat :=
  sumSix (fun i => runsCost (s.queues i)) + 2 * s.readyCount + (ws.map Work.cost).sum

theorem readyCount_le {s t : State} (h : ∀ l, (t.lanes.table.get l).state.isReady = true → (s.lanes.table.get l).state.isReady = true) :
    t.readyCount ≤ s.readyCount := by
  refine List.Sublist.length_le ?_
  exact List.monotone_filter_right allLanes h

theorem readyCount_lt {s t : State} {l : LaneNo} (was : (s.lanes.table.get l).state.isReady = true)
    (gone : (t.lanes.table.get l).state.isReady = false)
    (h : ∀ m, m ≠ l → (t.lanes.table.get m).state = (s.lanes.table.get m).state) : t.readyCount + 1 ≤ s.readyCount := by
  have strict : (allLanes.filter (fun m => (t.lanes.table.get m).state.isReady)).length <
      (allLanes.filter (fun m => (s.lanes.table.get m).state.isReady)).length := by
    refine lt_of_le_of_ne (List.Sublist.length_le (List.monotone_filter_right allLanes fun m ready => ?_)) fun same => ?_
    · by_cases this : m = l
      · rw [this, gone] at ready; cases ready
      · rwa [h m this] at ready
    · have equal := (List.monotone_filter_right allLanes (p := fun m => (t.lanes.table.get m).state.isReady)
        (q := fun m => (s.lanes.table.get m).state.isReady) fun m ready => by
          by_cases this : m = l
          · rw [this, gone] at ready; cases ready
          · rwa [h m this] at ready).eq_of_length same
      have member : l ∈ allLanes.filter (fun m => (s.lanes.table.get m).state.isReady) := List.mem_filter.mpr ⟨mem_allLanes l, was⟩
      rw [← equal] at member
      have ready := (List.mem_filter.mp member).2
      exact absurd (gone.symm.trans ready) nofun
  exact strict

theorem runsCost_cons (r : Run) (rs : List Run) : runsCost (r :: rs) = r.cost + runsCost rs := rfl

theorem runsCost_le (rs : List Run) (h : ∀ r ∈ rs, 1 ≤ r.step) : runsCost rs ≤ 17 * rs.length := by
  have each : ∀ x ∈ rs.map Run.cost, x ≤ 17 := by
    intro x m
    obtain ⟨r, held, rfl⟩ := List.mem_map.mp m
    have := h r held
    unfold Run.cost
    omega
  have bound := List.sum_le_card_nsmul (rs.map Run.cost) 17 each
  rw [List.length_map, smul_eq_mul, Nat.mul_comm] at bound
  exact bound

/-- Where table and queues agree, a queue holds no more than eight runs (R108). -/
theorem State.RunsRight.queue_length {s : State} (right : s.RunsRight) (i : SlotNo) : (s.queues i).length ≤ 8 := by
  have agree := runsRight_iff.mp right
  have subset : (s.queues i).map (·.plan) ⊆ s.plans.table.map (·.id) := by
    intro id m
    obtain ⟨r, held, rfl⟩ := List.mem_map.mp m
    obtain ⟨p, record, named, _⟩ := agree.stands i r held
    exact List.mem_map.mpr ⟨p, record, named⟩
  have fits := (List.subperm_of_subset (agree.once i) subset).length_le
  rw [List.length_map, List.length_map] at fits
  exact fits.trans agree.places

theorem State.RunsRight.workLeft_le {s : State} (right : s.RunsRight) (ws : List Work) :
    s.workLeft ws ≤ 824 + 3 * ws.length := by
  have each : ∀ i, runsCost (s.queues i) ≤ 136 := fun i => by
    have runs := runsCost_le (s.queues i) fun r m => by
      obtain ⟨_, _, _, first, _⟩ := (runsRight_iff.mp right).stands i r m
      exact first
    have few := right.queue_length i
    omega
  have runs : sumSix (fun i => runsCost (s.queues i)) ≤ 816 := by
    have h0 := each 0; have h1 := each 1; have h2 := each 2; have h3 := each 3; have h4 := each 4; have h5 := each 5
    unfold sumSix
    dsimp only
    omega
  have lanes : s.readyCount ≤ 4 := List.length_filter_le _ allLanes
  have work : (ws.map Work.cost).sum ≤ ws.length * 3 := by
    have each : ∀ x ∈ ws.map Work.cost, x ≤ 3 := by
      intro x m
      obtain ⟨w, _, rfl⟩ := List.mem_map.mp m
      exact Work.cost_bounds w |>.2
    have bound := List.sum_le_card_nsmul (ws.map Work.cost) 3 each
    rwa [List.length_map, smul_eq_mul] at bound
  unfold State.workLeft
  omega

/-! ## Every piece of work lowers the measure -/

/-- The runs of one slot change and no lane becomes READY. -/
theorem workLeft_of_runs {s t : State} {i : SlotNo} (ready : t.readyCount ≤ s.readyCount)
    (others : ∀ k, k ≠ i → t.queues k = s.queues k) (ws : List Work) :
    t.workLeft ws + runsCost (s.queues i) ≤ s.workLeft ws + runsCost (t.queues i) := by
  have changed := sumSix_change (f := fun k => runsCost (s.queues k)) (g := fun k => runsCost (t.queues k)) i
    fun k other => by rw [others k other]
  unfold State.workLeft
  omega

theorem workLeft_of_same {s t : State} (ready : t.readyCount ≤ s.readyCount) (queues : t.queues = s.queues) (ws : List Work) :
    t.workLeft ws ≤ s.workLeft ws := by
  unfold State.workLeft
  rw [queues]
  omega

theorem workLeft_append (s : State) (more ws : List Work) :
    s.workLeft (more ++ ws) = s.workLeft ws + (more.map Work.cost).sum := by
  unfold State.workLeft
  rw [List.map_append, List.sum_append]
  omega

theorem workLeft_cons (s : State) (w : Work) (ws : List Work) : s.workLeft (w :: ws) = s.workLeft ws + w.cost := by
  unfold State.workLeft
  rw [List.map_cons, List.sum_cons]
  omega

theorem readyCount_of_lanes {s t : State} (h : t.lanes = s.lanes) : t.readyCount ≤ s.readyCount := by
  rw [State.readyCount, h]; rfl

theorem LanesRest.readyCount_le {s t : State} (h : LanesRest s t) : t.readyCount ≤ s.readyCount :=
  Machine.readyCount_le fun l ready => (h.2 l).isReady_eq ▸ ready

theorem laneSide_readyCount (i : SlotNo) (side : LaneSide) (s : State) : (s.laneSide i side).readyCount ≤ s.readyCount := by
  refine readyCount_le fun l ready => ?_
  rw [laneSide_state] at ready
  split at ready
  · cases ready
  · exact ready

/-- The end of a head run, whatever it does with the lane, lowers the measure by at least 3. -/
theorem workLeft_of_close {s t : State} {i : SlotNo} {r : Run} (head : s.headRun i = some r) (ready : t.readyCount ≤ s.readyCount)
    (runs : ∀ k, (t.plans.slots.get k).runs = if k = i then (s.plans.slots.get i).runs.tail else (s.plans.slots.get k).runs)
    (ws : List Work) : t.workLeft ws + 3 ≤ s.workLeft ws := by
  have changed := workLeft_of_runs (i := i) ready (fun k other => (runs k).trans (if_neg other)) ws
  have own : t.queues i = (s.plans.slots.get i).runs.tail := (runs i).trans (if_pos rfl)
  rw [headRun_queue head, runsCost_cons, own] at changed
  unfold Run.cost at changed
  omega

theorem finishHead_readyCount (i : SlotNo) (o : Answer) (side : LaneSide) {r : Run} {s : State} (head : s.headRun i = some r) :
    (s.finishHead i o side).readyCount ≤ s.readyCount := by
  refine readyCount_le fun l ready => ?_
  rw [finishHead_state o side head] at ready
  split at ready
  · cases ready
  · exact ready

theorem setRun_workLeft {s : State} {i : SlotNo} {r x : Run} (head : s.headRun i = some r) (ws : List Work) :
    (s.setRun i x).workLeft ws + r.cost ≤ s.workLeft ws + x.cost := by
  have own : (s.setRun i x).queues i = x :: (s.plans.slots.get i).runs.tail := (setRun_runs i x s i).trans (if_pos rfl)
  have changed := workLeft_of_runs (s := s) (t := s.setRun i x) (i := i) (le_refl _)
    (fun k other => (setRun_runs i x s k).trans (if_neg other)) ws
  rw [headRun_queue head, own, runsCost_cons, runsCost_cons] at changed
  omega

theorem Calm.workLeft_le {s t : State} (h : Calm s t) (ws : List Work) : t.workLeft ws ≤ s.workLeft ws :=
  workLeft_of_same (readyCount_of_lanes h.lanes) (funext h.runs) ws

theorem grantLane_workLeft {s : State} {l : LaneNo} {i : SlotNo} {pinned : Bool} {rest : List (SlotNo × Bool)}
    (ready : s.firstLane LaneState.isReady = some l) (ws : List Work) :
    (s.grantLane l i pinned rest).workLeft ws + 2 ≤ s.workLeft ws := by
  have states : ∀ m, ((s.grantLane l i pinned rest).lanes.table.get m).state =
      if m = l then .attached i pinned else (s.lanes.table.get m).state := fun m => by rw [grantLane_lanes, moveLane_state]
  have fewer := readyCount_lt (firstLane_state ready).2 (by rw [states, if_pos rfl]; rfl)
    (fun m other => (states m).trans (if_neg other))
  have queues : (s.grantLane l i pinned rest).queues = s.queues := funext fun k => by
    rw [State.queues, (grantLane_keeps s l i pinned rest .runs (by decide)).1]; rfl
  unfold State.workLeft
  rw [queues]
  omega

theorem Piece.workLeft_lt {s t : State} {w : Work} {more : List Work} (h : Piece s w t more) (right : s.RunsRight)
    (ws : List Work) : t.workLeft (more ++ ws) < s.workLeft (w :: ws) := by
  rw [workLeft_append, workLeft_cons]
  cases h
  case none => cases w <;> simp [Work.cost]
  case fail i r o head queued =>
    have ended := workLeft_of_close head (t := s.endRun i o 0) (readyCount_of_lanes (endRun_lanes i o 0 s))
      (fun k => by rw [endRun_slot_eq]; split <;> rfl) ws
    simp only [List.map_cons, List.map_nil, List.sum_cons, List.sum_nil, Work.cost]
    omega
  case enter i r p head found queued present locked =>
    have begun := (begin_calm i p.id p.phase s).workLeft_le ws
    simp only [List.map_cons, List.map_nil, List.sum_cons, List.sum_nil, Work.cost]
    omega
  case skip i r head => simp [Work.cost]
  case useLane i r head =>
    have used := setRun_workLeft (x := { r with usingLane := true }) head ws
    simp only [Run.cost] at used
    simp only [List.map_cons, List.map_nil, List.sum_cons, List.sum_nil, Work.cost]
    omega
  case noLanes i r head none =>
    have ended := workLeft_of_close head (finishHead_readyCount i .noLanes .keep head) (finishHead_runs .noLanes .keep) ws
    simp only [List.map_cons, List.map_nil, List.sum_cons, List.sum_nil, Work.cost]
    omega
  case ask i r pinned head free =>
    have asked : (s.askLane i r pinned).workLeft ws + r.cost ≤ s.workLeft ws + r.cost :=
      setRun_workLeft (x := { r with state := .laneWait }) head ws
    simp only [List.map_cons, List.map_nil, List.sum_cons, List.sum_nil, Work.cost]
    omega
  case floor i r q head =>
    have floored := (setFloor_calm i q s).workLeft_le ws
    simp only [List.map_cons, List.map_nil, List.sum_cons, List.sum_nil, Work.cost]
    omega
  case stand i r x head stands =>
    have stood := setRun_workLeft (x := { r with state := x }) head ws
    simp only [Run.cost] at stood
    simp only [List.map_nil, List.sum_nil, Work.cost]
    omega
  case detach i r head =>
    have heads : (s.releaseLane i).headRun i = s.headRun i := by
      rw [State.headRun, (releaseLane_keeps i s .runs (by decide)).1]; rfl
    have used := setRun_workLeft (x := { r with usingLane := false }) (heads.trans head) ws
    have queues : (s.releaseLane i).queues = s.queues := funext fun k => by
      rw [State.queues, (releaseLane_keeps i s .runs (by decide)).1]; rfl
    have released := workLeft_of_same (laneSide_readyCount i .release s) queues ws
    simp only [Run.cost] at used
    simp only [List.map_cons, List.map_nil, List.sum_cons, List.sum_nil, Work.cost]
    change (s.releaseLane i).workLeft ws ≤ _ at released
    omega
  case mark i r p head found =>
    have marked := (setPlan_calm (i := i) (x := { s.plans.slots.get i with buildTag := some p.tag, progress := Option.none })
      (s := s) rfl).workLeft_le ws
    have advance : ([Work.advance i].map Work.cost).sum = 1 := rfl
    have perform : (Work.perform i).cost = 2 := rfl
    omega
  case next i r p head found more =>
    have stepped := setRun_workLeft (x := { r with step := r.step + 1 }) head ws
    have few := (right.steps p (planOf_mem found).1).2
    simp only [Run.cost] at stepped
    simp only [List.map_cons, List.map_nil, List.sum_cons, List.sum_nil, Work.cost]
    omega
  case done i r head =>
    have ended := workLeft_of_close head (finishHead_readyCount i .done .release head) (finishHead_runs .done .release) ws
    simp only [List.map_cons, List.map_nil, List.sum_cons, List.sum_nil, Work.cost]
    omega
  case granted i pinned rest l r u more waits ready head asked goes =>
    have attached := grantLane_workLeft (i := i) (pinned := pinned) (rest := rest) ready ws
    have used := setRun_workLeft (x := { r with usingLane := true, state := .enumWait u })
      ((grantLane_headRun s l i pinned rest i).trans head) ws
    simp only [Run.cost] at used
    rcases goes with rfl | rfl
    all_goals
      simp only [List.map_append, List.map_cons, List.map_nil, List.sum_append, List.sum_cons, List.sum_nil, Work.cost]
      omega
  case unasked i pinned rest l waits ready unasked =>
    have attached := grantLane_workLeft (i := i) (pinned := pinned) (rest := rest) ready ws
    simp only [List.map_cons, List.map_nil, List.sum_cons, List.sum_nil, Work.cost]
    omega
  case rest idle =>
    have rested := (wakeLanes_rests s).trans (startIdle_rests _)
    have keeps := (wakeLanes_keeps s).trans (startIdle_keeps _)
    have queues : s.wakeLanes.startIdle.queues = s.queues := funext fun k => by
      rw [State.queues, (keeps .runs (by decide)).1]; rfl
    have same := workLeft_of_same rested.readyCount_le queues ws
    simp only [List.map_nil, List.sum_nil, Work.cost]
    omega

/-! ## The end of the work -/

theorem runWork_ends : ∀ (n : Nat) (ws : List Work) (s : State), s.RunsRight → s.workLeft ws ≤ n → WorkEnds s ws (runWork n ws s)
  | 0, [], _, _, _ => .done
  | _ + 1, [], _, _, _ => .done
  | 0, w :: ws, s, _, h => by
    have positive := (Work.cost_bounds w).1
    rw [workLeft_cons] at h
    omega
  | n + 1, w :: ws, s, right, h => by
    have piece := workStep_piece w s
    have lower := piece.workLeft_lt right ws
    exact .piece (runWork_ends n _ _ (piece.runsRight right) (by omega))

/-- The work of one event comes to its end within the model's bound (notes/assumptions/11.md). -/
theorem work_ends {s : State} (right : s.RunsRight) {ws : List Work} (few : ws.length ≤ 8) : WorkEnds s ws (s.work ws) := by
  refine runWork_ends workRounds ws s right ((right.workLeft_le ws).trans ?_)
  unfold workRounds
  omega

/-- What every piece of work keeps stands at the end, with no work left. -/
theorem WorkKeeps.ends {P : State → List Work → Prop} (rule : WorkKeeps P) {s t : State} {ws : List Work}
    (h : WorkEnds s ws t) (before : P s ws) : P t [] := by
  induction h with
  | done => exact before
  | piece more ih => exact ih (rule _ _ _ _ _ (workStep_piece _ _) before)

/-! ## Grants (R134) -/

/-- No slot comes to wait and no lane to READY. -/
structure NoneReady (s t : State) : Prop where
  waits : t.lanes.waitList ≠ [] → s.lanes.waitList ≠ []
  ready : ∀ l, (t.lanes.table.get l).state.isReady = true → (s.lanes.table.get l).state.isReady = true
  cfg : t.cfg = s.cfg

theorem NoneReady.refl (s : State) : NoneReady s s := ⟨id, fun _ => id, rfl⟩

theorem NoneReady.trans {s t u : State} (h : NoneReady s t) (k : NoneReady t u) : NoneReady s u :=
  ⟨h.waits ∘ k.waits, fun l => h.ready l ∘ k.ready l, k.cfg.trans h.cfg⟩

theorem State.GrantsMade.of_noneReady {s t : State} (made : s.GrantsMade) (h : NoneReady s t) : t.GrantsMade := by
  intro waits l configured
  have before := made (h.waits waits) l (h.cfg ▸ configured)
  exact Bool.eq_false_iff.mpr fun ready => absurd (before.symm.trans (h.ready l ready)) nofun

theorem grantsMade_empty {s : State} (h : s.lanes.waitList = []) : s.GrantsMade := fun waits => absurd h waits

theorem noneReady_of_lanes {s t : State} (lanes : t.lanes = s.lanes) (cfg : t.cfg = s.cfg) : NoneReady s t :=
  ⟨by rw [lanes]; exact id, fun l => by rw [lanes]; exact id, cfg⟩

theorem Calm.noneReady {s t : State} (h : Calm s t) : NoneReady s t := noneReady_of_lanes h.lanes h.cfg

theorem noneReady_of_keeps {ps : List Part} {s t : State} (h : Keeps ps s t) (n : ∀ p ∈ [Part.lanes, .cfg], p ∉ ps) :
    NoneReady s t := noneReady_of_lanes (h .lanes (n _ (by simp))) (h .cfg (n _ (by simp)))

theorem leaveWaitList_noneReady (i : SlotNo) (s : State) : NoneReady s (s.leaveWaitList i) := by
  refine ⟨fun waits => ?_, fun _ => id, rfl⟩
  intro none
  refine waits ?_
  show s.lanes.waitList.filter _ = []
  rw [none]
  rfl

theorem laneSide_noneReady (i : SlotNo) (side : LaneSide) (s : State) : NoneReady s (s.laneSide i side) := by
  refine ⟨by rw [laneSide_waitList]; exact id, fun l ready => ?_, laneSide_keeps i side s .cfg (by decide)⟩
  rw [laneSide_state] at ready
  split at ready
  · cases ready
  · exact ready

theorem finishHead_noneReady (i : SlotNo) (o : Answer) (side : LaneSide) (s : State) : NoneReady s (s.finishHead i o side) := by
  cases head : s.headRun i with
  | none => rw [finishHead_of_none o side head]; exact NoneReady.refl s
  | some r =>
    rw [finishHead_of_head o side head]
    exact (((setFloor_calm i 0 s).noneReady.trans (leaveWaitList_noneReady i _)).trans (laneSide_noneReady i side _)).trans
      (noneReady_of_keeps (endRun_keeps i o r.step _) (by decide))

theorem LanesRest.noneReady {ps : List Part} {s t : State} (h : LanesRest s t) (keeps : Keeps ps s t) (n : Part.cfg ∉ ps) :
    NoneReady s t := ⟨by rw [h.1]; exact id, fun l ready => (h.2 l).isReady_eq ▸ ready, keeps .cfg n⟩

theorem wakeLanes_noneReady (s : State) : NoneReady s s.wakeLanes := (wakeLanes_rests s).noneReady (wakeLanes_keeps s) (by decide)

theorem startIdle_noneReady (s : State) : NoneReady s s.startIdle := (startIdle_rests s).noneReady (startIdle_keeps s) (by decide)

theorem setLane_noneReady {l : LaneNo} {y : Lane} {s : State}
    (ready : y.state.isReady = true → (s.lanes.table.get l).state.isReady = true) : NoneReady s (s.setLane l y) := by
  refine ⟨id, fun m r => ?_, rfl⟩
  have lane : (s.setLane l y).lanes.table.get m = if m = l then y else s.lanes.table.get m := get_setAt _ _ _ _
  rw [lane] at r
  split at r
  next same => rw [same]; exact ready r
  next => exact r

/-- Every grant is made, or the work still to do judges for grants. -/
def GrantWork (s : State) (ws : List Work) : Prop := s.GrantsMade ∨ Work.grant ∈ ws

theorem grantWork_of_noneReady {s t : State} {w : Work} {more ws : List Work} (before : GrantWork s (w :: ws))
    (other : w ≠ .grant) (h : NoneReady s t) : GrantWork t (more ++ ws) := by
  rcases before with made | member
  · exact .inl (made.of_noneReady h)
  · rcases List.mem_cons.mp member with same | member
    · exact absurd same.symm other
    · exact .inr (List.mem_append_right _ member)

theorem grantWork : WorkKeeps GrantWork := by
  rintro s t w more ws piece before
  cases piece
  case none idle => exact grantWork_of_noneReady before idle (NoneReady.refl s)
  case fail i r o head queued => exact grantWork_of_noneReady before nofun (noneReady_of_keeps (endRun_keeps i o 0 s) (by decide))
  case enter i r p head found queued present locked =>
    exact grantWork_of_noneReady before nofun (begin_calm i p.id p.phase s).noneReady
  case skip i r head => exact grantWork_of_noneReady before nofun (NoneReady.refl s)
  case useLane i r head => exact grantWork_of_noneReady before nofun (noneReady_of_keeps (setPlan_keeps _ _ _) (by decide))
  case noLanes i r head none => exact grantWork_of_noneReady before nofun (finishHead_noneReady i _ _ s)
  case ask i r pinned head free => exact .inr (List.mem_append_left _ (by simp))
  case floor i r q head => exact grantWork_of_noneReady before nofun (setFloor_calm i q s).noneReady
  case stand i r x head stands => exact grantWork_of_noneReady before nofun (noneReady_of_keeps (setPlan_keeps _ _ _) (by decide))
  case detach i r head =>
    exact grantWork_of_noneReady before nofun ((laneSide_noneReady i .release s).trans
      (noneReady_of_keeps (setPlan_keeps _ _ _) (by decide)))
  case mark i r p head found => exact grantWork_of_noneReady before nofun (noneReady_of_keeps (setPlan_keeps _ _ _) (by decide))
  case next i r p head found more => exact grantWork_of_noneReady before nofun (noneReady_of_keeps (setPlan_keeps _ _ _) (by decide))
  case done i r head => exact grantWork_of_noneReady before nofun (finishHead_noneReady i _ _ s)
  case granted => exact .inr (by simp)
  case unasked => exact .inr (by simp)
  case rest idle =>
    refine .inl ?_
    have rested := (wakeLanes_noneReady s).trans (startIdle_noneReady _)
    refine State.GrantsMade.of_noneReady (fun waits l configured => ?_) rested
    rcases idle with none | none
    · exact absurd none waits
    · exact firstLane_none none l (decide_eq_true configured)

theorem work_grantsMade {s : State} {ws : List Work} (right : s.RunsRight) (few : ws.length ≤ 8) (before : GrantWork s ws) :
    (s.work ws).GrantsMade := by
  rcases grantWork.ends (work_ends right few) before with made | member
  · exact made
  · cases member

theorem failQueued_noneReady (i : SlotNo) (s : State) : NoneReady s (s.failQueued i) :=
  noneReady_of_keeps (failQueued_keeps i s) (by decide)

theorem extract_noneReady (i : SlotNo) (s : State) : NoneReady s (s.extract i) := by
  have cleared : NoneReady (s.unseat i) ((s.unseat i).planExtraction i) :=
    ((noneReady_of_keeps (setPlan_keeps _ _ _) (by decide)).trans (finishHead_noneReady i _ _ _)).trans (failQueued_noneReady i _)
  rw [extract_eq]
  exact (((noneReady_of_keeps (unseat_keeps i s) (by decide)).trans cleared).trans (leaveWaitList_noneReady i _)).trans
    (laneSide_noneReady i .force _)

theorem appendRuns_noneReady (id : PlanId) : ∀ (is : List SlotNo) (s : State), NoneReady s (forSlots is (State.appendRun id) s)
  | [], s => NoneReady.refl s
  | i :: is, s => (noneReady_of_keeps (appendRun_keeps id i s) (by decide)).trans (appendRuns_noneReady id is _)

theorem starts_length {ks : List SlotNo} (few : ks.length ≤ 6) : (ks.map Work.start).length ≤ 8 := by
  rw [List.length_map]; omega

theorem takePlan_grantsMade (src : Source) (p : List Byte) {s : State} (right : s.RunsRight) (made : s.GrantsMade) :
    (s.takePlan src p).GrantsMade := by
  unfold State.takePlan
  split
  next => exact made.of_noneReady (noneReady_of_keeps (hand_keeps _ s) (by decide))
  next r accepted =>
    have slots := (judgePlan_accepts accepted).2.2.2.1
    refine work_grantsMade (planAccepted_runsRight right accepted) (starts_length ?_) (.inl (made.of_noneReady ?_))
    · rw [slots]
      exact (List.length_filter_le _ _).trans (List.length_filter_le _ allSlots)
    · exact (noneReady_of_keeps (planTaken_keeps src r s) (by decide)).trans (appendRuns_noneReady r.id r.mask _)

theorem Move.grantsMade {s t : State} (h : Move s t) (right : s.RunsRight) (made : s.GrantsMade) : t.GrantsMade := by
  have forced : ∀ i, NoneReady s (s.forceSlot i) := fun i =>
    (finishHead_noneReady i _ _ s).trans (laneSide_noneReady i .force _)
  cases h
  case calm h => exact made.of_noneReady h.noneReady
  case finish i o side =>
    exact work_grantsMade (finishHead_runsRight right i o side) (Nat.succ_le_succ (Nat.zero_le 7)) (.inl (made.of_noneReady (finishHead_noneReady i o side s)))
  case force i => exact made.of_noneReady (forced i)
  case forceGrant i =>
    exact made.of_noneReady ((forced i).trans (noneReady_of_keeps (grantRelease_keeps i _) (by decide)))
  case starts ks few => exact work_grantsMade right (starts_length few) (.inl made)
  case unpin i => exact made.of_noneReady (laneSide_noneReady i .force s)
  case advance i x head stands => exact work_grantsMade right (Nat.succ_le_succ (Nat.zero_le 7)) (.inl made)
  case retime i r x head before after => exact made.of_noneReady (noneReady_of_keeps (setPlan_keeps _ _ _) (by decide))
  case plan src p => exact takePlan_grantsMade src p right made
  case cancelQueued i r x rest id runs head found =>
    exact made.of_noneReady ((noneReady_of_keeps (reportRun_keeps _ _ _ _ _) (by decide)).trans
      (noneReady_of_keeps (setPlan_keeps _ _ _) (by decide)))
  case setLane l y held ready => exact made.of_noneReady (setLane_noneReady ready)
  case grants u keeps waits held => exact work_grantsMade (right.of_keeps keeps (by decide)) (by decide) (.inr (by simp))
  case wake => exact made.of_noneReady (wakeLanes_noneReady s)
  case lose l i q y attached lost out =>
    exact made.of_noneReady ((setLane_noneReady fun ready => absurd (out.symm.trans ready) nofun).trans
      (noneReady_of_keeps (laneDetached_keeps i _) (by decide)))
  case extract i u leaving => exact made.of_noneReady (extract_noneReady i s)
  case restart => exact grantsMade_empty (restartStages_waitList s)

theorem passBit_noneReady (s : State) : NoneReady s s.passBit :=
  ⟨by rw [passBit_waitList]; exact id, fun l => by rw [passBit_laneState]; exact id, passBit_keeps s .cfg (by decide)⟩

theorem grantsMade_lasting : Lasting fun s => s.GrantsMade ∧ s.RunsRight :=
  lasting_of_moves (fun _ _ move => fun ⟨made, right⟩ => ⟨move.grantsMade right made, move.runsRight right⟩)
    (fun s => fun ⟨made, right⟩ => ⟨made.of_noneReady (passBit_noneReady s), right.of_keeps (passBit_keeps s) (by decide)⟩)
    (fun _ _ _ _ => fun ⟨made, right⟩ => ⟨made, ⟨right.table, right.steps, right.counted, right.queued⟩⟩)
    (fun s => ⟨grantsMade_empty (clearBlocks_noRuns s).waitList, (clearBlocks_noRuns s).runsRight⟩)
    (fun s r d hd => ⟨grantsMade_empty (startBlocks_noRuns s r d hd).waitList, (startBlocks_noRuns s r d hd).runsRight⟩)

/-- Settles O50: every piece of work leaves the grants made or to be judged, and the work comes to its end (`work_ends`). -/
theorem noReadyLaneBesideWaitingSlot : Obligations.NoReadyLaneBesideWaitingSlot := fun _ _ made right stepped =>
  (grantsMade_lasting.step stepped ⟨made, right⟩).1

end Sys2Proof.Machine
end

section
/-! PROOF. The transmit queue and the short tables: what every operation of the queue keeps of its order and its places
(R55, R78, R148, R149, R155). -/

namespace Sys2Proof.Machine

/-! ## What the order of the queue reads of an entry -/

/-- Class, order and kind of place of an entry (R148). -/
def TxEntry.key (e : TxEntry) : Nat × Nat × Bool := (e.frame.cls, e.order, e.frame.isClaim)

/-- The queue's order on keys: by class, and within a class by enqueue order. -/
def keyBefore (x y : Nat × Nat × Bool) : Prop := x.1 < y.1 ∨ (x.1 = y.1 ∧ x.2.1 < y.2.1)

/-- The conditions of R148 on the keys of a queue and the order that the next entry takes. -/
structure KeysRight (keys : List (Nat × Nat × Bool)) (next : Nat) : Prop where
  sorted : keys.Pairwise keyBefore
  once : (keys.map (·.2.1)).Nodup
  below : ∀ x ∈ keys, x.2.1 < next
  places : (keys.filter (fun x => !x.2.2)).length ≤ 10

def Line.keys (l : Line) : List (Nat × Nat × Bool) := l.queue.map TxEntry.key

/-- The queue of a line stands in order, within its places. -/
def Line.Right (l : Line) : Prop := KeysRight l.keys l.nextOrder

theorem Line.generalUsed_eq (l : Line) : l.generalUsed = (l.keys.filter (fun x => !x.2.2)).length := by
  rw [Line.keys, List.filter_map, List.length_map]; rfl

theorem lineRight_iff {s : State} : s.line.Right ↔ s.QueueRight ∧ s.line.generalUsed ≤ 10 := by
  have orders : s.line.keys.map (·.2.1) = s.line.queue.map (·.order) := by rw [Line.keys, List.map_map]; rfl
  have sorted : s.line.keys.Pairwise keyBefore ↔
      s.line.queue.Pairwise (fun x y => x.frame.cls < y.frame.cls ∨ (x.frame.cls = y.frame.cls ∧ x.order < y.order)) :=
    List.pairwise_map
  have below : (∀ x ∈ s.line.keys, x.2.1 < s.line.nextOrder) ↔ ∀ e ∈ s.line.queue, e.order < s.line.nextOrder :=
    List.forall_mem_map
  rw [Line.generalUsed_eq]
  exact ⟨fun ⟨a, b, c, d⟩ => ⟨⟨sorted.mp a, orders ▸ b, below.mp c⟩, d⟩,
    fun ⟨⟨a, b, c⟩, d⟩ => ⟨sorted.mpr a, orders.symm ▸ b, below.mpr c, d⟩⟩

theorem KeysRight.sublist {ks js : List (Nat × Nat × Bool)} {n m : Nat} (h : KeysRight ks n) (sub : js.Sublist ks) (le : n ≤ m) :
    KeysRight js m where
  sorted := h.sorted.sublist sub
  once := h.once.sublist (sub.map _)
  below x x_mem := (h.below x (sub.subset x_mem)).trans_le le
  places := (sub.filter _).length_le.trans h.places

/-! ## Handing (R148, R149) -/

/-- The keys of a queue with one entry inserted. -/
def insertKey (e : Nat × Nat × Bool) : List (Nat × Nat × Bool) → List (Nat × Nat × Bool)
  | [] => [e]
  | x :: xs => if x.1 ≤ e.1 then x :: insertKey e xs else e :: x :: xs

theorem insertEntry_keys (e : TxEntry) (q : List TxEntry) : (insertEntry e q).map TxEntry.key = insertKey e.key (q.map TxEntry.key) := by
  induction q with
  | nil => rfl
  | cons x xs ih =>
    rw [insertEntry, List.map_cons, insertKey]
    by_cases order : x.frame.cls ≤ e.frame.cls
    · rw [if_pos order, if_pos (show x.key.1 ≤ e.key.1 from order), List.map_cons, ih]
    · rw [if_neg order, if_neg (show ¬ x.key.1 ≤ e.key.1 from order)]; rfl

theorem insertKey_perm (e : Nat × Nat × Bool) (ks : List (Nat × Nat × Bool)) : (insertKey e ks).Perm (e :: ks) := by
  induction ks with
  | nil => exact .refl _
  | cons x xs ih =>
    rw [insertKey]
    split
    · exact (ih.cons x).trans (.swap e x xs)
    · exact .refl _

/-- An entry of the highest order goes after its class and before the next (R148). -/
theorem insertKey_sorted {e : Nat × Nat × Bool} {ks : List (Nat × Nat × Bool)} (sorted : ks.Pairwise keyBefore)
    (newest : ∀ x ∈ ks, x.2.1 < e.2.1) : (insertKey e ks).Pairwise keyBefore := by
  induction ks with
  | nil => exact List.pairwise_singleton _ _
  | cons x xs ih =>
    obtain ⟨first, rest⟩ := List.pairwise_cons.mp sorted
    rw [insertKey]
    split
    next before =>
      refine List.pairwise_cons.mpr ⟨fun y member => ?_, ih rest fun y m => newest y (List.mem_cons_of_mem _ m)⟩
      rcases List.mem_cons.mp ((insertKey_perm e xs).subset member) with rfl | member
      · have order := newest x (by simp)
        rcases Nat.lt_or_eq_of_le before with less | same
        · exact .inl less
        · exact .inr ⟨same, order⟩
      · exact first y member
    next after =>
      refine List.pairwise_cons.mpr ⟨fun y member => .inl ?_, sorted⟩
      have less : e.1 < x.1 := Nat.lt_of_not_le after
      rcases List.mem_cons.mp member with rfl | member
      · exact less
      · rcases first y member with h | ⟨h, _⟩
        · exact less.trans h
        · exact h ▸ less

/-- What every operation keeps of a line: the order of the queue, its places and the range of the lost-frame count. -/
structure Line.Fares (l m : Line) : Prop where
  right : l.Right → m.Right
  lost : l.lost ≤ maxCount → l.lost ≤ m.lost ∧ m.lost ≤ maxCount

theorem Line.Fares.refl (l : Line) : l.Fares l := ⟨id, fun h => ⟨le_refl _, h⟩⟩

theorem Line.Fares.trans {l m n : Line} (h : l.Fares m) (k : m.Fares n) : l.Fares n := by
  refine ⟨k.right ∘ h.right, fun within => ?_⟩
  obtain ⟨more, cap⟩ := h.lost within
  obtain ⟨most, last⟩ := k.lost cap
  exact ⟨more.trans most, last⟩

/-- Entries leave the queue or change in what its order does not read. -/
theorem fares_of_keys {l m : Line} (keys : l.Right → m.keys.Sublist l.keys) (next : l.nextOrder ≤ m.nextOrder)
    (lost : m.lost = l.lost) : l.Fares m :=
  ⟨fun right => KeysRight.sublist right (keys right) next, fun h => ⟨lost.ge, lost.le.trans h⟩⟩

theorem fares_of_queue {l m : Line} (queue : m.queue = l.queue) (next : m.nextOrder = l.nextOrder) (lost : m.lost = l.lost) :
    l.Fares m := fares_of_keys (fun _ => by rw [Line.keys, queue]; exact .refl _) next.ge lost

theorem bump_bounds {n : Nat} (h : n ≤ maxCount) : n ≤ bump n ∧ bump n ≤ maxCount := by
  unfold bump maxCount at *; omega

theorem countLost_fares (l : Line) : l.Fares l.countLost := ⟨id, bump_bounds⟩

theorem enter_fares {f : TxFrame} {l : Line} (place : f.isClaim = true ∨ l.generalUsed < 10) : l.Fares (l.enter f) := by
  refine ⟨fun right => ?_, fun h => ⟨le_refl _, h⟩⟩
  have keys : (l.enter f).keys = insertKey (f.cls, l.nextOrder, f.isClaim) l.keys := insertEntry_keys _ _
  have perm := insertKey_perm (f.cls, l.nextOrder, f.isClaim) l.keys
  unfold Line.Right
  rw [keys]
  refine ⟨insertKey_sorted right.sorted right.below, (perm.map (·.2.1)).nodup_iff.mpr ?_, fun x m => ?_, ?_⟩
  · refine List.nodup_cons.mpr ⟨fun m => ?_, right.once⟩
    obtain ⟨x, held, same⟩ := List.mem_map.mp m
    exact absurd (right.below x held) (by rw [same]; exact Nat.lt_irrefl _)
  · show x.2.1 < l.nextOrder + 1
    rcases List.mem_cons.mp (perm.subset m) with rfl | m
    · exact Nat.lt_succ_self _
    · exact (right.below x m).trans (Nat.lt_succ_self _)
  · rw [(perm.filter _).length_eq]
    rcases place with claim | free
    · rw [List.filter_cons_of_neg (by simp [claim])]
      exact right.places
    · rw [Line.generalUsed_eq] at free
      rw [List.filter_cons]
      split
      · exact free
      · exact free.le

theorem lineHand_fares (f : TxFrame) (l : Line) : l.Fares (l.hand f) := by
  unfold Line.hand
  split
  next => exact countLost_fares l
  next place =>
    refine enter_fares ?_
    by_cases claim : f.isClaim = true
    · exact .inl claim
    · refine .inr (Nat.lt_of_not_le fun full => place ?_)
      simp only [Bool.not_eq_true] at claim
      rw [claim]
      exact decide_eq_true full

theorem isNeed_key {e : TxEntry} (h : e.frame.isNeed = true) : e.key = (2, e.order, false) := by
  cases frame : e.frame <;> simp_all [TxFrame.isNeed, TxEntry.key, TxFrame.cls, TxFrame.isClaim]

theorem refreshNeed_keys {f : TxFrame} (need : f.isNeed = true) (q : List TxEntry) :
    (refreshNeed f q).map TxEntry.key = q.map TxEntry.key := by
  induction q with
  | nil => rfl
  | cons e es ih =>
    rw [refreshNeed]
    split
    next waits =>
      have isNeed : e.frame.isNeed = true := by simp_all
      rw [List.map_cons, List.map_cons, isNeed_key isNeed, isNeed_key (e := { e with frame := f }) need]
    next => rw [List.map_cons, List.map_cons, ih]

theorem lineHandNeed_fares {f : TxFrame} (need : f.isNeed = true) (l : Line) : l.Fares (l.handNeed f) := by
  unfold Line.handNeed
  split
  · exact fares_of_keys (fun _ => by rw [Line.keys, refreshNeed_keys need]; exact .refl _) (le_refl _) rfl
  · exact lineHand_fares f l

/-! ## Withdrawing and sending (R83, R150 to R153) -/

/-- Entries leave, and those that stay change in what the order does not read. -/
theorem fares_of_filter {l : Line} (f : TxEntry → Bool) (g : TxEntry → TxEntry) (same : ∀ e, (g e).key = e.key) :
    l.Fares { l with queue := (l.queue.filter f).map g } := by
  refine fares_of_keys (fun _ => ?_) (le_refl _) rfl
  have keys : Line.keys { l with queue := (l.queue.filter f).map g } = (l.queue.filter f).map TxEntry.key := by
    rw [Line.keys, List.map_map]
    exact List.map_congr_left fun e _ => same e
  rw [keys]
  exact List.filter_sublist.map _

theorem withdrawWaiting_fares (l : Line) : l.Fares { l with queue := withdrawWaiting l.queue } :=
  fares_of_filter _ _ fun e => by split <;> rfl

theorem removeEntry_fares (e : TxEntry) (l : Line) : l.Fares { l with queue := removeEntry e l.queue } :=
  fares_of_keys (fun _ => List.filter_sublist.map _) (le_refl _) rfl

/-- The entry of a queue's order is the one entry that bears it (R148). -/
theorem Line.Right.entry {l : Line} (right : l.Right) {x e : TxEntry} (hx : x ∈ l.queue) (he : e ∈ l.queue)
    (same : x.order = e.order) : x = e := by
  have once := right.once
  rw [Line.keys, List.map_map] at once
  exact List.inj_on_of_nodup_map once hx he same

theorem replaceEntry_fares {e : TxEntry} {l : Line} (held : e ∈ l.queue) {x : TxEntry} (key : x.key = e.key) :
    l.Fares { l with queue := replaceEntry x l.queue } := by
  refine fares_of_keys (fun right => ?_) (le_refl _) rfl
  have keys : Line.keys { l with queue := replaceEntry x l.queue } = l.keys := by
    rw [Line.keys, Line.keys, replaceEntry, List.map_map]
    refine List.map_congr_left fun y member => ?_
    show TxEntry.key (if y.order = x.order then x else y) = y.key
    split
    next same =>
      have order : x.order = e.order := congrArg (·.2.1) key
      rw [key, right.entry member held (same.trans order)]
    next => rfl
  rw [keys]

/-! ## Operations on the state -/

/-- What every operation keeps of the queue, the lost-frame count, and the two short tables that no plan fills. -/
structure Orderly (s t : State) : Prop where
  line : s.line.Fares t.line
  own : s.claims.own.length ≤ 2 → t.claims.own.length ≤ 2
  ceilings : s.share.ceilings.length ≤ 4 → t.share.ceilings.length ≤ 4

theorem Orderly.refl (s : State) : Orderly s s := ⟨.refl _, id, id⟩

theorem Orderly.trans {s t u : State} (h : Orderly s t) (k : Orderly t u) : Orderly s u :=
  ⟨h.line.trans k.line, k.own ∘ h.own, k.ceilings ∘ h.ceilings⟩

theorem Orderly.ite {s t u : State} {c : Prop} [Decidable c] (h : Orderly s t) (k : Orderly s u) :
    Orderly s (if c then t else u) := by split <;> assumption

theorem orderly_foldl {α : Type} (f : State → α → State) (h : ∀ s a, Orderly s (f s a)) :
    ∀ (l : List α) (s : State), Orderly s (l.foldl f s)
  | [], s => Orderly.refl s
  | a :: l, s => (h s a).trans (orderly_foldl f h l (f s a))

theorem orderly_forSlots (f : SlotNo → State → State) (h : ∀ i s, Orderly s (f i s)) (ks : List SlotNo) (s : State) :
    Orderly s (forSlots ks f s) := orderly_foldl (fun t k => f k t) (fun t k => h k t) ks s

/-- A change of the line alone. -/
theorem orderly_of_line {s t : State} (line : s.line.Fares t.line) (claims : t.claims = s.claims) (share : t.share = s.share) :
    Orderly s t := ⟨line, by rw [claims]; exact id, by rw [share]; exact id⟩

/-- A change elsewhere, which lengthens neither own claims nor ceiling records. -/
theorem orderly_of_lengths {s t : State} (line : t.line = s.line) (own : t.claims.own.length ≤ s.claims.own.length)
    (ceilings : t.share.ceilings.length ≤ s.share.ceilings.length) : Orderly s t :=
  ⟨by rw [line]; exact .refl _, own.trans, ceilings.trans⟩

theorem Orderly.of_keeps {ps : List Part} {s t : State} (h : Keeps ps s t)
    (n : ∀ p ∈ [Part.queue, .requests, .ceilings], p ∉ ps) : Orderly s t := by
  have queue := h .queue (n _ (by simp))
  have requests := h .requests (n _ (by simp))
  have ceilings := h .ceilings (n _ (by simp))
  exact ⟨fares_of_queue queue.1 queue.2.1 queue.2.2, fun w => by rw [requests.2.1]; exact w, fun w => by rw [ceilings]; exact w⟩

theorem hand_orderly (f : TxFrame) (s : State) : Orderly s (s.hand f) := orderly_of_line (lineHand_fares f s.line) rfl rfl

theorem handNeed_orderly (s : State) : Orderly s s.handNeed := by
  refine ⟨lineHandNeed_fares rfl s.line, id, id⟩

theorem setRequests_orderly (rs : List Request) (s : State) : Orderly s (s.setRequests rs) :=
  orderly_of_lengths rfl (le_refl _) (le_refl _)

/-- A CLAIM frame is handed only while fewer than two own claims are outstanding (R78). -/
theorem handClaim_orderly (s : State) : Orderly s s.handClaim := by
  unfold State.handClaim
  split
  next may =>
    split
    next => exact Orderly.refl s
    next r _ =>
      refine ⟨lineHand_fares (.claim s.claims.tagCounter r.op r.slot (claimAmount s.cfg r.op) (claimDuration s.cfg)) s.line,
        fun _ => ?_, id⟩
      show (s.claims.own ++ [_]).length ≤ 2
      rw [List.length_append]
      exact Nat.succ_le_of_lt may.1
  next => exact Orderly.refl s

theorem handClaims_orderly (s : State) : Orderly s s.handClaims := (handClaim_orderly s).trans (handClaim_orderly _)

theorem withdrawClaims_orderly (s : State) : Orderly s s.withdrawClaims :=
  ⟨withdrawWaiting_fares s.line, (List.length_filter_le _ _).trans, id⟩

theorem disownClaim_orderly (i : SlotNo) (s : State) : Orderly s (s.disownClaim i) := by
  unfold State.disownClaim
  split
  · exact Orderly.refl s
  next c _ =>
    split
    · refine ⟨?_, (List.length_filter_le _ _).trans, id⟩
      exact fares_of_keys (fun _ => List.filter_sublist.map _) (le_refl _) rfl
    · refine ⟨?_, fun h => (List.length_map _).trans_le h, id⟩
      have marked := fares_of_filter (l := s.line) (fun _ => true)
        (fun e => if c.isFrame e.frame then { e with withdraw := true } else e) (fun e => by split <;> rfl)
      rw [List.filter_true] at marked
      exact marked

theorem endOwnClaim_orderly (f : Bool) (tag : Nat) (op : LatchOp) (i : SlotNo) (s : State) :
    Orderly s (s.endOwnClaim f tag op i) := by
  unfold State.endOwnClaim
  split
  · exact Orderly.refl s
  · exact orderly_of_lengths rfl (List.length_filter_le _ _) (le_refl _)

/-- The own claims that the record of one admission leaves (R81). -/
theorem setOwn_orderly {own : List OwnClaim} {s : State} (h : own.length ≤ s.claims.own.length) :
    Orderly s { s with claims := { s.claims with own := own } } := orderly_of_lengths rfl h (le_refl _)

theorem setCeilings_orderly {rs : List CeilingRecord} {s : State}
    (h : s.share.ceilings.length ≤ 4 → rs.length ≤ 4) : Orderly s (s.setCeilings rs) := ⟨.refl _, id, h⟩

end Sys2Proof.Machine
end

section
/-! PROOF. Every operation keeps the order and the places of the transmit queue and of the short tables (R55, R78, R148). -/

namespace Sys2Proof.Machine

theorem notice_orderly (k : NoticeKind) (i : Option SlotNo) (d : Nat) (s : State) : Orderly s (s.notice k i d) :=
  Orderly.ite (hand_orderly _ _) (Orderly.refl _)

theorem updateCharge_orderly (i : SlotNo) (f : ChargeSlot → ChargeSlot) (s : State) :
    Orderly s (s.updateCharge i f) := by
  unfold State.updateCharge
  have h : Orderly s (s.setCharge i (f (s.charge.get i))) := (Orderly.of_keeps (setCharge_keeps _ _ _) (by decide))
  exact Orderly.ite (h.trans (notice_orderly _ _ _ _)) h

theorem handAllocation_orderly (k : SlotNo) (p : Nat) (s : State) : Orderly s (handAllocation k p s) := by
  unfold handAllocation
  refine Orderly.ite (Orderly.refl _) (Orderly.trans ?_ (updateCharge_orderly _ _ _))
  exact orderly_of_lengths rfl (le_refl _) (le_refl _)

theorem distribute_orderly (s : State) : Orderly s s.distribute :=
  orderly_forSlots _ (fun _ _ => handAllocation_orderly _ _ _) _ _

theorem judgeFloorShort_orderly (s : State) : Orderly s s.judgeFloorShort := by
  unfold State.judgeFloorShort
  refine Orderly.ite (Orderly.ite (Orderly.refl _) (Orderly.trans ?_ (notice_orderly _ _ _ _))) ?_ <;>
    (exact orderly_of_lengths rfl (le_refl _) (le_refl _))

theorem computeOnce_orderly (r : Bool) (s : State) : Orderly s (s.computeOnce r) := by
  unfold State.computeOnce
  refine (judgeFloorShort_orderly s).trans (Orderly.trans ?_ (distribute_orderly _))
  exact orderly_of_lengths rfl (le_refl _) (le_refl _)

theorem judgeEarlyNeed_orderly (s : State) : Orderly s s.judgeEarlyNeed := by
  unfold State.judgeEarlyNeed
  refine Orderly.ite (Orderly.ite (handNeed_orderly s) ?_) (Orderly.refl _)
  exact orderly_of_lengths rfl (le_refl _) (le_refl _)

theorem takeDemands_orderly (s : State) : Orderly s s.takeDemands := by
  exact orderly_of_lengths rfl (le_refl _) (le_refl _)

theorem demandRound_orderly (s : State) : Orderly s s.demandRound := by
  unfold State.demandRound
  refine (takeDemands_orderly s).trans (Orderly.ite (distribute_orderly _)
    (Orderly.trans ?_ ((judgeEarlyNeed_orderly _).trans (computeOnce_orderly _ _))))
  exact orderly_of_lengths rfl (le_refl _) (le_refl _)

theorem settle_orderly : ∀ (n : Nat) (s : State), Orderly s (settle n s)
  | 0, s => Orderly.refl s
  | n + 1, s => by
    unfold settle
    exact Orderly.ite ((demandRound_orderly s).trans (settle_orderly n _)) (Orderly.refl _)

theorem settled_orderly (s : State) : Orderly s s.settled := settle_orderly _ s

theorem compute_orderly (r : Bool) (s : State) : Orderly s (s.compute r) :=
  (computeOnce_orderly r s).trans (settled_orderly _)

theorem chargeEvent_orderly (i : SlotNo) (f : ChargeSlot → ChargeSlot) (s : State) :
    Orderly s (s.chargeEvent i f) := (updateCharge_orderly i f s).trans (settled_orderly _)

theorem tamperReport_orderly (i : SlotNo) (c : TamperCause) (found : Bool) (s : State) :
    Orderly s (s.tamperReport i c found) := by
  unfold State.tamperReport
  exact Orderly.ite (Orderly.refl _) (((Orderly.of_keeps (setHold_keeps _ _ _) (by decide))).trans (notice_orderly _ _ _ _))

theorem reportReserve_orderly (s : State) : Orderly s s.reportReserve := by
  unfold State.reportReserve
  refine Orderly.trans ?_ (compute_orderly _ _)
  exact orderly_of_lengths rfl (le_refl _) (le_refl _)

theorem enterClaim_orderly (e : ClaimEntry) (s : State) : Orderly s (s.enterClaim e) := by
  unfold State.enterClaim
  refine Orderly.trans ?_ (reportReserve_orderly _)
  exact orderly_of_lengths rfl (le_refl _) (le_refl _)

theorem addRequest_orderly (i : SlotNo) (op : LatchOp) (n : Nat) (s : State) :
    Orderly s (s.addRequest i op n) :=
  ((setRequests_orderly _ _)).trans (handClaims_orderly _)

theorem grantRelease_orderly (i : SlotNo) (s : State) : Orderly s (s.grantRelease i) :=
  ((Orderly.of_keeps (setLatch_keeps _ _ _) (by decide))).trans (addRequest_orderly _ _ _ _)

theorem jam_orderly (i : SlotNo) (op : LatchOp) (s : State) : Orderly s (s.jam i op) :=
  (((Orderly.of_keeps (setLatchState_keeps _ _ _) (by decide))).trans (notice_orderly _ _ _ _)).trans
    ((Orderly.of_keeps (jamReport_keeps _ _) (by decide)))

theorem throwWait_orderly (i : SlotNo) (n : Nat) (s : State) : Orderly s (s.throwWait i n) :=
  ((Orderly.of_keeps (setLatch_keeps _ _ _) (by decide))).trans (addRequest_orderly _ _ _ _)

theorem withdrawEnded_orderly (i : SlotNo) (n : Nat) (s : State) : Orderly s (s.withdrawEnded i n) := by
  unfold State.withdrawEnded
  split
  · exact (Orderly.of_keeps (openLatch_keeps _ _) (by decide))
  · exact Orderly.ite (((Orderly.of_keeps (setLatch_keeps _ _ _) (by decide))).trans (addRequest_orderly _ _ _ _))
      (jam_orderly _ _ _)
  · exact (Orderly.of_keeps (setLatchState_keeps _ _ _) (by decide))

theorem endWithdraw_orderly (i : SlotNo) (s : State) : Orderly s (s.endWithdraw i) := by
  unfold State.endWithdraw
  have h : ∀ l, Orderly s (s.setLatch i l) := fun l => (Orderly.of_keeps (setLatch_keeps _ _ _) (by decide))
  have k : ∀ l a, Orderly s
      (if a = true then (s.setLatch i l).learnLatch i else (s.setLatch i l).withdrawEnded i (s.latch.get i).attempt) :=
    fun l a => Orderly.ite ((h l).trans ((Orderly.of_keeps (learnLatch_keeps _ _) (by decide)))) ((h l).trans (withdrawEnded_orderly _ _ _))
  exact Orderly.ite ((k _ _).trans (tamperReport_orderly _ _ _ _)) (k _ _)

theorem endThrow_orderly (i : SlotNo) (s : State) : Orderly s (s.endThrow i) := by
  unfold State.endThrow
  refine Orderly.trans ((Orderly.of_keeps (setLatch_keeps i _ s) (by decide))) (Orderly.ite ((Orderly.of_keeps (learnLatch_keeps _ _) (by decide))) ?_)
  split
  · exact (Orderly.of_keeps (setLatch_keeps _ _ _) (by decide))
  · exact Orderly.ite (throwWait_orderly _ _ _) (jam_orderly _ _ _)
  · exact (Orderly.of_keeps (setLatchState_keeps _ _ _) (by decide))

theorem latchInsertion_orderly (i : SlotNo) (f : Bool) (s : State) :
    Orderly s (s.latchInsertion i f) := by
  unfold State.latchInsertion
  dsimp only
  split
  · exact (tamperReport_orderly _ _ _ _)
  · exact (tamperReport_orderly _ _ _ _)
  · exact (Orderly.of_keeps (setLatch_keeps _ _ _) (by decide))
  · exact (Orderly.of_keeps (startOpenTimer_keeps _ _ _) (by decide))
  · exact Orderly.refl _

theorem latchExtraction_orderly (i : SlotNo) (s : State) : Orderly s (s.latchExtraction i) := by
  unfold State.latchExtraction
  dsimp only
  split
  · exact (tamperReport_orderly _ _ _ _)
  · exact (tamperReport_orderly _ _ _ _)
  · exact (Orderly.of_keeps (setLatch_keeps _ _ _) (by decide))
  · exact (Orderly.of_keeps (startOpenTimer_keeps _ _ _) (by decide))
  · exact Orderly.refl _

theorem takeClaim_orderly (e : ClaimEntry) (s : State) : Orderly s (s.takeClaim e) :=
  Orderly.ite (enterClaim_orderly _ _) (Orderly.refl _)

theorem ownAdmitted_orderly (c : OwnClaim) (e : ClaimEntry) (s : State) : Orderly s (s.ownAdmitted c e) := by
  unfold State.ownAdmitted
  have h : ∀ own : List OwnClaim, own.length ≤ s.claims.own.length →
      Orderly s (({ s with claims := { s.claims with own := own } } : State).enterClaim e) := fun own few =>
    (setOwn_orderly few).trans (enterClaim_orderly _ _)
  have marked := h _ (List.length_map (fun x => if OwnClaim.matches c.tag c.op c.slot x then
    { x with expires := some e.expiry } else x)).le
  exact Orderly.ite ((marked.trans (setRequests_orderly _ _)).trans (Orderly.of_keeps (drivePulse_keeps _ _ _ _) (by decide))) marked

theorem ownRefused_orderly (c : OwnClaim) (s : State) : Orderly s (s.ownRefused c) := by
  unfold State.ownRefused
  refine Orderly.trans (Orderly.ite ?_ ?_) (handClaims_orderly _)
  all_goals exact orderly_of_lengths rfl (List.length_filter_le _ _) (le_refl _)

theorem completeOwnClaim_orderly (tag : Nat) (op : LatchOp) (i : SlotNo) (a d : Nat) (s : State) :
    Orderly s (s.completeOwnClaim tag op i a d) := by
  unfold State.completeOwnClaim
  dsimp only
  split
  · exact takeClaim_orderly _ _
  · exact Orderly.ite (ownAdmitted_orderly _ _ _) (ownRefused_orderly _ _)

theorem expireClaims_orderly (s : State) : Orderly s s.expireClaims := by
  unfold State.expireClaims
  refine Orderly.trans (Orderly.trans ?_ (reportReserve_orderly _)) (handClaims_orderly _)
  exact orderly_of_lengths rfl (List.length_filter_le _ _) (le_refl _)

theorem timeOutRelease_orderly (i : SlotNo) (s : State) : Orderly s (s.timeOutRelease i) := by
  unfold State.timeOutRelease
  exact ((((Orderly.of_keeps (setLatch_keeps _ _ _) (by decide))).trans ((setRequests_orderly _ _))).trans
    (notice_orderly _ _ _ _)).trans
      ((disownClaim_orderly _ _).trans (handClaims_orderly _))

theorem laneDetached_orderly (i : SlotNo) (s : State) : Orderly s (s.laneDetached i) := by
  unfold State.laneDetached
  refine Orderly.trans ?_ (chargeEvent_orderly _ _ _)
  exact orderly_of_lengths rfl (le_refl _) (le_refl _)

theorem laneAttached_orderly (i : SlotNo) (s : State) : Orderly s (s.laneAttached i) := chargeEvent_orderly _ _ _

theorem detachLane_orderly (l : LaneNo) (i : SlotNo) (s : State) :
    Orderly s (s.detachLane l i) :=
  ((Orderly.of_keeps (moveLane_keeps _ _ _) (by decide))).trans (laneDetached_orderly _ _)

theorem releaseLane_orderly (i : SlotNo) (s : State) : Orderly s (s.releaseLane i) := by
  unfold State.releaseLane
  split
  · exact detachLane_orderly _ _ _
  · exact Orderly.refl _

theorem forceRelease_orderly (i : SlotNo) (s : State) : Orderly s (s.forceRelease i) := by
  unfold State.forceRelease
  split
  · exact detachLane_orderly _ _ _
  · exact Orderly.refl _

theorem laneSide_orderly (i : SlotNo) (x : LaneSide) (s : State) :
    Orderly s (s.laneSide i x) := by
  cases x
  · exact releaseLane_orderly _ _
  · exact forceRelease_orderly _ _
  · exact Orderly.refl _

theorem reportRun_orderly (i : SlotNo) (r : Run) (o : Answer) (n : Nat) (s : State) : Orderly s (s.reportRun i r o n) := by
  unfold State.reportRun
  split
  · exact Orderly.refl _
  · exact (hand_orderly _ s).trans (orderly_of_lengths rfl (le_refl _) (le_refl _))

theorem endRun_orderly (i : SlotNo) (o : Answer) (n : Nat) (s : State) : Orderly s (s.endRun i o n) := by
  unfold State.endRun
  split
  · exact Orderly.refl _
  · exact (reportRun_orderly _ _ _ _ _).trans ((Orderly.of_keeps (setPlan_keeps _ _ _) (by decide)))

theorem setFloor_orderly (i : SlotNo) (q : Nat) (s : State) : Orderly s (s.setFloor i q) :=
  ((Orderly.of_keeps (setPlan_keeps _ _ _) (by decide))).trans (settled_orderly _)

theorem finishHead_orderly (i : SlotNo) (o : Answer) (x : LaneSide) (s : State) : Orderly s (s.finishHead i o x) := by
  unfold State.finishHead
  split
  · exact Orderly.refl _
  · exact (((setFloor_orderly _ _ _).trans ((Orderly.of_keeps (leaveWaitList_keeps _ _) (by decide)))).trans
      (laneSide_orderly _ _ _)).trans (endRun_orderly _ _ _ _)

theorem startRun_orderly (i : SlotNo) (s : State) : Orderly s (s.startRun i).1 := by
  unfold State.startRun
  split
  · exact Orderly.refl _
  split
  · exact Orderly.refl _
  split
  · exact Orderly.refl _
  split
  · exact (endRun_orderly _ _ _ _)
  · exact (Orderly.of_keeps (setPlan_keeps _ _ _) (by decide))

theorem attachStep_orderly (i : SlotNo) (r : Run) (p : PlanRecord) (s : State) : Orderly s (s.attachStep i r p).1 := by
  unfold State.attachStep
  split
  · exact (Orderly.of_keeps (setRun_keeps _ _ _) (by decide))
  split
  · exact finishHead_orderly _ _ _ _
  · exact orderly_of_lengths rfl (le_refl _) (le_refl _)

theorem performStep_orderly (i : SlotNo) (s : State) : Orderly s (s.performStep i).1 := by
  unfold State.performStep
  split
  · exact Orderly.refl _
  split
  · exact Orderly.refl _
  split
  · exact Orderly.refl _
  split
  · exact Orderly.refl _
  · exact attachStep_orderly _ _ _ _
  · exact (setFloor_orderly _ _ _)
  · exact (Orderly.of_keeps (setRun_keeps _ _ _) (by decide))
  · split
    · exact Orderly.refl _
    · exact (Orderly.of_keeps (setRun_keeps _ _ _) (by decide))
  · exact (releaseLane_orderly _ _).trans ((Orderly.of_keeps (setRun_keeps _ _ _) (by decide)))
  · exact (Orderly.of_keeps (setPlan_keeps _ _ _) (by decide))

theorem advanceRun_orderly (i : SlotNo) (s : State) : Orderly s (s.advanceRun i).1 := by
  unfold State.advanceRun
  split
  · exact Orderly.refl _
  split
  · exact Orderly.refl _
  split
  · exact (Orderly.of_keeps (setRun_keeps _ _ _) (by decide))
  · exact finishHead_orderly _ _ _ _

theorem takeGrant_orderly (i : SlotNo) (s : State) : Orderly s (s.takeGrant i).1 := by
  unfold State.takeGrant
  split
  · exact Orderly.refl _
  split
  · exact (Orderly.of_keeps (setRun_keeps _ _ _) (by decide))
  · exact Orderly.refl _

theorem grantStep_orderly (s : State) : Orderly s s.grantStep.1 := by
  unfold State.grantStep
  split
  · refine Orderly.trans (Orderly.trans (Orderly.trans ?_ ((Orderly.of_keeps (moveLane_keeps _ _ _) (by decide))))
      (laneAttached_orderly _ _)) (takeGrant_orderly _ _)
    exact orderly_of_lengths rfl (le_refl _) (le_refl _)
  · exact ((Orderly.of_keeps (wakeLanes_keeps _) (by decide)).trans (Orderly.of_keeps (startIdle_keeps _) (by decide)))

theorem workStep_orderly (w : Work) (s : State) : Orderly s (s.workStep w).1 := by
  cases w
  · exact startRun_orderly _ _
  · exact performStep_orderly _ _
  · exact advanceRun_orderly _ _
  · exact grantStep_orderly _

theorem runWork_orderly : ∀ (n : Nat) (ws : List Work) (s : State), Orderly s (runWork n ws s)
  | 0, _, s => Orderly.refl s
  | _ + 1, [], s => Orderly.refl s
  | n + 1, w :: _, s => (workStep_orderly w s).trans (runWork_orderly n _ _)

theorem work_orderly (ws : List Work) (s : State) : Orderly s (s.work ws) := runWork_orderly _ _ _

theorem finishAndStart_orderly (i : SlotNo) (o : Answer) (x : LaneSide) (s : State) :
    Orderly s (s.finishAndStart i o x) := (finishHead_orderly _ _ _ _).trans (work_orderly _ _)

theorem takePlan_orderly (src : Source) (p : List Byte) (s : State) : Orderly s (s.takePlan src p) := by
  unfold State.takePlan
  split
  · exact (hand_orderly _ _)
  · refine Orderly.trans (Orderly.trans (Orderly.trans ?_ (hand_orderly _ _))
      ((orderly_forSlots _ (fun i s => Orderly.of_keeps (appendRun_keeps _ i s) (by decide)) _ _))) (work_orderly _ _)
    exact orderly_of_lengths rfl (le_refl _) (le_refl _)

theorem takeGo_orderly (p : List Byte) (s : State) : Orderly s (s.takeGo p) := by
  unfold State.takeGo
  split
  · exact Orderly.refl _
  split
  · exact Orderly.refl _
  split
  · exact Orderly.ite (work_orderly _ _) (Orderly.refl _)
  · exact Orderly.refl _

theorem cancelSlot_orderly (id : PlanId) (i : SlotNo) (s : State) : Orderly s (s.cancelSlot id i) := by
  unfold State.cancelSlot
  split
  · exact Orderly.refl _
  split
  · exact finishAndStart_orderly _ _ _ _
  split
  · exact Orderly.refl _
  · exact (reportRun_orderly _ _ _ _ _).trans ((Orderly.of_keeps (setPlan_keeps _ _ _) (by decide)))

theorem takeCancel_orderly (p : List Byte) (s : State) : Orderly s (s.takeCancel p) :=
  Orderly.ite (orderly_forSlots _ (fun i s => cancelSlot_orderly _ i s) _ _) (Orderly.refl _)

theorem takeUnpin_orderly (src : Source) (p : List Byte) (s : State) : Orderly s (s.takeUnpin src p) := by
  unfold State.takeUnpin
  dsimp only
  split
  · exact (hand_orderly _ _)
  · exact Orderly.ite (hand_orderly _ _)
      ((forceRelease_orderly _ _).trans (hand_orderly _ _))

theorem takeClass5_orderly (src : Source) (p : List Byte) (s : State) : Orderly s (s.takeClass5 src p) := by
  unfold State.takeClass5
  exact Orderly.ite (Orderly.refl _) (Orderly.ite (Orderly.ite ((Orderly.of_keeps (takeBuild_keeps _ _) (by decide))) (Orderly.refl _))
    (Orderly.ite (Orderly.refl _) (Orderly.ite (takePlan_orderly _ _ _)
      (Orderly.ite (takeGo_orderly _ _) (Orderly.ite (takeCancel_orderly _ _)
        (takeUnpin_orderly _ _ _))))))

theorem enumAsserted_orderly (i : SlotNo) (s : State) : Orderly s (s.enumAsserted i) := by
  unfold State.enumAsserted
  split
  · exact Orderly.refl _
  split
  · exact work_orderly _ _
  · exact (Orderly.of_keeps (setRun_keeps _ _ _) (by decide))
  · exact (Orderly.of_keeps (setRun_keeps _ _ _) (by decide))
  · exact Orderly.refl _

theorem enumReleased_orderly (i : SlotNo) (s : State) : Orderly s (s.enumReleased i) := by
  unfold State.enumReleased
  split
  · exact Orderly.refl _
  refine Orderly.ite ?_ (Orderly.refl _)
  split
  · exact (Orderly.of_keeps (setRun_keeps _ _ _) (by decide))
  · exact (Orderly.of_keeps (setRun_keeps _ _ _) (by decide))
  · exact Orderly.refl _

theorem changeEnumerated_orderly (l : LaneNo) (v : Level) (s : State) : Orderly s (s.changeEnumerated l v) := by
  unfold State.changeEnumerated
  dsimp only
  split
  · exact ((Orderly.of_keeps (setLane_keeps _ _ _) (by decide))).trans (enumAsserted_orderly _ _)
  · exact ((Orderly.of_keeps (setLane_keeps _ _ _) (by decide))).trans (enumReleased_orderly _ _)
  · exact (Orderly.of_keeps (setLane_keeps _ _ _) (by decide))

theorem planLaneFault_orderly (i : SlotNo) (s : State) : Orderly s (s.planLaneFault i) :=
  Orderly.ite (finishAndStart_orderly _ _ _ _) (Orderly.refl _)

theorem faultLane_orderly (l : LaneNo) (s : State) : Orderly s (s.faultLane l) := by
  unfold State.faultLane
  dsimp only
  have h : ∀ t : State, Orderly s t →
      Orderly s (match (s.lanes.table.get l).state.slot with
        | some i => (t.laneDetached i).planLaneFault i
        | none => t) := by
    intro t h
    split
    · exact (h.trans (laneDetached_orderly _ _)).trans (planLaneFault_orderly _ _)
    · exact h
  have k := h _ (Orderly.of_keeps (setLane_keeps l ({ s.lanes.table.get l with
    faults := (s.lanes.table.get l).faults + 1, faultIn := .asserted, faultPin := true, faultRun := {} }.move s.clock
      (if decide (faultLimit ≤ (s.lanes.table.get l).faults + 1) then .retired else .faulted none)) s) (by decide))
  exact Orderly.ite ((k.trans (notice_orderly _ _ _ _)).trans ((Orderly.of_keeps (wakeLanes_keeps _) (by decide))))
    (k.trans (notice_orderly _ _ _ _))

theorem insert_orderly (i : SlotNo) (c : Option Nat) (f : Bool) (s : State) : Orderly s (s.insert i c f) := by
  unfold State.insert
  have h : ∀ m : MonitorSlot, ∀ k d g,
      Orderly s (((((s.setMonitor i m).notice .inserted k d).chargeEvent i g).latchInsertion i f)) := fun m k d g =>
    ((((Orderly.of_keeps (setMonitor_keeps _ _ _) (by decide))).trans (notice_orderly _ _ _ _)).trans
      (chargeEvent_orderly _ _ _)).trans (latchInsertion_orderly _ _ _)
  exact Orderly.ite ((h _ _ _ _).trans ((Orderly.of_keeps (settleStart_keeps _ _) (by decide)))) (h _ _ _ _)

theorem failQueued_orderly (i : SlotNo) (s : State) : Orderly s (s.failQueued i) :=
  (orderly_foldl _ (fun _ _ => reportRun_orderly _ _ _ _ _) _ _).trans ((Orderly.of_keeps (setPlan_keeps _ _ _) (by decide)))

theorem planExtraction_orderly (i : SlotNo) (s : State) : Orderly s (s.planExtraction i) :=
  (((Orderly.of_keeps (setPlan_keeps _ _ _) (by decide))).trans (finishHead_orderly _ _ _ _)).trans
    (failQueued_orderly _ _)

theorem extract_orderly (i : SlotNo) (s : State) : Orderly s (s.extract i) := by
  unfold State.extract
  exact (((((((Orderly.of_keeps (setMonitor_keeps _ _ _) (by decide))).trans (notice_orderly _ _ _ _)).trans
    (chargeEvent_orderly _ _ _)).trans (latchExtraction_orderly _ _)).trans
    ((Orderly.of_keeps (setCustody_keeps _ _ _) (by decide)))).trans (planExtraction_orderly _ _)).trans
    (((Orderly.of_keeps (leaveWaitList_keeps _ _) (by decide))).trans (forceRelease_orderly _ _))

theorem faultSlot_orderly (i : SlotNo) (k : FaultKind) (f : ChargeSlot → ChargeSlot) (s : State) :
    Orderly s (s.faultSlot i k f) :=
  (notice_orderly _ _ _ _).trans (chargeEvent_orderly _ _ _)

theorem publish_orderly (i : SlotNo) (v a : Nat) (s : State) : Orderly s (s.publish i v a) := by
  unfold State.publish
  have h : ∀ m : MonitorSlot, Orderly s (s.setMonitor i m) := fun m =>
    (Orderly.of_keeps (setMonitor_keeps _ _ _) (by decide))
  exact Orderly.ite ((h _).trans (faultSlot_orderly _ _ _ _))
    ((h _).trans (chargeEvent_orderly _ _ _))

theorem integrate_orderly (i : SlotNo) (m e : Nat) (s : State) : Orderly s (s.integrate i m e) :=
  ((Orderly.of_keeps (setMonitor_keeps _ _ _) (by decide))).trans (chargeEvent_orderly _ _ _)

theorem endDetect_orderly (i : SlotNo) (s : State) : Orderly s (s.endDetect i) :=
  Orderly.ite (chargeEvent_orderly _ _ _) (chargeEvent_orderly _ _ _)

theorem passDue_orderly (i : SlotNo) (s : State) : Orderly s (s.passDue i) :=
  ((Orderly.of_keeps (setCustody_keeps _ _ _) (by decide))).trans (settled_orderly _)

theorem changeShare_orderly (x : ShareState) (s : State) : Orderly s (s.changeShare x) := by
  unfold State.changeShare
  refine Orderly.ite (Orderly.refl _) (Orderly.trans ?_ (notice_orderly _ _ _ _))
  exact orderly_of_lengths rfl (le_refl _) (le_refl _)

theorem enterJoined_orderly (s : State) : Orderly s s.enterJoined :=
  ((Orderly.of_keeps (setSilence_keeps _ _) (by decide))).trans (changeShare_orderly _ _)

theorem enterIsolated_orderly (s : State) : Orderly s s.enterIsolated :=
  ((Orderly.of_keeps (setSilence_keeps _ _) (by decide))).trans (changeShare_orderly _ _)

theorem countListen_orderly (s : State) : Orderly s s.countListen := by
  unfold State.countListen
  have h : ∀ n, Orderly s { s with share := { s.share with listenCount := n } } := by
    exact fun n => orderly_of_lengths rfl (le_refl _) (le_refl _)
  exact Orderly.ite (Orderly.ite (h _) (Orderly.ite ((h _).trans (enterJoined_orderly _)) ((h _).trans (enterIsolated_orderly _))))
    (Orderly.refl _)

theorem report_orderly (s : State) : Orderly s s.report := by
  unfold State.report
  refine Orderly.trans (Orderly.trans (Orderly.trans (t := { s with share := { s.share with
    reportAt := momentAfter s.share.reportAt s.cfg.reportPeriod } }) ?_ (countListen_orderly _))
    (handNeed_orderly _)) (compute_orderly _ _)
  exact orderly_of_lengths rfl (le_refl _) (le_refl _)

theorem spaceNeed_orderly (s : State) : Orderly s s.spaceNeed := by
  unfold State.spaceNeed
  refine Orderly.ite (handNeed_orderly s) ?_
  exact orderly_of_lengths rfl (le_refl _) (le_refl _)

theorem enterCeiling_length {n : CeilingRecord} {rs qs : List CeilingRecord} (h : enterCeiling n rs = some qs) (few : rs.length ≤ 4) :
    qs.length ≤ 4 := by
  unfold enterCeiling at h
  split at h
  · cases h; rwa [List.length_map]
  · split at h
    next place =>
      cases h
      rw [List.length_append]
      exact Nat.succ_le_of_lt place
    · split at h
      · cases h
      · split at h
        · cases h; rwa [List.length_map]
        · cases h

theorem takeCeiling_orderly (src : Source) (p : List Byte) (s : State) : Orderly s (s.takeCeiling src p) := by
  unfold State.takeCeiling
  split
  next taken => exact (setCeilings_orderly (enterCeiling_length taken)).trans (compute_orderly _ _)
  next => exact Orderly.refl _

theorem takeNeed_orderly (a : Station) (p : List Byte) (s : State) : Orderly s (s.takeNeed a p) := by
  unfold State.takeNeed
  have h : ∀ x, Orderly s (s.setPeer a x) := fun x => (Orderly.of_keeps (setPeer_keeps _ _ _) (by decide))
  exact (Orderly.ite ((h _).trans (enterJoined_orderly _)) (h _)).trans (compute_orderly _ _)

theorem takeLeave_orderly (a : Station) (s : State) : Orderly s (s.takeLeave a) :=
  ((Orderly.of_keeps (setPeer_keeps _ _ _) (by decide))).trans (compute_orderly _ _)

theorem clash_orderly (s : State) : Orderly s s.clash :=
  Orderly.ite (Orderly.refl _) (((((Orderly.of_keeps (setSilence_keeps _ _) (by decide))).trans
    (changeShare_orderly _ _)).trans (withdrawClaims_orderly _)).trans
    (compute_orderly _ _))

theorem watch_orderly (src : Source) (s : State) : Orderly s (s.watch src) := by
  unfold State.watch
  split
  · exact Orderly.refl _
  · exact Orderly.ite (clash_orderly s) ((Orderly.of_keeps (watchPeer_keeps s) (by decide)))

theorem forceSlot_orderly (i : SlotNo) (s : State) : Orderly s (s.forceSlot i) :=
  (finishHead_orderly _ _ _ _).trans (forceRelease_orderly _ _)

theorem finishOpen_orderly (k : PermitKind) (n : Nat) (i : SlotNo) (s : State) :
    Orderly s (s.finishOpen k n i).1 := by
  unfold State.finishOpen
  split
  · exact Orderly.refl _
  · exact grantRelease_orderly _ _

theorem judgeOpen_orderly (k : PermitKind) (n : Nat) (f : Bool) (i : SlotNo) (s : State) :
    Orderly s (s.judgeOpen k n f i).1 := by
  unfold State.judgeOpen
  split
  · exact Orderly.refl _
  split
  · split
    · exact (forceSlot_orderly _ _).trans (finishOpen_orderly _ _ _ _)
    · exact Orderly.refl _
  · exact (finishOpen_orderly _ _ _ _)

theorem judgeDue_orderly (n : Nat) (i : SlotNo) (s : State) : Orderly s (s.judgeDue n i).1 :=
  ((Orderly.of_keeps (setCustody_keeps _ _ _) (by decide))).trans (settled_orderly _)

theorem judgeSlot_orderly (p : Permit) (k : PermitKind) (i : SlotNo) (s : State) :
    Orderly s (s.judgeSlot p k i).1 := by
  unfold State.judgeSlot
  split
  · exact judgeOpen_orderly _ _ _ _ _
  · exact judgeOpen_orderly _ _ _ _ _
  · split
    · exact (judgeDue_orderly _ _ _)
    · exact Orderly.refl _
  · split
    · exact (Orderly.of_keeps (setHold_keeps _ _ _) (by decide))
    · exact Orderly.refl _
  · split
    · exact (Orderly.of_keeps (judgeLift_keeps _ _ _) (by decide))
    · exact Orderly.refl _
  · split <;> exact Orderly.refl _

theorem judgeSlots_orderly (p : Permit) (k : PermitKind) : ∀ (is : List SlotNo) (s : State),
    Orderly s (judgeSlots p k is s)
  | [], s => Orderly.refl s
  | i :: is, s => ((judgeSlot_orderly p k i s).trans ((Orderly.of_keeps (addOutcome_keeps _ _) (by decide)))).trans
      (judgeSlots_orderly p k is _)

theorem handVerdict_orderly (n : Byte) (src : Source) (f : Nat) (s : State) : Orderly s (s.handVerdict n src f) :=
  orderly_of_line (lineHand_fares _ s.line) rfl rfl

theorem afterPermit_orderly (k : PermitKind) (is : List SlotNo) (s : State) :
    Orderly s (s.afterPermit k is) := by
  unfold State.afterPermit
  split
  · exact orderly_of_lengths rfl (le_refl _) (le_refl _)
  · exact (work_orderly _ _)

theorem judgeIn_orderly (p : Permit) (f : SlotNo) (is : List SlotNo) (s : State) :
    Orderly s (s.judgeIn p f is) := by
  unfold State.judgeIn
  dsimp only
  split
  · exact ((orderly_foldl _ (fun _ _ => Orderly.of_keeps (addOutcome_keeps _ _) (by decide)) _ _)).trans
      (handVerdict_orderly _ _ _ _)
  · exact ((judgeSlots_orderly _ _ _ _).trans (handVerdict_orderly _ _ _ _)).trans
      (afterPermit_orderly _ _ _)

theorem judgePermit_orderly (p : Permit) (s : State) : Orderly s (s.judgePermit p) := by
  unfold State.judgePermit
  split
  · exact Orderly.refl _
  · exact judgeIn_orderly _ _ _ _

theorem takePermit_orderly (src : Source) (p : List Byte) (s : State) : Orderly s (s.takePermit src p) := by
  unfold State.takePermit
  refine Orderly.ite ?_ (judgePermit_orderly _ _)
  exact orderly_of_lengths rfl (le_refl _) (le_refl _)

theorem answer_orderly (b : List Byte) (s : State) : Orderly s (s.answer b) := orderly_of_line (lineHand_fares _ s.line) rfl rfl

theorem takeQuery_orderly (src : Source) (p : List Byte) (s : State) : Orderly s (s.takeQuery src p) := by
  unfold State.takeQuery
  refine Orderly.ite (Orderly.refl _) (Orderly.ite (answer_orderly _ _) (Orderly.ite ?_ (Orderly.refl _)))
  split
  · exact answer_orderly _ _
  · exact Orderly.refl _

theorem takeClass2_orderly (src : Source) (p : List Byte) (s : State) : Orderly s (s.takeClass2 src p) := by
  unfold State.takeClass2
  split
  · exact Orderly.refl _
  · exact Orderly.ite (takeNeed_orderly _ _ _) (takeLeave_orderly _ _)

theorem consume_orderly (c : Nat) (src : Source) (p : List Byte) (s : State) : Orderly s (s.consume c src p) := by
  unfold State.consume
  split
  · exact (takeClaim_orderly _ _)
  · exact (takeCeiling_orderly _ _ _)
  · exact (takeClass2_orderly _ _ _)
  · exact (takePermit_orderly _ _ _)
  · exact (takeClass5_orderly _ _ _)
  · exact (takeQuery_orderly _ _ _)
  · exact Orderly.refl _

theorem frameEnds_orderly (s : State) : Orderly s { s with line := s.line.frameEnds } :=
  Orderly.of_keeps (frameEnds_keeps s) (by decide)

theorem takeFrame_orderly (c : Nat) (src : Source) (p : List Byte) (s : State) : Orderly s (s.takeFrame c src p) := by
  unfold State.takeFrame
  refine Orderly.ite (Orderly.refl _) (Orderly.ite (Orderly.of_keeps (abandonFrame_keeps _) (by decide)) ?_)
  have h := (frameEnds_orderly s).trans
    (watch_orderly src { s with line := s.line.frameEnds })
  exact Orderly.ite (h.trans ((Orderly.of_keeps (countError_keeps _) (by decide)))) (h.trans (consume_orderly _ _ _ _))

theorem claimGone_orderly (f : Bool) (x : TxFrame) (s : State) : Orderly s (s.claimGone f x) := by
  unfold State.claimGone
  split
  · exact ((endOwnClaim_orderly _ _ _ _ _)).trans (handClaims_orderly _)
  · exact Orderly.refl _

theorem restartShare_orderly (s : State) : Orderly s s.restartShare := by
  unfold State.restartShare
  exact Orderly.trans (t := { s with share := { s.share with
    peerHeard := false, listenCount := 0, silenceAt := none, reportAt := momentAfter s.clock s.cfg.reportPeriod
    peers := #v[none, none, none, none, none, none, none, none], ceilings := [], floorShort := false } })
    (orderly_of_lengths rfl (le_refl _) (Nat.zero_le _)) ((changeShare_orderly _ _).trans (compute_orderly _ _))

theorem restartClaims_orderly (s : State) : Orderly s s.restartClaims :=
  ⟨withdrawWaiting_fares s.line, (List.length_filter_le _ _).trans, id⟩

theorem restartPulses_orderly (s : State) : Orderly s s.restartPulses :=
  ((restartClaims_orderly s).trans ((orderly_forSlots _ (fun i s => Orderly.of_keeps (restartLatch_keeps i s) (by decide)) _ _))).trans
    (reportReserve_orderly _)

theorem reportRestarted_orderly (i : SlotNo) : ∀ (rs : List Run) (s : State),
    Orderly s (s.reportRestarted i rs)
  | [], s => Orderly.refl s
  | _ :: _, _ => (reportRun_orderly _ _ _ _ _).trans (orderly_foldl _ (fun _ _ => reportRun_orderly _ _ _ _ _) _ _)

theorem restartPlan_orderly (i : SlotNo) (s : State) : Orderly s (s.restartPlan i) :=
  (reportRestarted_orderly _ _ _).trans ((Orderly.of_keeps (setPlan_keeps _ _ _) (by decide)))

theorem restartPlans_orderly (s : State) : Orderly s s.restartPlans := by
  unfold State.restartPlans
  have h : ∀ (u : State) (x : Plans), Orderly u { u with plans := x } := fun u x => orderly_of_lengths rfl (le_refl _) (le_refl _)
  exact ((orderly_forSlots _ (fun i s => restartPlan_orderly i s) _ _).trans (h _ _)).trans (settled_orderly _)

theorem restartLane_orderly (l : LaneNo) (s : State) : Orderly s (s.restartLane l) := by
  unfold State.restartLane
  dsimp only
  split
  · exact ((Orderly.of_keeps (setLane_keeps _ _ _) (by decide))).trans (detachLane_orderly _ _ _)
  · exact ((Orderly.of_keeps (setLane_keeps _ _ _) (by decide))).trans ((Orderly.of_keeps (moveLane_keeps _ _ _) (by decide)))
  · exact (Orderly.of_keeps (setLane_keeps _ _ _) (by decide))

theorem restartLanes_orderly (s : State) : Orderly s s.restartLanes := by
  unfold State.restartLanes
  have h : ∀ (u : State) (x : Lanes), Orderly u { u with lanes := x } := fun u x => orderly_of_lengths rfl (le_refl _) (le_refl _)
  exact (h _ _).trans (orderly_foldl _ (fun _ _ => restartLane_orderly _ _) _ _)

theorem restartStages_orderly (s : State) : Orderly s s.restartStages :=
  ((((hand_orderly _ _).trans (restartShare_orderly _)).trans
    (restartPulses_orderly _)).trans (restartPlans_orderly _)).trans
    (restartLanes_orderly _)

theorem judgeWaiting_orderly : ∀ (ps : List (Source × List Byte)) (s : State), Orderly s (judgeWaiting ps s)
  | [], s => Orderly.refl s
  | (src, p) :: rest, s => by
    unfold judgeWaiting
    refine Orderly.ite ?_ ((judgePermit_orderly _ _).trans (judgeWaiting_orderly rest _))
    exact orderly_of_lengths rfl (le_refl _) (le_refl _)

theorem completeRestart_orderly (s : State) : Orderly s s.completeRestart := by
  unfold State.completeRestart
  have h : ∀ (u : State) (x : Custody), Orderly u { u with custody := x } := fun u x => orderly_of_lengths rfl (le_refl _) (le_refl _)
  exact (h _ _).trans (judgeWaiting_orderly _ _)

/-! ## Every act -/

theorem setLine_orderly {l : Line} {s : State} (h : s.line.Fares l) : Orderly s (s.setLine l) := orderly_of_line h rfl rfl

theorem setPhase_orderly (l : Line) (s : State) (queue : l.queue = s.line.queue) (next : l.nextOrder = s.line.nextOrder)
    (lost : l.lost = s.line.lost) : Orderly s (s.setLine l) := setLine_orderly (fares_of_queue queue next lost)

theorem firstWaiting_mem {q : List TxEntry} {e : TxEntry} (h : firstWaiting q = some e) : e ∈ q := List.mem_of_find?_eq_some h

theorem sentEntry_mem {q : List TxEntry} {e : TxEntry} (h : sentEntry q = some e) : e ∈ q := List.mem_of_find?_eq_some h

/-- A NEED with fresh content is still a NEED (R149). -/
theorem freshFrame_key (s : State) (e : TxEntry) : TxEntry.key { e with frame := s.freshFrame e.frame, sending := true } = e.key := by
  cases frame : e.frame <;> simp [State.freshFrame, TxEntry.key, frame, TxFrame.cls, TxFrame.isClaim]

theorem attempt_orderly {e : TxEntry} {s : State} (held : e ∈ s.line.queue) : Orderly s (s.attempt e) :=
  orderly_of_line ((replaceEntry_fares held (freshFrame_key s e)).trans (fares_of_queue rfl rfl rfl)) rfl rfl

theorem backToWaiting_orderly {e x : TxEntry} {s : State} (held : e ∈ s.line.queue) (key : x.key = e.key) :
    Orderly s (s.backToWaiting x) := by
  unfold State.backToWaiting
  exact Orderly.ite ((setLine_orderly (removeEntry_fares x s.line)).trans (claimGone_orderly _ _ _))
    (setLine_orderly (replaceEntry_fares held key))

theorem breakAttempt_orderly {e : TxEntry} {s : State} (held : e ∈ s.line.queue) : Orderly s (s.breakAttempt e) := by
  unfold State.breakAttempt
  have broken : Orderly s (s.setLine { s.line with phase := .breaking breakBits }) := setPhase_orderly _ s rfl rfl rfl
  refine Orderly.ite ((broken.trans (setLine_orderly ?_)).trans (claimGone_orderly _ _ _))
    (broken.trans (backToWaiting_orderly held rfl))
  exact (removeEntry_fares e _).trans (countLost_fares _)

theorem completeAttempt_orderly (e : TxEntry) (s : State) : Orderly s (s.completeAttempt e) := by
  have gone : Orderly s (s.setLine { s.line with queue := removeEntry e s.line.queue, phase := .ended idleAfterFrame }) :=
    setLine_orderly ((removeEntry_fares e s.line).trans (fares_of_queue rfl rfl rfl))
  unfold State.completeAttempt State.ownFrame
  split
  · exact gone.trans (completeOwnClaim_orderly _ _ _ _ _ _)
  · exact gone

theorem Act.orderly {s t : State} (h : Act s t) : Orderly s t := by
  cases h
  case still => exact Orderly.refl s
  case changePresent i v _ => exact Orderly.of_keeps (changePresent_keeps i v s) (by decide)
  case changeBolt i v _ => exact Orderly.of_keeps (changeBolt_keeps i v s) (by decide)
  case insert i code u found settling => exact insert_orderly i code found s
  case extract i u leaving => exact extract_orderly i s
  case publish i volts amps => exact publish_orderly i volts amps s
  case overCurrent i judged => exact faultSlot_orderly i _ _ s
  case integrate i mean u => exact integrate_orderly i mean u s
  case endDetect i u detects => exact endDetect_orderly i s
  case enterPhase i dest charges _ => exact chargeEvent_orderly i _ s
  case retry i k u _ => exact chargeEvent_orderly i _ s
  case passDue i => exact passDue_orderly i s
  case report => exact report_orderly s
  case spaceNeed => exact spaceNeed_orderly s
  case fallSilent => exact (enterIsolated_orderly s).trans (compute_orderly _ _)
  case agePeer a p => exact (Orderly.of_keeps (setPeer_keeps a p s) (by decide)).trans (compute_orderly _ _)
  case dropCeiling src =>
    exact (setCeilings_orderly fun few => (List.length_filter_le _ _).trans few).trans (compute_orderly _ _)
  case frame cls src p => exact takeFrame_orderly cls src p s
  case expireClaims u _ _ => exact expireClaims_orderly s
  case endWithdraw i u _ => exact endWithdraw_orderly i s
  case endThrow i u _ => exact endThrow_orderly i s
  case timeOutRelease i u _ => exact timeOutRelease_orderly i s
  case throwWait i x u _ => exact throwWait_orderly i 1 s
  case restart _ => exact (restartStages_orderly s).trans (completeRestart_orderly _)
  case finish i outcome x _ _ _ => exact finishAndStart_orderly i outcome .release s
  case endPause i u _ => exact work_orderly _ s
  case changeEnumerated l v => exact changeEnumerated_orderly l v s
  case faultAgain l u _ => exact Orderly.of_keeps (setLane_keeps l _ s) (by decide)
  case faultLane l _ _ => exact faultLane_orderly l s
  case startClear l u _ => exact Orderly.of_keeps (setLane_keeps l _ s) (by decide)
  case releaseFault l => exact Orderly.of_keeps (setLane_keeps l _ s) (by decide)
  case endClear l u _ => exact Orderly.of_keeps (moveLane_keeps l _ s) (by decide)
  case endWake u => exact (Orderly.of_keeps (endWake_keeps u s) (by decide)).trans (work_orderly _ _)
  case endIdle l u _ =>
    exact (Orderly.of_keeps (moveLane_keeps l _ s) (by decide)).trans (Orderly.of_keeps (wakeLanes_keeps _) (by decide))
  case endScrub l u _ => exact (Orderly.of_keeps (moveLane_keeps l _ s) (by decide)).trans (work_orderly _ _)
  case abandon => exact Orderly.of_keeps (abandonFrame_keeps s) (by decide)
  case crcError => exact setPhase_orderly _ s rfl rfl rfl
  case lineIdle => exact setPhase_orderly _ s rfl rfl rfl
  case attempt e waits => exact attempt_orderly (firstWaiting_mem waits)
  case loseAttempt u read e _ sent =>
    have received : Orderly s (s.setLine { s.line with phase := .receiving read }) := setPhase_orderly _ s rfl rfl rfl
    exact received.trans (backToWaiting_orderly (e := e) (sentEntry_mem sent) rfl)
  case breakAttempt u read e _ sent => exact breakAttempt_orderly (sentEntry_mem sent)
  case completeAttempt u read e _ _ => exact completeAttempt_orderly e s
  case tickLamps => exact Orderly.of_keeps (ps := [.lamps]) (by intro p hp; cases p <;> simp_all [same]) (by decide)

/-! ## Verdicts (R90, R100) -/

theorem handVerdict_verdict (n : Byte) (src : Source) (first : Nat) (s : State) :
    (s.handVerdict n src first).custody.verdict = [] := by
  unfold State.handVerdict
  exact (hand_keeps _ _ .permits (by decide)).1

theorem judgeIn_verdict (p : Permit) (first : SlotNo) (ks : List SlotNo) (s : State) :
    (s.judgeIn p first ks).custody.verdict = [] := by
  unfold State.judgeIn
  dsimp only
  split
  next => exact handVerdict_verdict _ _ _ _
  next kind _ =>
    have handed := handVerdict_verdict p.number p.source (globalSlot s.address first) (judgeSlots p kind ks s)
    unfold State.afterPermit
    split
    · exact handed
    · exact (work_keeps _ _ .permits (by decide)).1.trans handed

theorem judgePermit_verdict (p : Permit) {s : State} (clear : s.custody.verdict = []) : (s.judgePermit p).custody.verdict = [] := by
  unfold State.judgePermit
  split
  · exact clear
  · exact judgeIn_verdict _ _ _ _

theorem judgeWaiting_verdict : ∀ (ps : List (Source × List Byte)) {s : State}, s.custody.verdict = [] →
    (judgeWaiting ps s).custody.verdict = []
  | [], _, clear => clear
  | (src, p) :: rest, s, clear => by
    unfold judgeWaiting
    split
    · exact clear
    · exact judgeWaiting_verdict rest (judgePermit_verdict _ clear)

theorem takePermit_verdict (src : Source) (p : List Byte) {s : State} (clear : s.custody.verdict = []) :
    (s.takePermit src p).custody.verdict = [] := by
  unfold State.takePermit
  split
  · exact clear
  · exact judgePermit_verdict _ clear

theorem verdict_of_keeps {ps : List Part} {s t : State} (h : Keeps ps s t) (n : Part.permits ∉ ps)
    (clear : s.custody.verdict = []) : t.custody.verdict = [] := (h .permits n).1.trans clear

theorem takeFrame_verdict (cls : Nat) (src : Source) (p : List Byte) {s : State} (clear : s.custody.verdict = []) :
    (s.takeFrame cls src p).custody.verdict = [] := by
  unfold State.takeFrame
  split
  · exact clear
  split
  · exact verdict_of_keeps (abandonFrame_keeps s) (by decide) clear
  dsimp only
  have seen := verdict_of_keeps (watch_keeps src _) (by decide) (verdict_of_keeps (frameEnds_keeps s) (by decide) clear)
  split
  · exact verdict_of_keeps (countError_keeps _) (by decide) seen
  · unfold State.consume
    split
    · exact verdict_of_keeps (takeClaim_keeps _ _) (by decide) seen
    · exact verdict_of_keeps (takeCeiling_keeps _ _ _) (by decide) seen
    · exact verdict_of_keeps (takeClass2_keeps _ _ _) (by decide) seen
    · exact takePermit_verdict _ _ seen
    · exact verdict_of_keeps (takeClass5_keeps _ _ _) (by decide) seen
    · exact verdict_of_keeps (takeQuery_keeps _ _ _) (by decide) seen
    · exact seen

theorem Act.verdict {s t : State} (h : Act s t) (clear : s.custody.verdict = []) : t.custody.verdict = [] := by
  cases h
  case still => exact clear
  case changePresent i v _ => exact verdict_of_keeps (changePresent_keeps i v s) (by decide) clear
  case changeBolt i v _ => exact verdict_of_keeps (changeBolt_keeps i v s) (by decide) clear
  case insert i code u found settling => exact verdict_of_keeps (insert_keeps i code found s) (by decide) clear
  case extract i u leaving => exact verdict_of_keeps (extract_keeps i s) (by decide) clear
  case publish i volts amps => exact verdict_of_keeps (publish_keeps i volts amps s) (by decide) clear
  case overCurrent i judged => exact verdict_of_keeps (faultSlot_keeps i _ _ s) (by decide) clear
  case integrate i mean u => exact verdict_of_keeps (integrate_keeps i mean u s) (by decide) clear
  case endDetect i u detects => exact verdict_of_keeps (endDetect_keeps i s) (by decide) clear
  case enterPhase i dest charges _ => exact verdict_of_keeps (chargeEvent_keeps i _ s) (by decide) clear
  case retry i k u _ => exact verdict_of_keeps (chargeEvent_keeps i _ s) (by decide) clear
  case passDue i => exact verdict_of_keeps (passDue_keeps i s) (by decide) clear
  case report => exact verdict_of_keeps (report_keeps s) (by decide) clear
  case spaceNeed => exact verdict_of_keeps (spaceNeed_keeps s) (by decide) clear
  case fallSilent =>
    exact verdict_of_keeps (compute_keeps _ _) (by decide) (verdict_of_keeps (enterIsolated_keeps s) (by decide) clear)
  case agePeer a p => exact verdict_of_keeps (compute_keeps _ _) (by decide) (verdict_of_keeps (setPeer_keeps a p s) (by decide) clear)
  case dropCeiling src =>
    exact verdict_of_keeps (compute_keeps _ _) (by decide) (verdict_of_keeps (setCeilings_keeps _ s) (by decide) clear)
  case frame cls src p => exact takeFrame_verdict cls src p clear
  case expireClaims u _ _ => exact verdict_of_keeps (expireClaims_keeps s) (by decide) clear
  case endWithdraw i u _ => exact verdict_of_keeps (endWithdraw_keeps i s) (by decide) clear
  case endThrow i u _ => exact verdict_of_keeps (endThrow_keeps i s) (by decide) clear
  case timeOutRelease i u _ => exact verdict_of_keeps (timeOutRelease_keeps i s) (by decide) clear
  case throwWait i x u _ => exact verdict_of_keeps (throwWait_keeps i 1 s) (by decide) clear
  case restart _ =>
    have staged := verdict_of_keeps (restartStages_keeps s) (by decide) clear
    revert staged
    generalize s.restartStages = u
    exact fun staged => judgeWaiting_verdict u.custody.waiting staged
  case finish i outcome x _ _ _ => exact verdict_of_keeps (finishAndStart_keeps i outcome .release s) (by decide) clear
  case endPause i u _ => exact verdict_of_keeps (work_keeps _ s) (by decide) clear
  case changeEnumerated l v => exact verdict_of_keeps (changeEnumerated_keeps l v s) (by decide) clear
  case faultAgain l u _ => exact clear
  case faultLane l _ _ => exact verdict_of_keeps (faultLane_keeps l s) (by decide) clear
  case startClear l u _ => exact clear
  case releaseFault l => exact clear
  case endClear l u _ => exact clear
  case endWake u => exact verdict_of_keeps (work_keeps _ _) (by decide) (verdict_of_keeps (endWake_keeps u s) (by decide) clear)
  case endIdle l u _ => exact verdict_of_keeps (wakeLanes_keeps _) (by decide) clear
  case endScrub l u _ => exact verdict_of_keeps (work_keeps _ _) (by decide) clear
  case abandon => exact verdict_of_keeps (abandonFrame_keeps s) (by decide) clear
  case crcError => exact clear
  case lineIdle => exact clear
  case attempt e _ => exact verdict_of_keeps (attempt_keeps e s) (by decide) clear
  case loseAttempt u read e _ _ => exact verdict_of_keeps (backToWaiting_keeps e _) (by decide) clear
  case breakAttempt u read e _ _ => exact verdict_of_keeps (breakAttempt_keeps e s) (by decide) clear
  case completeAttempt u read e _ _ => exact verdict_of_keeps (completeAttempt_keeps e s) (by decide) clear
  case tickLamps => exact clear

/-! ## Every step -/

/-- The places that the operations of the queue and of the short tables keep (R55, R78, R90, R148). -/
structure State.Ordered (s : State) : Prop where
  line : s.line.Right
  own : s.claims.own.length ≤ 2
  ceilings : s.share.ceilings.length ≤ 4
  verdict : s.custody.verdict = []

theorem State.Ordered.of_orderly {s t : State} (h : s.Ordered) (k : Orderly s t) (verdict : t.custody.verdict = []) : t.Ordered :=
  ⟨k.line.right h.line, k.own h.own, k.ceilings h.ceilings, verdict⟩

theorem lineRight_empty {l : Line} (h : l.queue = []) : l.Right := by
  have keys : l.keys = [] := by rw [Line.keys, h]; rfl
  unfold Line.Right
  rw [keys]
  exact ⟨.nil, List.nodup_nil, nofun, Nat.zero_le _⟩

theorem clearBlocks_ordered (s : State) : s.clearBlocks.Ordered := ⟨lineRight_empty rfl, Nat.zero_le _, Nat.zero_le _, rfl⟩

theorem startBlocks_ordered (s : State) (r : Record) (d : Bool) (hd : d = true → r = {}) : (s.startBlocks r d).Ordered := by
  have started := (startBlocks_started r d s hd).1
  refine ⟨?_, by rw [started.claims]; exact Nat.zero_le _, by rw [started.share]; exact Nat.zero_le _, by rw [started.custody]⟩
  cases d with
  | false => exact lineRight_empty rfl
  | true =>
    rw [hd rfl, startBlocks_default]
    exact ⟨List.pairwise_singleton _ _, List.nodup_singleton _, fun x m => by rw [List.mem_singleton.mp m]; exact Nat.one_pos,
      (List.length_filter_le _ _).trans (show 1 ≤ 10 by decide)⟩

theorem ordered_lasting : Lasting State.Ordered where
  reach u s h := h.of_orderly (Orderly.of_keeps (reach_keeps u s) (by decide)) h.verdict
  act s t _ act h := h.of_orderly act.orderly (act.verdict h.verdict)
  pending _ _ h := ⟨h.line, h.own, h.ceilings, h.verdict⟩
  pass s h := h.of_orderly (Orderly.of_keeps (passBit_keeps s) (by decide)) (verdict_of_keeps (passBit_keeps s) (by decide) h.verdict)
  cleared := clearBlocks_ordered
  released _ _ _ _ h := ⟨h.line, h.own, h.ceilings, h.verdict⟩
  started s r d hd := startBlocks_ordered s r d hd

/-- Settles O30: every act keeps the order and the places of the queue (`Act.orderly`), and table and run queues agree
(`Move.runsRight`). -/
theorem tablesStayWithinPlaces : Obligations.TablesStayWithinPlaces := by
  rintro s t ⟨ceilings, own, _, used, verdict⟩ queue runs stepped
  have after := ordered_lasting.step stepped ⟨lineRight_iff.mpr ⟨queue, used⟩, own, ceilings, verdict⟩
  obtain ⟨order, places⟩ := lineRight_iff.mp after.line
  have agree := runsRight_lasting.step stepped runs
  exact ⟨⟨after.ceilings, after.own, agree.table.1, places, after.verdict⟩, order, agree⟩

end Sys2Proof.Machine
end

section
/-! PROOF. The Slot Monitor: frames handed on the way, filtered inputs and the learning of the latch (R3 to R6, R9, R11, R67), and
the integration of a period (R14, R15, R37). -/

namespace Sys2Proof.Machine

/-! ## Commands on a running part -/

/-- A command whose arm is a running part's function of the state. -/
theorem exec_running {c : Instr} {s : State} {f : State → State} (run : s.mode = .running)
    (arm : exec c s = whileRunning s f) : exec c s = .next (f s) := by
  rw [arm, whileRunning, if_pos run]

/-! ## A frame handed on the way (R148) -/

/-- A frame handed to a line is queued, or counted lost. -/
theorem lineHand_placed (f : TxFrame) {l : Line} (within : l.lost ≤ maxCount) :
    { frame := f, order := l.nextOrder } ∈ (l.hand f).queue ∨ l.lost < (l.hand f).lost ∨ (l.hand f).lost = maxCount := by
  unfold Line.hand
  split
  next full =>
    have lost : l.countLost.lost = min (l.lost + 1) maxCount := rfl
    omega
  next place => exact .inl (enter_queues f l)

/-- A frame handed between two operations is still waiting, or counted lost, after the second. -/
theorem handed_of {f : TxFrame} {s u v t : State} (before : Orderly s u) (line : v.line = u.line.hand f) (after : Orderly v t)
    (grows : Grows v t) (claim : f.isClaim = false) (need : f.isNeed = false) : Handed f s t := by
  intro within
  obtain ⟨least, most⟩ := before.line.lost within.2
  have cap := ((lineHand_fares f u.line).lost most).2
  have placed := lineHand_placed f most
  rw [← line] at cap placed
  obtain ⟨later, last⟩ := after.line.lost cap
  rcases placed with queued | lost | full
  · exact .inl (Waits.grows ⟨_, queued, rfl, rfl⟩ claim need grows)
  · exact .inr (.inl (least.trans_lt (lost.trans_le later)))
  · exact .inr (.inr (last.antisymm (full ▸ later)))

theorem notice_line {k : NoticeKind} {s : State} (reported : s.cfg.noticeMask.getLsbD (noticeCode k - 1) = true)
    (i : Option SlotNo) (d : Nat) : (s.notice k i d).line = s.line.hand (.notice k i d) := by
  rw [State.notice, if_pos reported]; rfl

theorem noticeHanded_of {k : NoticeKind} {i : Option SlotNo} {d : Nat} {s u t : State} (before : Orderly s u) (cfg : u.cfg = s.cfg)
    (after : Orderly (u.notice k i d) t) (grows : Grows (u.notice k i d) t) : NoticeHanded s t k i d :=
  fun reported => handed_of before (notice_line (by rw [cfg]; exact reported) i d) after grows rfl rfl

/-! ## Learning the bolt -/

theorem openLatch_latch (i : SlotNo) (s : State) (k : SlotNo) :
    (s.openLatch i).latch.get k = if k = i then { s.latch.get i with state := s.openState i } else s.latch.get k := by
  rw [State.openLatch, State.startOpenTimer, State.setLatchState, setLatch_latch, get_setAt, State.openState]
  split
  · cases s.isPresent i <;> rfl
  · rfl

/-- A learning gives the latch the state of its bolt sense, with latch attempt 1 (R67). -/
theorem learnLatch_latch (i : SlotNo) (s : State) (k : SlotNo) : (s.learnLatch i).latch.get k =
    if k = i then { s.latch.get i with state := s.learntState i, attempt := 1 } else s.latch.get k := by
  unfold State.learnLatch
  dsimp only
  generalize hu : s.setLatch i { s.latch.get i with attempt := 1 } = u
  have latch : ∀ j, u.latch.get j = if j = i then { s.latch.get i with attempt := 1 } else s.latch.get j := fun j => by
    rw [← hu, setLatch_latch, get_setAt]
  have monitor : u.monitor = s.monitor := hu ▸ rfl
  have opens : u.openState i = s.openState i := hu ▸ rfl
  rw [monitor, State.learntState]
  cases (s.monitor.get i).boltIn <;> dsimp only
  case unknown =>
    rw [State.setLatchState, setLatch_latch, get_setAt, latch, latch, if_pos rfl]
    split <;> rfl
  case thrown =>
    rw [State.setLatchState, setLatch_latch, get_setAt, latch, latch, if_pos rfl]
    split <;> rfl
  case withdrawn =>
    rw [openLatch_latch, latch, latch, if_pos rfl, opens]
    split <;> rfl

theorem learnAtStart_latch (i : SlotNo) (s : State) (k : SlotNo) : (s.learnAtStart i).latch.get k =
    if k = i then s.learntAtStart i (s.latch.get i) else s.latch.get k := by
  unfold State.learnAtStart State.learntAtStart
  dsimp only
  split
  · exact learnLatch_latch i s k
  · split
    next same => rw [same]
    next => rfl

theorem learntAtStart_congr {s t : State} (monitor : t.monitor = s.monitor) (clock : t.clock = s.clock) (cfg : t.cfg = s.cfg)
    (i : SlotNo) (old : LatchSlot) : t.learntAtStart i old = s.learntAtStart i old := by
  unfold State.learntAtStart State.learntState State.isPresent
  rw [monitor, clock, cfg]

theorem learnAtStart_learnt (i : SlotNo) (s : State) (old : LatchSlot) :
    (s.learnAtStart i).learntAtStart i old = s.learntAtStart i old := by
  have keeps := learnAtStart_keeps i s
  exact learntAtStart_congr (keeps .monitor (by decide)) (keeps .clock (by decide)) (keeps .cfg (by decide)) i old

/-- The start-settled event (R11). -/
theorem settleStart_monitor (i : SlotNo) (s : State) (k : SlotNo) : (s.settleStart i).monitor.get k =
    if k = i then { s.monitor.get i with startSettled := true } else s.monitor.get k := by
  have monitor : (s.settleStart i).monitor = setAt s.monitor i { s.monitor.get i with startSettled := true } :=
    learnAtStart_keeps i _ .monitor (by decide)
  rw [monitor, get_setAt]

theorem settleStart_latch (i : SlotNo) (s : State) (k : SlotNo) : (s.settleStart i).latch.get k =
    if k = i then (s.settleStart i).learntAtStart i (s.latch.get i) else s.latch.get k := by
  rw [State.settleStart, learnAtStart_learnt, learnAtStart_latch]
  rfl

/-! ## A filtered present input -/

section
variable (i : SlotNo) (level : Level) (s : State)

/-- The answer of the presence debounce, in the words of its table (R5, R6, R9, R11). -/
theorem presenceOn_eq : presenceOn s.cfg s.clock (decide ((s.monitor.get i).presentIn = .unknown)) level (s.monitor.get i).presence =
    ((match level, (s.monitor.get i).presence with
      | .asserted, .empty =>
        .settling (s.clock + s.cfg.insertDebounce * 250) (decide ((s.monitor.get i).presentIn = .unknown))
      | .asserted, .settling u found => .settling u found
      | .asserted, .present _ => .present none
      | .released, .empty => .empty
      | .released, .settling _ _ => .empty
      | .released, .present none => .present (some (s.clock + s.cfg.extractDebounce * 250))
      | .released, .present (some u) => .present (some u)),
    decide (level = .released ∧
      (((s.monitor.get i).presence = .empty ∧ (s.monitor.get i).presentIn = .unknown) ∨
        (s.monitor.get i).presence.isFound = true))) := by
  cases level <;> cases (s.monitor.get i).presence with
  | empty => simp [presenceOn, Presence.isFound, momentAfter_eq]
  | settling u found => simp [presenceOn, Presence.isFound]
  | present leaving => cases leaving <;> simp [presenceOn, Presence.isFound, momentAfter_eq]

/-- The slot once its filtered present input has changed, before its start settles. -/
def State.presentTaken (s : State) (i : SlotNo) (level : Level) : State :=
  s.setMonitor i { s.monitor.get i with
    presentIn := filteredOf level, presentPin := levelActive level, presentRun := {}
    presence := (presenceOn s.cfg s.clock (decide ((s.monitor.get i).presentIn = .unknown)) level (s.monitor.get i).presence).1 }

theorem presentTaken_monitor : (s.presentTaken i level).monitor.get i = { s.monitor.get i with
    presentIn := filteredOf level, presentPin := levelActive level, presentRun := {}
    presence := (presenceOn s.cfg s.clock (decide ((s.monitor.get i).presentIn = .unknown)) level
      (s.monitor.get i).presence).1 } := get_setAt_same _ _ _

theorem presentTaken_others : OthersSame i s.monitor (s.presentTaken i level).monitor := setAt_othersSame _ _ _

theorem changePresent_eq : s.changePresent i level =
    if level = .released ∧ (((s.monitor.get i).presence = .empty ∧ (s.monitor.get i).presentIn = .unknown) ∨
      (s.monitor.get i).presence.isFound = true)
    then (s.presentTaken i level).settleStart i else s.presentTaken i level := by
  rw [State.changePresent, State.presentTaken, presenceOn_eq]
  exact if_congr decide_eq_true_iff rfl rfl

theorem settleStart_others : OthersSame i s.monitor (s.settleStart i).monitor ∧ OthersSame i s.latch (s.settleStart i).latch :=
  ⟨fun k other => by rw [settleStart_monitor, if_neg other], fun k other => by rw [settleStart_latch, if_neg other]⟩

end

/-! ## A filtered bolt sense -/

section
variable (i : SlotNo) (reading : BoltReading) (s : State)

/-- The slot once its filtered bolt sense has changed, before the latch learns it. -/
def State.boltTaken (s : State) (i : SlotNo) (reading : BoltReading) : State :=
  s.setMonitor i { s.monitor.get i with boltIn := boltSenseOf reading, boltPin := boltActive reading, boltRun := {} }

theorem boltTaken_monitor : (s.boltTaken i reading).monitor.get i =
    { s.monitor.get i with boltIn := boltSenseOf reading, boltPin := boltActive reading, boltRun := {} } := get_setAt_same _ _ _

theorem boltTaken_others : OthersSame i s.monitor (s.boltTaken i reading).monitor := setAt_othersSame _ _ _

theorem changeBolt_eq : s.changeBolt i reading =
    if (s.monitor.get i).boltIn = .unknown then (s.boltTaken i reading).learnAtStart i else s.boltTaken i reading := rfl

theorem changeBolt_monitor : (s.changeBolt i reading).monitor = (s.boltTaken i reading).monitor := by
  rw [changeBolt_eq]
  split
  · exact learnAtStart_keeps i _ .monitor (by decide)
  · rfl

theorem changeBolt_latch (k : SlotNo) : (s.changeBolt i reading).latch.get k =
    if k = i ∧ (s.monitor.get i).boltIn = .unknown then (s.changeBolt i reading).learntAtStart i (s.latch.get i)
    else s.latch.get k := by
  rw [changeBolt_eq]
  split
  next first =>
    rw [learnAtStart_learnt, learnAtStart_latch]
    exact if_congr (and_iff_left first).symm rfl rfl
  next later => exact (if_neg fun both => later both.2).symm

end

/-- Settles O13: the debounce's answer by its table, and the learning where the start settles or the first bolt value comes. -/
theorem filteredInputsMoveSlot : Obligations.FilteredInputsMoveSlot := by
  refine ⟨fun i level s running => ⟨fun still => ?_, fun fitted new => ?_⟩,
    fun i reading s running => ⟨fun still => ?_, fun fitted new => ?_⟩⟩
  · refine exec_running running (f := fun s => _) rfl |>.trans (congrArg _ (if_neg fun ⟨fitted, new⟩ => ?_))
    rcases still with unfitted | old
    · exact Bool.false_ne_true (unfitted.symm.trans fitted)
    · exact new old
  · refine ⟨s.changePresent i level, (exec_running running rfl).trans (congrArg _ (if_pos ⟨fitted, new⟩)), ?_⟩
    have keeps := changePresent_keeps i level s
    have taken := presentTaken_monitor i level s
    rw [presenceOn_eq] at taken
    by_cases settles : level = .released ∧ (((s.monitor.get i).presence = .empty ∧ (s.monitor.get i).presentIn = .unknown) ∨
      (s.monitor.get i).presence.isFound = true)
    · have eq : s.changePresent i level = (s.presentTaken i level).settleStart i :=
        (changePresent_eq i level s).trans (if_pos settles)
      have record := settleStart_monitor i (s.presentTaken i level) i
      have latch := settleStart_latch i (s.presentTaken i level) i
      obtain ⟨others, latches⟩ := settleStart_others i (s.presentTaken i level)
      rw [if_pos rfl, taken] at record
      rw [eq] at keeps ⊢
      rw [record, if_pos settles]
      exact ⟨rfl, rfl, ⟨rfl, latch.trans (if_pos rfl)⟩, rfl, rfl, rfl, rfl, rfl,
        fun k other => (others k other).trans (presentTaken_others i level s k other), latches, keeps⟩
    · have eq : s.changePresent i level = s.presentTaken i level := (changePresent_eq i level s).trans (if_neg settles)
      rw [eq] at keeps ⊢
      rw [taken, if_neg settles]
      exact ⟨rfl, rfl, ⟨rfl, rfl⟩, rfl, rfl, rfl, rfl, rfl, presentTaken_others i level s, fun _ _ => rfl, keeps⟩
  · refine exec_running running (f := fun s => _) rfl |>.trans (congrArg _ (if_neg fun ⟨fitted, new⟩ => ?_))
    rcases still with unfitted | old
    · exact Bool.false_ne_true (unfitted.symm.trans fitted)
    · exact new old
  · refine ⟨s.changeBolt i reading, (exec_running running rfl).trans (congrArg _ (if_pos ⟨fitted, new⟩)), ?_⟩
    have monitor := changeBolt_monitor i reading s
    have record := boltTaken_monitor i reading s
    rw [← monitor] at record
    rw [record]
    refine ⟨rfl, ?_, rfl, rfl, rfl, rfl, ?_, fun k other => ?_, changeBolt_keeps i reading s⟩
    · rw [changeBolt_latch]
      exact if_congr (and_iff_right rfl) rfl rfl
    · rw [monitor]; exact boltTaken_others i reading s
    · rw [changeBolt_latch, if_neg fun both => other both.1]

end Sys2Proof.Machine
end

section
/-! PROOF. Events of the Charge Controller: what one change of a slot's record leaves, before and after its settling; publications
(R12, R23, R34, R35), integration (R14, R15, R37), faults and DETECT (R21, R22, R34, R36), and the dwells (R25 to R27, R33). -/

namespace Sys2Proof.Machine

/-- What a function of a running part's state makes of it. -/
theorem whileRunning_next {s t : State} {f : State → State} (run : s.mode = .running) (eq : f s = t) :
    whileRunning s f = .next t := by
  rw [whileRunning, if_pos run, eq]

/-! ## One change of a slot's charge record -/

section
variable (i : SlotNo) (f : ChargeSlot → ChargeSlot) (s : State)

theorem updateCharge_frame : Keeps [.charge, .queue] s (s.updateCharge i f) := by
  unfold State.updateCharge
  have record := setCharge_keeps i (f (s.charge.get i)) s
  exact Keeps.ite ((record.mono (by decide)).trans ((notice_keeps _ _ _ _).mono (by decide))) (record.mono (by decide))

theorem updateCharge_same : (s.updateCharge i f).charge.get i = f (s.charge.get i) := by
  rw [updateCharge_charge, get_setAt_same]

theorem updateCharge_others : OthersSame i s.charge (s.updateCharge i f).charge := by
  rw [updateCharge_charge]; exact setAt_othersSame _ _ _

theorem settled_monitor : s.settled.monitor = s.monitor := settled_keeps s .monitor (by decide)
theorem settled_clock : s.settled.clock = s.clock := settled_keeps s .clock (by decide)
theorem settled_cfg : s.settled.cfg = s.cfg := settled_keeps s .cfg (by decide)
theorem settled_custody : s.settled.custody.slots = s.custody.slots := settled_keeps s .custody (by decide)

/-- A READY notice handed first thing, with the record that becomes charge-ready, is still there after whatever grows the
queue. -/
theorem updateCharge_noticed {i : SlotNo} {f : ChargeSlot → ChargeSlot} {s u t : State} (cfg : u.cfg = s.cfg) (line : u.line = s.line)
    (before : (u.charge.get i).ready = false) (after : (f (u.charge.get i)).ready = true) (grows : Grows (u.updateCharge i f) t) :
    Noticed s t .ready (some i) (u.monitor.get i).q := by
  have eq : u.updateCharge i f = (u.setCharge i (f (u.charge.get i))).notice .ready (some i) (u.monitor.get i).q := by
    rw [State.updateCharge]; simp only [before, after]; rfl
  exact noticed_of .ready (some i) _ (u := u.setCharge i (f (u.charge.get i))) cfg line (eq ▸ grows)

/-- Where charge-ready does not come, the record alone moves. -/
theorem updateCharge_of_unready (unready : (f (s.charge.get i)).ready = (s.charge.get i).ready) :
    s.updateCharge i f = s.setCharge i (f (s.charge.get i)) := by
  have quiet : ((f (s.charge.get i)).ready && !(s.charge.get i).ready) = false := by rw [unready]; simp
  rw [State.updateCharge]; simp only [quiet]; rfl

theorem settled_othersFollow {i : SlotNo} {s v : State} (others : OthersSame i s.charge v.charge) : OthersFollow i s v.settled :=
  fun k other => others k other ▸ settled_follows v k

end

/-- A record in a phase that heeds no allocation keeps its phase, its outputs and its held power. -/
theorem ChargeSlot.Follows.of_faulted {c d : ChargeSlot} (h : c.Follows d) {k : FaultKind} {w : Option Nat}
    (faulted : c.phase = .faulted k w) : d.phase = .faulted k w ∧ d.outputOn = c.outputOn ∧ d.setPoint = c.setPoint ∧
      d.heldPower = c.heldPower := by
  have phase := h.phase
  rw [faulted] at phase
  exact ⟨phase, h.unheeding (by rw [faulted]; rfl)⟩

/-! ## Publications (R12, R23, R34, R35) -/

section
variable {cfg : Record} {volts amps now : Nat} {c : ChargeSlot}

theorem overVoltage_iff : overVoltage volts c = true ↔
    c.outputOn = true ∧ c.phase.judgesVoltage = true ∧ 1100 * c.working.value < volts := by
  unfold overVoltage Phase.judgesVoltage
  cases c.phase <;> simp

theorem overCurrent_iff : overCurrent amps c = true ↔
    c.phase.judgesCurrent = true ∧ c.setPoint * 100 + max (20 * c.setPoint) 10000 < 100 * amps := by
  rw [overCurrent, Bool.and_eq_true, decide_eq_true_iff, Nat.mul_comm 100 c.setPoint]

theorem dwellDown_iff : dwellDown amps c = true ↔
    (c.phase = .charging .bulk ∧ 300 ≤ c.setPoint ∧ 100 * amps < 70 * c.setPoint) ∨ (c.phase = .charging .taper ∧ amps < 100) := by
  unfold dwellDown
  cases c.phase with
  | charging ph => cases ph <;> simp
  | _ => simp

theorem dwellUp_iff : dwellUp cfg amps c = true ↔
    (c.phase = .charging .taper ∧ 90 * c.setPoint ≤ 100 * amps) ∨ (c.phase = .charging .topped ∧ 90 * cfg.maintenance ≤ 100 * amps) := by
  unfold dwellUp
  cases c.phase with
  | charging ph => cases ph <;> simp
  | _ => simp

/-- A dwell runs on from where it began, or begins now, while its condition holds. -/
theorem judged_eq {holds : Bool} {P : Prop} [Decidable P] (iff : holds = true ↔ P) (since : Option Nat) :
    judged now holds since = if P then some (since.getD now) else none := by
  unfold judged
  exact (if_congr iff (by cases since <;> rfl) rfl)

theorem enterFaulted_overVoltage {m : MonitorSlot} (on : c.outputOn = true) :
    ({ c with retries := maxRetries } : ChargeSlot).enterFaulted now m .overVoltage =
      { c with
        phase := .faulted .overVoltage none, retries := 3, outputOn := false, setPoint := 0
        heldPower := c.working.value * m.amps / 250, downSince := none, upSince := none, overSince := none } := by
  simp [ChargeSlot.enterFaulted, ChargeSlot.turnOff, ChargeSlot.noDwells, measuredPower, ChargeSlot.outputVolts, on, maxRetries]

end

section
variable (i : SlotNo) (volts amps : Nat) (s : State)

/-- The new means are held (R12). -/
def State.measured (s : State) (i : SlotNo) (volts amps : Nat) : State :=
  s.setMonitor i { s.monitor.get i with volts := volts, amps := amps, samples := 0, voltSum := 0, ampSum := 0 }

/-- The slot once a publication has been judged, before its settling. -/
def State.judgedAt (s : State) (i : SlotNo) (volts amps : Nat) : State :=
  if overVoltage volts (s.charge.get i) then
    ((s.measured i volts amps).notice .chargeFault (some i) 2).updateCharge i
      (fun c => ({ c with retries := maxRetries } : ChargeSlot).enterFaulted s.clock ((s.measured i volts amps).monitor.get i) .overVoltage)
  else (s.measured i volts amps).updateCharge i (ChargeSlot.publish s.cfg s.clock amps)

theorem publish_eq : s.publish i volts amps = (s.judgedAt i volts amps).settled := (apply_ite State.settled _ _ _).symm

theorem judgedAt_frame : Keeps [.monitor, .charge, .queue] s (s.judgedAt i volts amps) := by
  have measured : Keeps [.monitor, .charge, .queue] s (s.measured i volts amps) := (setMonitor_keeps i _ s).mono (by decide)
  refine Keeps.ite (measured.trans (((notice_keeps _ _ _ _).mono (by decide)).trans ((updateCharge_frame _ _ _).mono (by decide)))) ?_
  exact measured.trans ((updateCharge_frame _ _ _).mono (by decide))

theorem judgedAt_monitor : (s.judgedAt i volts amps).monitor = (s.measured i volts amps).monitor := by
  unfold State.judgedAt
  split
  · rw [updateCharge_frame i _ _ .monitor (by decide), notice_keeps _ _ _ _ .monitor (by decide)]
  · exact updateCharge_frame i _ _ .monitor (by decide)

theorem judgedAt_others : OthersSame i s.charge (s.judgedAt i volts amps).charge := by
  unfold State.judgedAt
  split
  · intro k other
    rw [updateCharge_others i _ _ k other, notice_charge]
    rfl
  · exact updateCharge_others i _ _

variable {i : SlotNo} {volts amps : Nat} {s : State}

theorem judgedAt_of_over (high : overVoltage volts (s.charge.get i) = true) : s.judgedAt i volts amps =
    ((s.measured i volts amps).notice .chargeFault (some i) 2).updateCharge i
      (fun c => ({ c with retries := maxRetries } : ChargeSlot).enterFaulted s.clock ((s.measured i volts amps).monitor.get i)
        .overVoltage) := if_pos high

theorem judgedAt_of_not_over (within : ¬ overVoltage volts (s.charge.get i) = true) : s.judgedAt i volts amps =
    (s.measured i volts amps).updateCharge i (ChargeSlot.publish s.cfg s.clock amps) := if_neg within

/-- At over-voltage the slot is FAULTED without a retry, with the power held that it then drew (R35, R36). -/
theorem judgedAt_record_of_over (high : overVoltage volts (s.charge.get i) = true) : (s.judgedAt i volts amps).charge.get i =
    { s.charge.get i with
      phase := .faulted .overVoltage none, retries := 3, outputOn := false, setPoint := 0
      heldPower := (s.charge.get i).working.value * amps / 250, downSince := none, upSince := none, overSince := none } := by
  rw [judgedAt_of_over high, updateCharge_same, notice_charge]
  refine (enterFaulted_overVoltage (overVoltage_iff.mp high).1).trans ?_
  rw [State.measured, setMonitor_monitor, get_setAt_same]

/-- Nothing but the queue stands between the notice of a fault and the state before it. -/
theorem judgedAt_grows (high : overVoltage volts (s.charge.get i) = true) :
    Grows ((s.measured i volts amps).notice .chargeFault (some i) 2) (s.judgedAt i volts amps) := by
  rw [judgedAt_of_over high]; exact updateCharge_grows _ _ _

end

/-- Settles O16: the record at over-voltage or after the judgements, before the settling and after it. -/
theorem publicationJudgesSlot : Obligations.PublicationJudgesSlot := by
  intro i voltageSum currentSum s running
  refine ⟨fun unfitted => ?_, fun fitted => ?_⟩
  · refine (exec_running running rfl).trans (congrArg _ (if_neg ?_))
    rw [unfitted]; exact Bool.false_ne_true
  intro c volts amps overVolts down up excess
  have exec_eq : exec (.measurementPublication i voltageSum currentSum) s = .next (s.publish i volts amps) :=
    (exec_running running rfl).trans (congrArg _ (if_pos fitted))
  have follows := settled_follows (s.judgedAt i volts amps)
  have frame := judgedAt_frame i volts amps s
  have monitor := judgedAt_monitor i volts amps s
  refine ⟨s.judgedAt i volts amps, exec_eq.trans (congrArg _ (publish_eq i volts amps s)), settled_of_still, ?_,
    fun high => ?_, fun within => ?_, ?_, judgedAt_others i volts amps s, frame, settled_monitor _, follows i, fun high => ?_,
    settled_othersFollow (judgedAt_others i volts amps s), (frame.mono (by decide)).trans ((settled_keeps _).mono (by decide))⟩
  · rw [monitor, State.measured, setMonitor_monitor, get_setAt_same]
  · have judged : overVoltage volts (s.charge.get i) = true := overVoltage_iff.mpr high
    refine ⟨judgedAt_record_of_over judged, noticeHanded_of (u := s.measured i volts amps) ?_ rfl ?_ (judgedAt_grows judged)⟩
    · exact Orderly.of_keeps (setMonitor_keeps i _ s) (by decide)
    · rw [judgedAt_of_over judged]; exact updateCharge_orderly _ _ _
  · have judged : ¬ overVoltage volts c = true := mt overVoltage_iff.mp within
    rw [judgedAt_of_not_over judged]
    refine ⟨?_, by rw [updateCharge_of_unready i _ _ rfl]; rfl⟩
    rw [updateCharge_same, ChargeSlot.publish, judged_eq dwellDown_iff, judged_eq dwellUp_iff, judged_eq overCurrent_iff]
    rfl
  · rw [monitor]; exact setAt_othersSame _ _ _
  · have judged : overVoltage volts (s.charge.get i) = true := overVoltage_iff.mpr high
    have record := judgedAt_record_of_over (amps := amps) judged
    obtain ⟨phase, output, setPoint, _⟩ := (follows i).of_faulted (by rw [record])
    refine ⟨phase, (follows i).retries.trans (by rw [record]), output.trans (by rw [record]), setPoint.trans (by rw [record]), ?_⟩
    exact noticed_of .chargeFault (some i) 2 (u := s.measured i volts amps) rfl rfl
      ((judgedAt_grows judged).trans (settled_grows _))

/-! ## Integration (R14, R15, R37) -/

/-- Settles O17: the period's record in the monitor, and charge-ready by the Q it leaves. -/
theorem integrationAddsCharge : Obligations.IntegrationAddsCharge := by
  intro i currentSum s u running ends
  generalize hw : (s.reach u).setMonitor i ((s.monitor.get i).integrate (min (currentSum / 1000) 4000) u) = w
  have record : w.monitor.get i = (s.monitor.get i).integrate (min (currentSum / 1000) 4000) u := hw ▸ get_setAt_same _ _ _
  generalize hf : readyByCharge s.cfg (w.monitor.get i).q = f
  have before : Keeps [.clock, .monitor] s w := by
    rw [← hw]; exact ((reach_keeps u s).mono (by decide)).trans ((setMonitor_keeps _ _ _).mono (by decide))
  have charge : w.charge = s.charge := before .charge (by decide)
  have frame : Keeps [.clock, .monitor, .charge, .queue] s (w.updateCharge i f) :=
    (before.mono (by decide)).trans ((updateCharge_frame i f w).mono (by decide))
  have monitor : (w.updateCharge i f).settled.monitor = w.monitor :=
    (settled_monitor _).trans (updateCharge_frame i f w .monitor (by decide))
  have others : OthersSame i s.charge (w.updateCharge i f).charge := charge ▸ updateCharge_others i f w
  refine ⟨w.updateCharge i f, (w.updateCharge i f).settled,
    show execIntegrationPeriodEnd i currentSum s = _ from whileRunning_next running ?_, ?_, rfl, ?_, ?_, others, frame,
    settled_follows _ i, fun unready enough => ?_, ?_, settled_othersFollow others,
    (frame.mono (by decide)).trans ((settled_keeps _).mono (by decide))⟩
  · simp only [ends]
    rw [← hf, ← hw]
    rfl
  · rw [settled_clock, updateCharge_frame i f w .clock (by decide), ← hw]; rfl
  · rw [monitor, record]; rfl
  · rw [updateCharge_same, charge, monitor, ← hf]; rfl
  · rw [monitor] at enough ⊢
    have line : w.line = s.line := by rw [← hw]; rfl
    refine updateCharge_noticed (before .cfg (by decide)) line (by rw [charge]; exact unready) ?_ (settled_grows _)
    rw [← hf]
    exact Bool.or_eq_true_iff.mpr (.inr (decide_eq_true enough))
  · rw [monitor, ← hw]; exact setAt_othersSame _ _ _

/-! ## A condition through a settling -/

theorem takeDemands_record (s : State) (k : SlotNo) :
    s.takeDemands.charge.get k = { s.charge.get k with demand := s.demandNow k } := sixOf_get _ _

/-- A condition that every part of a computation and a settling keeps: the handing of an allocation, the taking of the demands,
and the Share Unit's own results. -/
structure Settling (P : State → Prop) : Prop where
  hand : ∀ k p s, P s → P (handAllocation k p s)
  demands : ∀ s, P s → P s.takeDemands
  results : ∀ s t, Keeps powerParts s t → t.charge = s.charge → t.share.slotAlloc = s.share.slotAlloc → P s → P t

section
variable {P : State → Prop} (h : Settling P)
include h

theorem Settling.distribute {s : State} (before : P s) : P s.distribute := by
  unfold State.distribute
  dsimp only
  generalize slotShare s.share.alloc _ = shares
  have folded : ∀ (ks : List SlotNo) (u : State), P u → P (forSlots ks (fun k t => handAllocation k (shares k) t) u) := by
    intro ks
    induction ks with
    | nil => exact fun u b => b
    | cons k ks ih => exact fun u b => ih _ (h.hand k _ u b)
  exact folded allSlots s before

theorem Settling.computeOnce {s : State} (r : Bool) (before : P s) : P (s.computeOnce r) := by
  unfold State.computeOnce
  refine h.distribute (h.results s _ ((judgeFloorShort_keeps s).trans ?_) (judgeFloorShort_charge s) ?_ before)
  · intro p hp; cases p <;> simp_all [same, powerParts]
  · show s.judgeFloorShort.share.slotAlloc = _
    unfold State.judgeFloorShort
    split
    · split
      · rfl
      · rw [State.notice]; split <;> rfl
    · rfl

theorem Settling.demandRound_of_taken {s : State} (taken : P s.takeDemands) : P s.demandRound := by
  unfold State.demandRound
  dsimp only
  split
  · exact h.distribute taken
  · refine h.computeOnce false (h.results s.takeDemands _ (Keeps.trans ?_ (judgeEarlyNeed_keeps _)) (judgeEarlyNeed_charge _) ?_ taken)
    · intro p hp; cases p <;> simp_all [same, powerParts]
    · unfold State.judgeEarlyNeed
      split
      · split <;> rfl
      · rfl

theorem Settling.demandRound {s : State} (before : P s) : P s.demandRound := h.demandRound_of_taken (h.demands s before)

theorem Settling.settle : ∀ (n : Nat) {s : State}, P s → P (settle n s)
  | 0, _, before => before
  | n + 1, s, before => by
    unfold Machine.settle
    split
    · exact Settling.settle n (h.demandRound before)
    · exact before

theorem Settling.settled {s : State} (before : P s) : P s.settled := h.settle _ before

theorem Settling.compute {s : State} (r : Bool) (before : P s) : P (s.compute r) := h.settled (h.computeOnce r before)

end

/-! ## DETECT through a settling (R21) -/

/-- A record in DETECT as the allocation calls for, with its second begun at this moment where the output is on. -/
def ChargeSlot.DetectsFrom (now p : Nat) (c : ChargeSlot) : Prop :=
  if 10 ≤ p then c.phase = .detect (some (now + 1000 * 250)) ∧ c.outputOn = true ∧ c.setPoint = 500
  else c.phase = .detect none ∧ c.outputOn = false ∧ c.setPoint = 0

theorem enterDetect_detectsFrom (now p : Nat) (c : ChargeSlot) : (c.enterDetect now p).DetectsFrom now p := by
  unfold ChargeSlot.DetectsFrom ChargeSlot.enterDetect
  by_cases enough : 10 ≤ p
  · simp [enough, detectFloor, detectCurrent, momentAfter_eq, detectMs]
  · simp [enough, detectFloor]

theorem onAllocation_detectsFrom {cfg : Record} {now p q : Nat} {m : MonitorSlot} {c : ChargeSlot} (h : c.DetectsFrom now p) :
    (c.onAllocation cfg now m q).DetectsFrom now q := by
  unfold ChargeSlot.DetectsFrom at *
  unfold ChargeSlot.onAllocation
  by_cases had : 10 ≤ p <;> by_cases has : 10 ≤ q <;>
    simp only [had, has, if_true, if_false, detectFloor] at h ⊢ <;> obtain ⟨phase, on, point⟩ := h <;>
    simp [phase, on, point, ChargeSlot.turnOff, detectCurrent, momentAfter_eq, detectMs]

/-- Slot i stands in DETECT as its allocation calls for. -/
def State.DetectsFrom (i : SlotNo) (now : Nat) (s : State) : Prop :=
  s.clock = now ∧ (s.charge.get i).DetectsFrom now (s.share.slotAlloc.get i)

theorem detectsFrom_settling (i : SlotNo) (now : Nat) : Settling (State.DetectsFrom i now) where
  hand k p s := by
    rintro ⟨rfl, detects⟩
    refine ⟨handAllocation_keeps k p s .clock (by decide), ?_⟩
    rw [handAllocation_share]
    unfold handAllocation
    dsimp only
    by_cases mine : i = k
    · subst mine
      rw [get_setAt_same]
      split
      next same => exact same ▸ detects
      next => rw [updateCharge_same]; exact onAllocation_detectsFrom detects
    · rw [get_setAt_ne _ _ _ _ mine]
      split
      next => exact detects
      next => rw [updateCharge_others k _ _ i mine]; exact detects
  demands s := by
    rintro ⟨rfl, detects⟩
    refine ⟨rfl, ?_⟩
    rw [takeDemands_record]
    exact detects
  results s t keeps charge alloc := by
    rintro ⟨rfl, detects⟩
    refine ⟨keeps .clock (by decide), ?_⟩
    rw [charge, alloc]
    exact detects

/-! ## Phases that heed no allocation, through a settling -/

/-- Slot i's record is this one, but for the demand it hands. -/
def State.Stays (i : SlotNo) (c : ChargeSlot) (s : State) : Prop := ∃ d : Demand, s.charge.get i = { c with demand := d }

theorem onAllocation_of_unheeding {c : ChargeSlot} (unheeding : c.phase.heedsAllocation = false) (cfg : Record) (now : Nat)
    (m : MonitorSlot) (p : Nat) : c.onAllocation cfg now m p = c := by
  unfold ChargeSlot.onAllocation
  cases phase : c.phase
  case off => rfl
  case restart => rfl
  case faulted => rfl
  all_goals
    rw [phase] at unheeding
    cases unheeding

theorem stays_settling {c : ChargeSlot} (unheeding : c.phase.heedsAllocation = false) (i : SlotNo) :
    Settling (State.Stays i c) where
  hand k p s := by
    rintro ⟨d, record⟩
    refine ⟨d, ?_⟩
    unfold handAllocation
    split
    · exact record
    · by_cases mine : i = k
      · subst mine
        rw [updateCharge_same]
        refine (onAllocation_of_unheeding (c := s.charge.get i) ?_ _ _ _ _).trans record
        rw [record]; exact unheeding
      · rw [updateCharge_others k _ _ i mine]; exact record
  demands s := by
    rintro ⟨d, record⟩
    refine ⟨s.demandNow i, ?_⟩
    rw [takeDemands_record, record]
  results s t keeps charge alloc := by
    rintro ⟨d, record⟩
    exact ⟨d, charge ▸ record⟩

/-- Outside the phases that heed the allocation a settling moves a record's demand alone (R28 to R30). -/
theorem settled_unheeding {i : SlotNo} {s : State} (unheeding : (s.charge.get i).phase.heedsAllocation = false) :
    s.settled.charge.get i = { s.charge.get i with demand := (s.settled.charge.get i).demand } := by
  obtain ⟨d, record⟩ := (stays_settling unheeding i).settled (s := s) ⟨_, rfl⟩
  rw [record]

/-! ## Faults and DETECT (R21, R22, R34, R36) -/

/-- What a fault by over-current makes of a record (R36). -/
theorem enterFaulted_overCurrent (now : Nat) (m : MonitorSlot) (c : ChargeSlot) : c.enterFaulted now m .overCurrent =
    { c with
      phase := .faulted .overCurrent (if c.retries < 3 then some (now + 10000 * 250) else none), outputOn := false, setPoint := 0
      heldPower := if c.outputOn then c.working.value * m.amps / 250 else c.heldPower
      downSince := none, upSince := none, overSince := none } := by
  cases on : c.outputOn <;>
    simp [ChargeSlot.enterFaulted, ChargeSlot.turnOff, ChargeSlot.noDwells, measuredPower, ChargeSlot.outputVolts, on, maxRetries,
      momentAfter_eq, retryWaitMs]

/-- What DETECT makes of a record (R21). -/
theorem enterDetect_eq (now p : Nat) (c : ChargeSlot) : c.enterDetect now p =
    if 10 ≤ p then
      { c with
        phase := .detect (some (now + 1000 * 250)), outputOn := true, setPoint := 500, working := .five
        downSince := none, upSince := none }
    else
      { c with
        phase := .detect none, outputOn := false, setPoint := 0, working := .five, downSince := none, upSince := none } := rfl

theorem enterDetect_ready (now p : Nat) (c : ChargeSlot) : (c.enterDetect now p).ready = c.ready := by
  rw [enterDetect_eq]; split <;> rfl

/-- What RESTART makes of a record (R30, R32). -/
theorem enterRestart_eq (cfg : Record) (now : Nat) (m : MonitorSlot) (path : Path) (v : Volts) (back : ChargePhase) (held : Demand)
    (c : ChargeSlot) : c.enterRestart cfg now m path v back held =
    { c with
      phase := .restart back (now + cfg.restartHold * 250) held, path := path, working := v, outputOn := false, setPoint := 0
      heldPower := if c.outputOn then c.working.value * m.amps / 250 else c.heldPower
      downSince := none, upSince := none } := by
  cases on : c.outputOn <;>
    simp [ChargeSlot.enterRestart, ChargeSlot.turnOff, ChargeSlot.noDwells, measuredPower, ChargeSlot.outputVolts, on, momentAfter_eq]

/-- What the entry into a charging phase makes of a record (R29, R30, R37). -/
theorem enter_enters (cfg : Record) (m : MonitorSlot) (p : Nat) (dest : ChargePhase) (c : ChargeSlot) :
    c.Enters cfg m p dest (c.enter cfg m p dest) := by
  unfold ChargeSlot.enter
  by_cases reaches : phaseMinimum cfg dest ≤ convert cfg m.cable c p
  · rw [if_pos reaches]
    exact ⟨⟨rfl, rfl, rfl, rfl, rfl⟩, ⟨rfl, rfl⟩, by rw [if_pos reaches]; exact ⟨rfl, rfl, rfl, rfl, rfl⟩⟩
  · rw [if_neg reaches]
    refine ⟨⟨rfl, rfl, rfl, rfl, rfl⟩, ⟨rfl, rfl⟩, ?_⟩
    rw [if_neg reaches]
    refine ⟨rfl, rfl, rfl, rfl, ?_⟩
    cases on : c.outputOn <;> simp [ChargeSlot.turnOff, ChargeSlot.noDwells, measuredPower, ChargeSlot.outputVolts, on]

theorem enter_ready {cfg : Record} {m : MonitorSlot} {p : Nat} {dest : ChargePhase} {c : ChargeSlot}
    (reaches : phaseMinimum cfg dest ≤ convert cfg m.cable c p) (charges : dest ≠ .bulk) : (c.enter cfg m p dest).ready = true := by
  obtain ⟨_, _, phase⟩ := enter_enters cfg m p dest c
  rw [if_pos reaches] at phase
  obtain ⟨_, _, _, ready, _⟩ := phase
  rw [ready, Bool.or_eq_true_iff]
  exact .inr (bne_iff_ne.mpr charges)

section
variable {i : SlotNo} {s : State} {u : Nat}

/-- A charging phase entered at a moment, through the settling (R29, R30, R37). -/
theorem enterPhase_enters (dest : ChargePhase) : EntersAt s ((s.reach u).enterPhase i dest) i dest u := by
  have others : OthersSame i s.charge _ := updateCharge_others i
    (ChargeSlot.enter s.cfg (s.monitor.get i) (s.share.slotAlloc.get i) dest) (s.reach u)
  have frame : Keeps [.clock, .charge, .queue] s _ := ((reach_keeps u s).mono (by decide)).trans
    ((updateCharge_frame i (ChargeSlot.enter s.cfg (s.monitor.get i) (s.share.slotAlloc.get i) dest) (s.reach u)).mono (by decide))
  refine ⟨?_, ⟨_, rfl, ?_, others, frame, settled_follows _ i⟩, fun unready charges reaches => ?_, settled_othersFollow others,
    (frame.mono (by decide)).trans ((settled_keeps _).mono (by decide))⟩
  · exact (settled_clock _).trans (updateCharge_frame _ _ _ .clock (by decide))
  · rw [updateCharge_same]; exact enter_enters _ _ _ _ _
  · exact updateCharge_noticed (u := s.reach u) rfl rfl unready (enter_ready reaches charges) (settled_grows _)

end

/-- Settles O20: each command's arm enters its phase at its time. -/
theorem dwellsEnterTheirPhases : Obligations.DwellsEnterTheirPhases := by
  intro i s u running
  refine ⟨fun phase since => ⟨_, ?_, enterPhase_enters .taper⟩, fun phase since => ⟨_, ?_, enterPhase_enters .topped⟩,
    fun phase since => ⟨_, ?_, enterPhase_enters .bulk⟩, fun phase since => ⟨_, ?_, enterPhase_enters .bulk⟩,
    fun back held phase => ⟨_, ?_, enterPhase_enters back⟩⟩
  · show execTaperDwell i s = _
    exact whileRunning_next running (by simp only [phase, since]; rfl)
  · show execToppedDwell i s = _
    exact whileRunning_next running (by simp only [phase, since]; rfl)
  · show execTaperToBulkDwell i s = _
    exact whileRunning_next running (by simp only [phase, since]; rfl)
  · show execToppedToBulkDwell i s = _
    exact whileRunning_next running (by simp only [phase, since]; rfl)
  · show execRestartHoldExpiry i s = _
    exact whileRunning_next running (by simp only [phase])

/-- Settles O19: the record that each event leaves, and what a settling makes of FAULTED, DETECT and RESTART. -/
theorem faultsAndDetectRunTheirCourse : Obligations.FaultsAndDetectRunTheirCourse := by
  refine ⟨fun i s u running since judges => ?_, fun i s k u running waits => ?_, fun i s u running detects => ?_⟩
  · generalize hw : (s.reach (u + 50 * 250)).notice .chargeFault (some i) 1 = w
    have told : Keeps [.clock, .queue] s w := by
      rw [← hw]; exact ((reach_keeps _ s).mono (by decide)).trans ((notice_keeps _ _ _ _).mono (by decide))
    have clock : w.clock = max s.clock (u + 50 * 250) := by rw [← hw]; exact notice_keeps _ _ _ _ .clock (by decide)
    have charge : w.charge = s.charge := told .charge (by decide)
    generalize hf : (fun c : ChargeSlot => c.enterFaulted w.clock (s.monitor.get i) .overCurrent) = f
    have record : (w.updateCharge i f).charge.get i = (s.charge.get i).enterFaulted w.clock (s.monitor.get i) .overCurrent := by
      rw [updateCharge_same, charge, ← hf]
    have frame : Keeps [.clock, .charge, .queue] s (w.updateCharge i f) :=
      (told.mono (by decide)).trans ((updateCharge_frame i f w).mono (by decide))
    have others : OthersSame i s.charge (w.updateCharge i f).charge := charge ▸ updateCharge_others i f w
    have now : (w.updateCharge i f).settled.clock = w.clock := (settled_clock _).trans (updateCharge_frame i f w .clock (by decide))
    have settled := settled_unheeding (s := w.updateCharge i f) (i := i) (by rw [record]; rfl)
    rw [record, enterFaulted_overCurrent] at settled
    refine ⟨(w.updateCharge i f).settled, ?_, now.trans clock, ?_⟩
    · show execOverCurrentCheck i s = _
      refine whileRunning_next running ?_
      simp only [since, judges, if_true]
      rw [← hf, clock, ← hw]
      rfl
    · rw [settled, now]
      exact ⟨rfl, rfl, rfl, rfl, rfl, rfl, rfl, rfl, rfl, rfl, rfl,
        noticed_of .chargeFault (some i) 1 (u := s.reach (u + 50 * 250)) rfl rfl
          (by rw [hw]; exact (updateCharge_grows _ _ _).trans (settled_grows _)),
        settled_othersFollow others, (frame.mono (by decide)).trans ((settled_keeps _).mono (by decide))⟩
  · generalize hc : ({ s.charge.get i with retries := (s.charge.get i).retries + 1 } : ChargeSlot) = c
    generalize hv : (s.reach u).setCharge i (c.enterDetect (max s.clock u) (s.share.slotAlloc.get i)) = v
    have record : v.charge.get i = c.enterDetect (max s.clock u) (s.share.slotAlloc.get i) := hv ▸ get_setAt_same _ _ _
    have frame : Keeps [.clock, .charge] s v := by
      rw [← hv]; exact ((reach_keeps u s).mono (by decide)).trans ((setCharge_keeps _ _ _).mono (by decide))
    have others : OthersSame i s.charge v.charge := hv ▸ setAt_othersSame _ _ _
    have clock : v.clock = max s.clock u := hv ▸ rfl
    have now : v.settled.clock = max s.clock u := (settled_clock v).trans clock
    have alloc : v.share = s.share := hv ▸ rfl
    have follows := settled_follows v i
    have detects : v.settled.DetectsFrom i (max s.clock u) :=
      (detectsFrom_settling i _).settled ⟨clock, by rw [record, alloc]; exact enterDetect_detectsFrom _ _ _⟩
    have unmoved : (c.enterDetect (max s.clock u) (s.share.slotAlloc.get i)).ready = (s.charge.get i).ready :=
      (enterDetect_ready _ _ _).trans (by rw [← hc])
    refine ⟨v.settled, ?_, now, ⟨v, rfl, others, frame, ?_⟩, ?_, ?_, ?_, ?_, ?_, settled_othersFollow others,
      (frame.mono (by decide)).trans ((settled_keeps _).mono (by decide))⟩
    · show execRetryWaitExpiry i s = _
      refine whileRunning_next running ?_
      simp only [waits]
      rw [State.chargeEvent, updateCharge_of_unready i _ (s.reach u) (by rw [reach_charge, reach_share, reach_clock, hc]; exact unmoved)]
      rw [reach_charge, reach_share, reach_clock, hc, hv]
    · rw [record, now, enterDetect_eq, ← hc]
    · rw [now]; exact detects.2
    · rw [follows.retries, record, enterDetect_eq, ← hc]; split <;> rfl
    · rw [follows.working, record, enterDetect_eq]; split <;> rfl
    · rw [follows.path, record, enterDetect_eq, ← hc]; split <;> rfl
    · rcases follows.ready with same | ⟨ph, _, charges, _⟩
      · rw [same, record, unmoved]
      · exfalso
        have stands := detects.2
        unfold ChargeSlot.DetectsFrom at stands
        split at stands <;> rcases charges with e | e <;> exact absurd (stands.1.symm.trans e) nofun
  · by_cases nine : (s.monitor.get i).cable = .classC ∧ (s.charge.get i).path = .cable
    · generalize hc : (s.charge.get i).enterRestart s.cfg (max s.clock u) (s.monitor.get i) .cable .nine .bulk
        (s.charge.get i).demand = c
      generalize hv : (s.reach u).setCharge i c = v
      have record : v.charge.get i = c := hv ▸ get_setAt_same _ _ _
      have frame : Keeps [.clock, .charge] s v := by
        rw [← hv]; exact ((reach_keeps u s).mono (by decide)).trans ((setCharge_keeps _ _ _).mono (by decide))
      have others : OthersSame i s.charge v.charge := hv ▸ setAt_othersSame _ _ _
      have now : v.settled.clock = max s.clock u := (settled_clock v).trans (hv ▸ rfl)
      have settled := settled_unheeding (s := v) (i := i) (by rw [record, ← hc]; rfl)
      rw [record, ← hc, enterRestart_eq] at settled
      refine ⟨v.settled, ?_, ?_⟩
      · show execDetectTimerExpiry i s = _
        refine whileRunning_next running ?_
        simp only [detects]
        rw [← hv, ← hc]
        exact (if_pos nine).trans (congrArg State.settled (updateCharge_of_unready i _ (s.reach u) rfl))
      · rw [if_pos nine, settled, now]
        refine ⟨rfl, rfl, rfl, rfl, rfl, rfl, ?_, settled_othersFollow others,
          (frame.mono (by decide)).trans ((settled_keeps _).mono (by decide))⟩
        unfold ChargeSlot.Restarts
        simp only [detects]
    · refine ⟨(s.reach u).enterPhase i .bulk, ?_, by rw [if_neg nine]; exact enterPhase_enters .bulk⟩
      show execDetectTimerExpiry i s = _
      refine whileRunning_next running ?_
      simp only [detects]
      exact if_neg nine

end Sys2Proof.Machine
end

section
/-! PROOF. The insertion of a tablet (R6 to R8, R19, R21, R37, R73 to R75, R101): the latch at a movement, the report of one under a
thrown bolt, and the settling of the statement. -/

namespace Sys2Proof.Machine

/-! ## Reports of tampering (R101) -/

section
variable (i : SlotNo) (cause : TamperCause) (s : State)

theorem tamperReport_eq : s.tamperReport i cause false =
    (s.setHold i (tamperHold (s.custody.slots.get i).hold)).notice .tamper (some i) cause.detail := rfl

theorem setHold_slot (h : Option Hold) (k : SlotNo) : (s.setHold i h).custody.slots.get k =
    if k = i then { s.custody.slots.get i with hold := h } else s.custody.slots.get k := by
  rw [State.setHold, setCustody_custody]; exact get_setAt _ _ _ _

theorem notice_custody (kind : NoticeKind) (slot : Option SlotNo) (d : Nat) : (s.notice kind slot d).custody.slots = s.custody.slots :=
  notice_keeps kind slot d s .custody (by decide)

theorem tamperReport_slot (found : Bool) (k : SlotNo) : (s.tamperReport i cause found).custody.slots.get k =
    if k = i ∧ found = false then { s.custody.slots.get i with hold := tamperHold (s.custody.slots.get i).hold }
    else s.custody.slots.get k := by
  cases found with
  | true => rw [if_neg (by simp)]; rfl
  | false =>
    rw [tamperReport_eq, notice_custody, setHold_slot]
    exact if_congr (by simp) rfl rfl

/-- The notice of a report, between two states that keep the queue's order. -/
theorem tamperReport_handed {i : SlotNo} {cause : TamperCause} {s u t : State} (before : Orderly s u) (cfg : u.cfg = s.cfg)
    (after : Orderly (u.tamperReport i cause false) t) (grows : Grows (u.tamperReport i cause false) t) :
    NoticeHanded s t .tamper (some i) cause.detail :=
  noticeHanded_of (u := u.setHold i (tamperHold (u.custody.slots.get i).hold))
    (before.trans (Orderly.of_keeps (setHold_keeps i _ u) (by decide))) cfg after grows

end

/-! ## The latch at a movement of its tablet (R73 to R75) -/

/-- What a movement of the tablet does to a latch record whose bolt does not guard it (R73, R75). -/
def LatchSlot.onMovement (timer : OpenTimer) (ends : Nat) (l : LatchSlot) : LatchSlot :=
  match l.state with
  | .withdrawing _ => { l with moved := true }
  | .opened _ _ => { l with state := .opened timer ends }
  | _ => l

theorem onMovement_of_guards {timer : OpenTimer} {ends : Nat} {l : LatchSlot} (guards : l.state.guards = true) :
    l.onMovement timer ends = l := by
  unfold LatchSlot.onMovement
  split
  next withdraws => rw [withdraws] at guards; cases guards
  next opened => rw [opened] at guards; cases guards
  next => rfl

section
variable {i : SlotNo} {s : State}

theorem guards_iff {x : LatchState} : x.guards = true ↔ x = .locked ∨ ∃ u, x = .withdrawWait u := by
  cases x <;> simp [LatchState.guards]

theorem latchInsertion_of_guards (found : Bool) (guards : (s.latch.get i).state.guards = true) :
    s.latchInsertion i found = s.tamperReport i .insertion found := by
  unfold State.latchInsertion
  dsimp only
  rcases guards_iff.mp guards with locked | ⟨u, waits⟩
  · rw [locked]
  · rw [waits]

theorem latchExtraction_of_guards (guards : (s.latch.get i).state.guards = true) :
    s.latchExtraction i = s.tamperReport i .extraction false := by
  unfold State.latchExtraction
  dsimp only
  rcases guards_iff.mp guards with locked | ⟨u, waits⟩
  · rw [locked]
  · rw [waits]

theorem latchInsertion_latch (found : Bool) (k : SlotNo) : (s.latchInsertion i found).latch.get k =
    if k = i then (s.latch.get i).onMovement .insertSettle (s.clock + s.cfg.insertSettle * 1000 * 250) else s.latch.get k := by
  by_cases guards : (s.latch.get i).state.guards = true
  · rw [latchInsertion_of_guards found guards, onMovement_of_guards guards,
      tamperReport_keeps i _ found s .latch (by decide)]
    split
    next same => rw [same]
    next => rfl
  · unfold State.latchInsertion LatchSlot.onMovement
    dsimp only
    cases state : (s.latch.get i).state
    case withdrawing => exact get_setAt _ _ _ _
    case opened => exact get_setAt _ _ _ _
    case locked => exact absurd (guards_iff.mpr (.inl state)) guards
    case withdrawWait u => exact absurd (guards_iff.mpr (.inr ⟨u, state⟩)) guards
    all_goals exact (ite_eq_right_iff.mpr fun same => by rw [same]).symm

theorem latchExtraction_latch (k : SlotNo) : (s.latchExtraction i).latch.get k =
    if k = i then (s.latch.get i).onMovement .emptyOpen (s.clock + s.cfg.emptyOpen * 1000 * 250) else s.latch.get k := by
  by_cases guards : (s.latch.get i).state.guards = true
  · rw [latchExtraction_of_guards guards, onMovement_of_guards guards,
      tamperReport_keeps i _ false s .latch (by decide)]
    split
    next same => rw [same]
    next => rfl
  · unfold State.latchExtraction LatchSlot.onMovement
    dsimp only
    cases state : (s.latch.get i).state
    case withdrawing => exact get_setAt _ _ _ _
    case opened => exact get_setAt _ _ _ _
    case locked => exact absurd (guards_iff.mpr (.inl state)) guards
    case withdrawWait u => exact absurd (guards_iff.mpr (.inr ⟨u, state⟩)) guards
    all_goals exact (ite_eq_right_iff.mpr fun same => by rw [same]).symm

/-- A latch that does not guard its tablet reports no movement (R74). -/
theorem latchInsertion_unguarded (found : Bool) (guards : ¬ (s.latch.get i).state.guards = true) :
    Keeps [.latch] s (s.latchInsertion i found) := by
  unfold State.latchInsertion
  dsimp only
  split
  next locked => exact absurd (guards_iff.mpr (.inl locked)) guards
  next u waits => exact absurd (guards_iff.mpr (.inr ⟨u, waits⟩)) guards
  next => exact setLatch_keeps _ _ _
  next => exact startOpenTimer_keeps _ _ _
  next => exact Keeps.refl _ _

theorem latchExtraction_unguarded (guards : ¬ (s.latch.get i).state.guards = true) : Keeps [.latch] s (s.latchExtraction i) := by
  unfold State.latchExtraction
  dsimp only
  split
  next locked => exact absurd (guards_iff.mpr (.inl locked)) guards
  next u waits => exact absurd (guards_iff.mpr (.inr ⟨u, waits⟩)) guards
  next => exact setLatch_keeps _ _ _
  next => exact startOpenTimer_keeps _ _ _
  next => exact Keeps.refl _ _

theorem latchInsertion_custody (found : Bool) (k : SlotNo) : (s.latchInsertion i found).custody.slots.get k =
    if k = i ∧ found = false ∧ (s.latch.get i).state.guards = true then
      { s.custody.slots.get i with hold := tamperHold (s.custody.slots.get i).hold }
    else s.custody.slots.get k := by
  by_cases guards : (s.latch.get i).state.guards = true
  · rw [latchInsertion_of_guards found guards, tamperReport_slot]
    exact if_congr (by simp [guards]) rfl rfl
  · rw [latchInsertion_unguarded found guards .custody (by decide), if_neg (by simp [guards])]

theorem latchExtraction_custody (k : SlotNo) : (s.latchExtraction i).custody.slots.get k =
    if k = i ∧ (s.latch.get i).state.guards = true then
      { s.custody.slots.get i with hold := tamperHold (s.custody.slots.get i).hold }
    else s.custody.slots.get k := by
  by_cases guards : (s.latch.get i).state.guards = true
  · rw [latchExtraction_of_guards guards, tamperReport_slot]
    exact if_congr (by simp [guards]) rfl rfl
  · rw [latchExtraction_unguarded guards .custody (by decide), if_neg (by simp [guards])]

end

/-! ## Learning where the start settles (R67) -/

theorem learntAtStart_of_learnt {old : LatchSlot} (learnt : old.state ≠ .unlearned) (t : State) (i : SlotNo) :
    t.learntAtStart i old = old := if_neg fun h => learnt h.1

/-! ## The insertion at every block -/

section
variable (i : SlotNo) (code : Option Nat) (found : Bool) (s : State)

/-- The monitor's record of an inserted tablet (R6, R7, R14). -/
def State.tabletRecord (s : State) (i : SlotNo) (code : Option Nat) : MonitorSlot :=
  { s.monitor.get i with
    codePin := code, cable := cableClassOf code, presence := .present none, q := 0, remainder := 0
    periodEnd := some (s.clock + 1000 * 250), periodSum := 0 }

/-- The tablet is read and its notice handed (R6, R7). -/
def State.tabletRead (s : State) (i : SlotNo) (code : Option Nat) : State :=
  (s.setMonitor i (s.tabletRecord i code)).notice .inserted (some i) (cableCode (cableClassOf code))

/-- The Charge Controller has started the slot (R19, R21). -/
def State.tabletStarted (s : State) (i : SlotNo) (code : Option Nat) : State :=
  (s.tabletRead i code).updateCharge i (ChargeSlot.insert s.cfg s.clock (s.share.slotAlloc.get i) (cableClassOf code))

theorem tabletRead_keeps : Keeps [.monitor, .queue] s (s.tabletRead i code) :=
  ((setMonitor_keeps _ _ _).mono (by decide)).trans ((notice_keeps _ _ _ _).mono (by decide))

theorem insert_eq : s.insert i code found =
    if found then ((s.tabletStarted i code).settled.latchInsertion i found).settleStart i
    else (s.tabletStarted i code).settled.latchInsertion i found := by
  have keeps := tabletRead_keeps i code s
  have cfg : (s.tabletRead i code).cfg = s.cfg := keeps .cfg (by decide)
  have clock : (s.tabletRead i code).clock = s.clock := keeps .clock (by decide)
  have alloc : (s.tabletRead i code).share.slotAlloc = s.share.slotAlloc := (keeps .share (by decide)).2.2.2.2.2.2.2
  unfold State.tabletStarted
  rw [← cfg, ← clock, ← alloc]
  rfl

theorem tabletStarted_keeps : Keeps [.monitor, .charge, .queue] s (s.tabletStarted i code) :=
  ((tabletRead_keeps i code s).mono (by decide)).trans ((updateCharge_frame _ _ _).mono (by decide))

theorem tabletStarted_monitor : (s.tabletStarted i code).monitor = setAt s.monitor i (s.tabletRecord i code) := by
  rw [State.tabletStarted, updateCharge_frame i _ _ .monitor (by decide), State.tabletRead,
    notice_keeps _ _ _ _ .monitor (by decide), setMonitor_monitor]

theorem tabletStarted_record : (s.tabletStarted i code).charge.get i =
    ChargeSlot.insert s.cfg s.clock (s.share.slotAlloc.get i) (cableClassOf code) (s.charge.get i) := by
  rw [State.tabletStarted, updateCharge_same, tabletRead_keeps i code s .charge (by decide)]

theorem tabletStarted_others : OthersSame i s.charge (s.tabletStarted i code).charge := by
  intro k other
  rw [State.tabletStarted, updateCharge_others i _ _ k other, tabletRead_keeps i code s .charge (by decide)]

/-- The record of an inserted tablet on its way to DETECT (R19, R37). -/
def ChargeSlot.fresh (cfg : Record) (c : ChargeSlot) : ChargeSlot :=
  { c with
    path := .cable, retries := 0, ready := decide (cfg.checkoutCharge = 0), downSince := none, upSince := none
    overSince := none }

theorem insert_charge (cfg : Record) (now p : Nat) (cable : CableClass) (c : ChargeSlot) : c.insert cfg now p cable =
    if cable = .invalid then
      { c.fresh cfg with phase := .faulted .invalidCable none, retries := 3, outputOn := false, setPoint := 0 }
    else (c.fresh cfg).enterDetect now p := by
  have ready : (false || decide (cfg.checkoutCharge ≤ 0)) = decide (cfg.checkoutCharge = 0) := by simp
  unfold ChargeSlot.insert ChargeSlot.fresh readyByCharge
  rw [← ready]
  rfl

end

theorem Phase.Follows.not_charging {p q : Phase} (h : p.Follows q) (start : (∃ t, p = .detect t) ∨ ∃ k t, p = .faulted k t)
    (ph : ChargePhase) : q ≠ .charging ph ∧ q ≠ .deferred ph := by
  rcases start with ⟨t, rfl⟩ | ⟨k, t, rfl⟩
  · obtain ⟨u, rfl⟩ := h
    exact ⟨nofun, nofun⟩
  · cases (show q = .faulted k t from h)
    exact ⟨nofun, nofun⟩

/-- Charge-ready stands through the settling of a slot in DETECT or FAULTED. -/
theorem ChargeSlot.Follows.ready_eq {c d : ChargeSlot} (h : c.Follows d)
    (start : (∃ t, c.phase = .detect t) ∨ ∃ k t, c.phase = .faulted k t) : d.ready = c.ready := by
  rcases h.ready with same | ⟨ph, _, charges | defers, _⟩
  · exact same
  · exact absurd charges (h.phase.not_charging start ph).1
  · exact absurd defers (h.phase.not_charging start ph).2

section
variable (i : SlotNo) (code : Option Nat) (s : State)

/-- The charge record of an inserted slot, settled (R19, R21, R37). -/
theorem tabletStarted_settled :
    let t := (s.tabletStarted i code).settled
    let d := t.charge.get i
    (cableClassOf code = .invalid →
      d.phase = .faulted .invalidCable none ∧ d.retries = 3 ∧ d.outputOn = false ∧ d.setPoint = 0) ∧
    (cableClassOf code ≠ .invalid →
      d.DetectsFrom s.clock (t.share.slotAlloc.get i) ∧ d.retries = 0 ∧ d.working = .five) ∧
    d.downSince = none ∧ d.upSince = none ∧ d.overSince = none ∧ d.path = .cable ∧
    d.ready = decide (s.cfg.checkoutCharge = 0) := by
  intro t d
  have keeps := tabletStarted_keeps i code s
  have follows : ((s.tabletStarted i code).charge.get i).Follows d := settled_follows _ i
  have record := (tabletStarted_record i code s).trans (insert_charge _ _ _ _ _)
  have clock : (s.tabletStarted i code).clock = s.clock := keeps .clock (by decide)
  have alloc : (s.tabletStarted i code).share.slotAlloc = s.share.slotAlloc := (keeps .share (by decide)).2.2.2.2.2.2.2
  generalize hc : (s.tabletStarted i code).charge.get i = c at follows record
  by_cases bad : cableClassOf code = .invalid
  · rw [if_pos bad] at record
    obtain ⟨phase, output, point, _⟩ := follows.of_faulted (by rw [record])
    have ready := follows.ready_eq (.inr ⟨_, _, by rw [record]⟩)
    refine ⟨fun _ => ⟨phase, ?_, ?_, ?_⟩, fun good => absurd bad good, ?_, ?_, ?_, ?_, ?_⟩
    · rw [follows.retries, record]
    · rw [output, record]
    · rw [point, record]
    · rcases follows.downSince with e | e <;> rw [e]; rw [record]; rfl
    · rcases follows.upSince with e | e <;> rw [e]; rw [record]; rfl
    · rw [follows.overSince, record]; rfl
    · rw [follows.path, record]; rfl
    · rw [ready, record]; rfl
  · rw [if_neg bad] at record
    have detects : t.DetectsFrom i s.clock := (detectsFrom_settling i _).settled
      ⟨clock, by rw [hc, record, alloc]; exact enterDetect_detectsFrom _ _ _⟩
    have start : ∃ u, c.phase = .detect u := by rw [record, enterDetect_eq]; split <;> exact ⟨_, rfl⟩
    have ready := follows.ready_eq (.inl start)
    refine ⟨fun invalid => absurd invalid bad, fun _ => ⟨detects.2, ?_, ?_⟩, ?_, ?_, ?_, ?_, ?_⟩
    · rw [follows.retries, record, enterDetect_eq]; split <;> rfl
    · rw [follows.working, record, enterDetect_eq]; split <;> rfl
    · rcases follows.downSince with e | e <;> rw [e]; rw [record, enterDetect_eq]; split <;> rfl
    · rcases follows.upSince with e | e <;> rw [e]; rw [record, enterDetect_eq]; split <;> rfl
    · rw [follows.overSince, record, enterDetect_eq]; split <;> rfl
    · rw [follows.path, record, enterDetect_eq]; split <;> rfl
    · rw [ready, record, enterDetect_ready]; rfl

end

section
variable (i : SlotNo) (code : Option Nat) (found : Bool) (s : State)

/-- The state before the start of the slot settles. -/
def State.tabletSeated (s : State) (i : SlotNo) (code : Option Nat) (found : Bool) : State :=
  (s.tabletStarted i code).settled.latchInsertion i found

theorem insert_keeps_seated : Keeps [.monitor, .latch] (s.tabletSeated i code found) (s.insert i code found) := by
  rw [insert_eq]
  exact Keeps.ite (settleStart_keeps _ _) (Keeps.refl _ _)

theorem tabletSeated_keeps : Keeps [.latch, .custody, .queue] (s.tabletStarted i code).settled (s.tabletSeated i code found) :=
  latchInsertion_keeps _ _ _

theorem tabletSeated_monitor : (s.tabletSeated i code found).monitor = setAt s.monitor i (s.tabletRecord i code) := by
  rw [State.tabletSeated, latchInsertion_keeps i found _ .monitor (by decide), settled_monitor, tabletStarted_monitor]

theorem insert_monitor (k : SlotNo) : (s.insert i code found).monitor.get k =
    if k = i then { s.tabletRecord i code with startSettled := (s.monitor.get i).startSettled || found } else s.monitor.get k := by
  rw [insert_eq]
  cases found with
  | true =>
    rw [if_pos rfl, settleStart_monitor, ← State.tabletSeated, tabletSeated_monitor, get_setAt_same, get_setAt]
    split
    next => rw [Bool.or_true]
    next => rfl
  | false =>
    rw [if_neg (by simp), ← State.tabletSeated, tabletSeated_monitor, get_setAt]
    split
    next => rw [Bool.or_false]; rfl
    next => rfl

theorem tabletStarted_latch : (s.tabletStarted i code).settled.latch = s.latch :=
  Eq.trans (settled_keeps _ .latch (by decide)) (tabletStarted_keeps i code s .latch (by decide))

theorem insert_latch (k : SlotNo) : (s.insert i code found).latch.get k =
    if k = i then
      let moved := (s.latch.get i).onMovement .insertSettle (s.clock + s.cfg.insertSettle * 1000 * 250)
      if found then (s.insert i code found).learntAtStart i moved else moved
    else s.latch.get k := by
  have clock : (s.tabletStarted i code).settled.clock = s.clock :=
    (settled_clock _).trans (tabletStarted_keeps i code s .clock (by decide))
  have cfg : (s.tabletStarted i code).settled.cfg = s.cfg :=
    (settled_cfg _).trans (tabletStarted_keeps i code s .cfg (by decide))
  rw [insert_eq]
  cases found with
  | true =>
    rw [if_pos rfl, settleStart_latch, latchInsertion_latch, latchInsertion_latch, tabletStarted_latch, clock, cfg]
    split <;> simp_all
  | false =>
    rw [if_neg (by simp), latchInsertion_latch, tabletStarted_latch, clock, cfg]
    rfl

theorem tabletStarted_custody : (s.tabletStarted i code).settled.custody.slots = s.custody.slots :=
  (settled_custody _).trans (tabletStarted_keeps i code s .custody (by decide))

theorem insert_custody (k : SlotNo) : (s.insert i code found).custody.slots.get k =
    if k = i ∧ found = false ∧ (s.latch.get i).state.guards = true then
      { s.custody.slots.get i with hold := tamperHold (s.custody.slots.get i).hold }
    else s.custody.slots.get k := by
  have slots : (s.insert i code found).custody.slots = (s.tabletSeated i code found).custody.slots :=
    insert_keeps_seated i code found s .custody (by decide)
  rw [slots, State.tabletSeated, latchInsertion_custody, tabletStarted_latch, tabletStarted_custody]

theorem insert_frame : Keeps [.monitor, .latch, .custody, .charge, .share, .queue] s (s.insert i code found) :=
  (((tabletStarted_keeps i code s).mono (by decide)).trans ((settled_keeps _).mono (by decide))).trans
    (((tabletSeated_keeps i code found s).mono (by decide)).trans ((insert_keeps_seated i code found s).mono (by decide)))

theorem insert_charge_eq : (s.insert i code found).charge = (s.tabletStarted i code).settled.charge :=
  Eq.trans (insert_keeps_seated i code found s .charge (by decide)) (tabletSeated_keeps i code found s .charge (by decide))

theorem insert_slotAlloc : (s.insert i code found).share.slotAlloc = (s.tabletStarted i code).settled.share.slotAlloc :=
  (insert_keeps_seated i code found s .share (by decide)).2.2.2.2.2.2.2.trans
    (tabletSeated_keeps i code found s .share (by decide)).2.2.2.2.2.2.2

theorem tabletRead_grows : Grows (s.tabletRead i code) (s.insert i code found) := by
  have seated : Grows (s.tabletRead i code) (s.tabletSeated i code found) :=
    ((updateCharge_grows _ _ _).trans (settled_grows _)).trans (latchInsertion_grows _ _ _)
  exact seated.trans (Grows.of_keeps (insert_keeps_seated i code found s) (by decide))

theorem tabletStarted_orderly : Orderly s (s.tabletStarted i code).settled :=
  ((((Orderly.of_keeps (setMonitor_keeps _ _ _) (by decide)).trans (notice_orderly _ _ _ _)).trans
    (updateCharge_orderly _ _ _)).trans (settled_orderly _))

end

/-- Settles O14: the record that each block holds after the insertion. -/
theorem insertionStartsSlot : Obligations.InsertionStartsSlot := by
  intro i code s u found running settling
  generalize hr : s.reach u = r
  have before : Keeps [.clock] s r := hr ▸ reach_keeps u s
  have monitor : r.monitor = s.monitor := before .monitor (by decide)
  have latch : r.latch = s.latch := before .latch (by decide)
  have custody : r.custody.slots = s.custody.slots := before .custody (by decide)
  have charge : r.charge = s.charge := before .charge (by decide)
  have cfg : r.cfg = s.cfg := before .cfg (by decide)
  have record := insert_monitor i code found r i
  have frame := insert_frame i code found r
  have clock : (r.insert i code found).clock = r.clock := frame .clock (by decide)
  obtain ⟨invalid, valid, down, up, excess, path, ready⟩ := tabletStarted_settled i code r
  rw [← insert_charge_eq i code found r] at invalid valid down up excess path ready
  rw [if_pos rfl, monitor] at record
  rw [← insert_slotAlloc i code found r, ← clock] at valid
  have latched := insert_latch i code found r i
  rw [if_pos rfl, latch, cfg, ← clock] at latched
  generalize ht : r.insert i code found = t at *
  refine ⟨t, ?_, clock.trans (hr ▸ rfl), ?_, ?_, ?_, ?_, ?_, ?_, ?_, ?_, down, up, excess, path, cfg ▸ ready, ?_, ?_, ?_, ?_, ?_, ?_, ?_,
    ?_, (before.mono (by decide)).trans (frame.mono (by decide))⟩
  · show execInsertion i code s = _
    exact whileRunning_next running (by simp only [settling]; rw [hr, ht])
  · rw [record]; rfl
  · rw [record]; cases code <;> rfl
  · rw [record]; rfl
  · rw [record]; rfl
  · rw [record, clock]; rfl
  · rw [record]
  · rw [record]; exact invalid
  · rw [record]
    exact fun good => ⟨(valid good).1, (valid good).2⟩
  · rw [latched]
    cases state : (s.latch.get i).state with
    | unlearned => simp only [LatchSlot.onMovement, state]
    | opened timer ends =>
      simp only [LatchSlot.onMovement, state]
      exact ite_eq_right_iff.mpr fun _ => learntAtStart_of_learnt (by exact nofun) t i
    | withdrawing ends =>
      simp only [LatchSlot.onMovement, state]
      exact ite_eq_right_iff.mpr fun _ => learntAtStart_of_learnt (by exact nofun) t i
    | _ =>
      simp only [LatchSlot.onMovement, state]
      exact ite_eq_right_iff.mpr fun _ => learntAtStart_of_learnt (by rw [state]; exact nofun) t i
  · have hold := insert_custody i code found r i
    rw [ht, latch, custody] at hold
    rw [hold]
    exact if_congr (by simp) rfl rfl
  · rintro rfl guards
    have report : t = (r.tabletStarted i code).settled.tamperReport i .insertion false := by
      rw [← ht, insert_eq]
      exact latchInsertion_of_guards false (by rw [tabletStarted_latch, latch]; exact guards)
    have same_cfg : (r.tabletStarted i code).settled.cfg = s.cfg :=
      (settled_cfg _).trans (Eq.trans (tabletStarted_keeps i code r .cfg (by decide)) cfg)
    exact tamperReport_handed (cause := .insertion)
      ((Orderly.of_keeps before (by decide)).trans (tabletStarted_orderly i code r)) same_cfg (report ▸ Orderly.refl _)
      (report ▸ Grows.refl _)
  · rw [record]
    exact noticed_of .inserted (some i) _ (u := r.setMonitor i (r.tabletRecord i code)) cfg (hr ▸ rfl)
      (ht ▸ tabletRead_grows i code found r)
  · intro k other
    rw [← ht, insert_monitor, if_neg other, monitor]
  · intro k other
    rw [← ht, insert_latch, if_neg other, latch]
  · intro k other
    rw [← ht, insert_custody, if_neg (fun h => other h.1), custody]
  · rw [← ht]
    intro k other
    rw [insert_charge_eq, ← charge]
    exact settled_othersFollow (tabletStarted_others i code r) k other

end Sys2Proof.Machine
end

section
/-! PROOF. The extraction of a tablet (R10, R20, R37, R73 to R75, R101, R104, R122, R136, R137): the answers of its runs, the charge
record of a slot that is OFF, and the settling of the statement. -/

namespace Sys2Proof.Machine

/-! ## Answers of runs -/

/-- A plan's record is found after other plans' runs have closed (R110). -/
theorem closeRun_find_other {id other : PlanId} (differ : other ≠ id) (table : List PlanRecord) :
    (closeRun other table).find? (fun r => r.id = id) = table.find? (fun r => r.id = id) := by
  induction table with
  | nil => rfl
  | cons r rs ih =>
    rw [closeRun]
    by_cases closed : r.id = other
    · have unnamed : ¬ r.id = id := fun same => differ (closed.symm.trans same)
      rw [if_pos closed]
      split
      · simp [unnamed]
      · simp [unnamed]
    · rw [if_neg closed]
      by_cases named : r.id = id
      · simp [named]
      · simp only [List.find?_cons, named, decide_false]; exact ih

theorem reportRun_planOf_other {r : Run} {id : PlanId} (differ : r.plan ≠ id) (i : SlotNo) (o : Answer) (n : Nat) (s : State) :
    (s.reportRun i r o n).planOf id = s.planOf id := by
  rw [State.planOf, reportRun_closes]; exact closeRun_find_other differ _

theorem reportRun_handed {i : SlotNo} {r : Run} {p : PlanRecord} {s : State} (o : Answer) (n : Nat) (found : s.planOf r.plan = some p)
    {b t : State} (before : Orderly b s) (after : Orderly (s.reportRun i r o n) t) (grows : Grows (s.reportRun i r o n) t) :
    Handed (.result p.source r.plan (byteOf i.val) o n) b t :=
  handed_of before (reportRun_line o n found) after grows rfl rfl

/-- Each run of a list is answered, where no plan has two of them (R122, R142). -/
theorem reportRuns_handed (i : SlotNo) (o : Answer) : ∀ (rs : List Run) {b s t : State}, Orderly b s →
    Orderly (rs.foldl (fun u r => u.reportRun i r o 0) s) t → Grows (rs.foldl (fun u r => u.reportRun i r o 0) s) t →
    (rs.map (·.plan)).Nodup → ∀ r ∈ rs, ∀ p, s.planOf r.plan = some p →
    Handed (.result p.source r.plan (byteOf i.val) o 0) b t
  | [], _, _, _, _, _, _, _ => nofun
  | x :: rs, b, s, t, before, after, grows, once => by
    intro r member p found
    obtain ⟨fresh, rest⟩ := List.nodup_cons.mp once
    rcases List.mem_cons.mp member with rfl | later
    · exact reportRun_handed o 0 found before
        ((orderly_foldl _ (fun u y => reportRun_orderly i y o 0 u) rs _).trans after)
        ((grows_foldl _ (fun u y => reportRun_grows i y o 0 u) rs _).trans grows)
    · have differ : x.plan ≠ r.plan := fun same => fresh (List.mem_map.mpr ⟨r, later, same.symm⟩)
      exact reportRuns_handed i o rs (before.trans (reportRun_orderly i x o 0 s)) after grows rest r later p
        ((reportRun_planOf_other differ i o 0 s).trans found)

section
variable {i : SlotNo} {s : State}

/-- The state in which the run of a finished slot is answered: its floor is 0, it waits for no lane and its lane has taken its
side (R110). -/
def State.sided (s : State) (i : SlotNo) (side : LaneSide) : State := ((s.setFloor i 0).leaveWaitList i).laneSide i side

theorem sided_orderly (side : LaneSide) : Orderly s (s.sided i side) :=
  ((setFloor_orderly i 0 s).trans (Orderly.of_keeps (leaveWaitList_keeps i _) (by decide))).trans (laneSide_orderly i side _)

theorem sided_planOf (side : LaneSide) (id : PlanId) : (s.sided i side).planOf id = s.planOf id := by
  rw [State.planOf, State.sided, (laneSide_keeps i side _ .runs (by decide)).2]
  exact congrArg (List.find? fun r => r.id = id) (setFloor_table i 0 s)

theorem finishHead_line {r : Run} {p : PlanRecord} (o : Answer) (side : LaneSide) (head : s.headRun i = some r)
    (found : s.planOf r.plan = some p) : (s.finishHead i o side).line =
      (s.sided i side).line.hand (.result p.source r.plan (byteOf i.val) o r.step) := by
  have same : (s.sided i side).headRun i = some r := (sided_headRun side i).trans head
  rw [finishHead_of_head o side head, ← State.sided, endRun_of_head o r.step same]
  exact reportRun_line o r.step ((sided_planOf side r.plan).trans found)

/-- The end of a head run is answered to its plan's source (R110). -/
theorem finishHead_handed {r : Run} {p : PlanRecord} {b t : State} (o : Answer) (side : LaneSide) (head : s.headRun i = some r)
    (found : s.planOf r.plan = some p) (before : Orderly b s) (after : Orderly (s.finishHead i o side) t)
    (grows : Grows (s.finishHead i o side) t) : Handed (.result p.source r.plan (byteOf i.val) o r.step) b t :=
  handed_of (before.trans (sided_orderly side)) (finishHead_line o side head found) after grows rfl rfl

end

theorem reportRuns_closes (i : SlotNo) (o : Answer) (rs : List Run) (s : State) :
    (rs.foldl (fun t r => t.reportRun i r o 0) s).plans.table = rs.foldl (fun table r => closeRun r.plan table) s.plans.table := by
  induction rs generalizing s with
  | nil => rfl
  | cons r rs ih => rw [List.foldl_cons, ih, reportRun_closes, List.foldl_cons]

/-! ## The Plan Engine at an extraction (R104, R122) -/

section
variable (i : SlotNo) (s : State)

/-- Progress and build tag are cleared (R104). -/
def State.uncredited (s : State) (i : SlotNo) : State :=
  s.setPlan i { s.plans.slots.get i with progress := none, buildTag := none }

theorem planExtraction_eq : s.planExtraction i = ((s.uncredited i).finishHead i .extracted .keep).failQueued i := rfl

theorem uncredited_headRun : (s.uncredited i).headRun i = s.headRun i := by
  rw [State.headRun, State.uncredited, cleared_runs]; rfl

theorem failQueued_slot (k : SlotNo) : (s.failQueued i).plans.slots.get k =
    if k = i then { s.plans.slots.get i with runs := [] } else s.plans.slots.get k := by
  rw [State.failQueued, setPlan_slot, reportRuns_slots]

theorem planExtraction_slot (k : SlotNo) : (s.planExtraction i).plans.slots.get k =
    if k = i then
      { s.plans.slots.get i with
        runs := [], progress := none, buildTag := none
        floor := if (s.headRun i).isSome then 0 else (s.plans.slots.get i).floor }
    else s.plans.slots.get k := by
  have cleared : ∀ j, (s.uncredited i).plans.slots.get j =
      if j = i then { s.plans.slots.get i with progress := none, buildTag := none } else s.plans.slots.get j :=
    fun j => setPlan_slot i _ s j
  rw [planExtraction_eq, failQueued_slot]
  have heads := uncredited_headRun i s
  cases head : s.headRun i with
  | some r =>
    rw [finishHead_slot _ _ (heads.trans head), finishHead_slot _ _ (heads.trans head), cleared, cleared, if_pos rfl, if_pos rfl]
    split <;> rfl
  | none =>
    rw [finishHead_of_none _ _ (heads.trans head), cleared, cleared, if_pos rfl]
    split <;> rfl

theorem planExtraction_table : (s.planExtraction i).plans.table =
    (s.plans.slots.get i).runs.foldl (fun table r => closeRun r.plan table) s.plans.table := by
  have heads := uncredited_headRun i s
  have runs : ((s.uncredited i).plans.slots.get i).runs = (s.plans.slots.get i).runs := cleared_runs i s none none i
  rw [planExtraction_eq]
  show (((s.uncredited i).finishHead i .extracted .keep).failQueued i).plans.table = _
  unfold State.failQueued
  rw [setPlan_plans]
  dsimp only
  rw [reportRuns_closes, finishHead_runs, if_pos rfl, runs]
  cases head : s.headRun i with
  | some r =>
    obtain ⟨rest, queue⟩ := List.head?_eq_some_iff.mp head
    rw [finishHead_table _ _ (heads.trans head), queue]
    rfl
  | none =>
    have empty : (s.plans.slots.get i).runs = [] := List.head?_eq_none_iff.mp head
    rw [finishHead_of_none _ _ (heads.trans head), empty]
    rfl

end

/-! ## A slot that is OFF, through a settling (R20, R28) -/

/-- Slot i is OFF and asks for nothing. -/
def State.IsOff (i : SlotNo) (s : State) : Prop := (s.charge.get i).phase = .off ∧ (s.charge.get i).demand = {}

theorem takeDemands_isOff {i : SlotNo} {s : State} (off : (s.charge.get i).phase = .off) : s.takeDemands.IsOff i := by
  refine ⟨follows_off (takeDemands_follows s i).phase off, ?_⟩
  rw [takeDemands_record]
  show s.demandNow i = _
  rw [State.demandNow, slotDemand, off]

theorem isOff_settling (i : SlotNo) : Settling (State.IsOff i) where
  hand k p s := by
    rintro ⟨off, none⟩
    refine ⟨?_, (handAllocation_demand k p s i).trans none⟩
    exact follows_off (handAllocation_follows k p s i).phase off
  demands s := by
    rintro ⟨off, _⟩
    exact takeDemands_isOff off
  results s t _ charge _ := by
    rintro ⟨off, none⟩
    exact ⟨charge ▸ off, charge ▸ none⟩

/-- A settling leaves a slot that is OFF without a demand. -/
theorem settled_isOff {i : SlotNo} {s : State} (off : (s.charge.get i).phase = .off) : s.settled.IsOff i := by
  by_cases moved : s.demandsMoved = true
  · have first : s.settled = settle 7 s.demandRound := by
      rw [State.settled, settleRounds, settle, if_pos moved]
    rw [first]
    exact (isOff_settling i).settle 7 ((isOff_settling i).demandRound_of_taken (takeDemands_isOff off))
  · rw [settled_of_still (by simpa using moved)]
    refine ⟨off, ?_⟩
    have still : s.demandsMoved = false := by simpa using moved
    have handed := (List.any_eq_false.mp still) i (mem_allSlots i)
    have same : (s.charge.get i).demand = s.demandNow i := by simpa using handed
    rw [same, State.demandNow, slotDemand, off]

/-- A record that is OFF and asks for nothing stands through a settling (R20). -/
theorem settled_off {i : SlotNo} {s : State} (off : s.IsOff i) : s.settled.charge.get i = s.charge.get i := by
  have record := settled_unheeding (i := i) (s := s) (by rw [off.1]; rfl)
  rw [(settled_isOff off.1).2] at record
  rw [record, ← off.2]

/-! ## Lane events on a charge record (R20, R32) -/

theorem onLane_unheeding (cfg : Record) (now : Nat) (m : MonitorSlot) (path : Path) (v : Volts) (c : ChargeSlot) :
    (c.onLane cfg now m path v).phase.heedsAllocation = false := by
  unfold ChargeSlot.onLane
  split
  next off => rw [show ({ c with path := path } : ChargeSlot).phase = .off from off]; rfl
  next => rfl
  next => rfl
  next => rfl
  next => rfl
  next faulted => rw [show ({ c with path := path, working := v } : ChargeSlot).phase = _ from faulted]; rfl

/-- What a lane event makes of a record, but for its demand (R20, R32, R33). -/
theorem onLane_restarts (cfg : Record) (now : Nat) (m : MonitorSlot) (path : Path) (v : Volts) (c : ChargeSlot) (d : Demand) :
    c.Restarts cfg now m.amps path v { c.onLane cfg now m path v with demand := d } := by
  unfold ChargeSlot.Restarts ChargeSlot.onLane
  cases c.phase <;> dsimp only <;> simp only [enterRestart_eq]

/-- A lane event of slot i and its settling (R32). -/
theorem laneEvent_record (i : SlotNo) (path : Path) (v : Volts) (s : State) :
    ∃ d, (s.chargeEvent i (ChargeSlot.onLane s.cfg s.clock (s.monitor.get i) path v)).charge.get i =
      { (s.charge.get i).onLane s.cfg s.clock (s.monitor.get i) path v with demand := d } := by
  have record := updateCharge_same i (ChargeSlot.onLane s.cfg s.clock (s.monitor.get i) path v) s
  have settled := settled_unheeding (i := i) (s := s.updateCharge i (ChargeSlot.onLane s.cfg s.clock (s.monitor.get i) path v))
    (by rw [record]; exact onLane_unheeding _ _ _ _ _ _)
  rw [record] at settled
  exact ⟨_, settled⟩

/-- A slot that is OFF takes a lane event by its path alone (R20). -/
theorem laneEvent_off {i : SlotNo} {s : State} (off : s.IsOff i) (path : Path) (v : Volts) :
    (s.chargeEvent i (ChargeSlot.onLane s.cfg s.clock (s.monitor.get i) path v)).charge.get i =
      { s.charge.get i with path := path } := by
  have record := updateCharge_same i (ChargeSlot.onLane s.cfg s.clock (s.monitor.get i) path v) s
  have moved : (s.charge.get i).onLane s.cfg s.clock (s.monitor.get i) path v = { s.charge.get i with path := path } := by
    simp only [ChargeSlot.onLane, off.1]
  rw [moved] at record
  have still : (s.updateCharge i (ChargeSlot.onLane s.cfg s.clock (s.monitor.get i) path v)).IsOff i := by
    unfold State.IsOff; rw [record]; exact off
  exact (settled_off still).trans record

theorem laneDetached_off (i : SlotNo) (s : State) (off : s.IsOff i) :
    (s.laneDetached i).charge.get i = { s.charge.get i with path := .cable } :=
  laneEvent_off (s := { s with free := s.free + 1 }) off .cable (s.detachVolts i)

/-! ## The slot at every block -/

section
variable (i : SlotNo) (s : State)

/-- The notice is handed and the monitor cleared (R10). -/
def State.tabletGone (s : State) (i : SlotNo) : State :=
  (s.setMonitor i (s.monitor.get i).clear).notice .extracted (some i) (s.monitor.get i).q

theorem tabletGone_keeps : Keeps [.monitor, .queue] s (s.tabletGone i) :=
  ((setMonitor_keeps _ _ _).mono (by decide)).trans ((notice_keeps _ _ _ _).mono (by decide))

/-- The Charge Controller has left the slot (R20). -/
def State.tabletLeft (s : State) (i : SlotNo) : State := (s.tabletGone i).chargeEvent i ChargeSlot.extract

theorem tabletLeft_keeps : Keeps (.monitor :: powerParts) s (s.tabletLeft i) :=
  ((tabletGone_keeps i s).mono (by decide)).trans ((chargeEvent_keeps _ _ _).mono (by decide))

theorem tabletLeft_record : (s.tabletLeft i).charge.get i = { (s.charge.get i).extract with demand := {} } := by
  have record : ((s.tabletGone i).updateCharge i ChargeSlot.extract).charge.get i = (s.charge.get i).extract := by
    rw [updateCharge_same, tabletGone_keeps i s .charge (by decide)]
  have off : (((s.tabletGone i).updateCharge i ChargeSlot.extract).charge.get i).phase = .off := by rw [record]; rfl
  have settled := settled_unheeding (i := i) (s := (s.tabletGone i).updateCharge i ChargeSlot.extract) (by rw [off]; rfl)
  rw [(settled_isOff off).2, record] at settled
  exact settled

theorem unseat_eq : s.unseat i = ((s.tabletLeft i).latchExtraction i).setCustody i
    { ((s.tabletLeft i).latchExtraction i).custody.slots.get i with dueUntil := none, duePassed := false } := rfl

theorem unseat_charge : (s.unseat i).charge = (s.tabletLeft i).charge := by
  rw [unseat_eq, setCustody_charge]; exact latchExtraction_keeps i (s.tabletLeft i) .charge (by decide)

theorem tabletLeft_custody : (s.tabletLeft i).custody.slots = s.custody.slots := tabletLeft_keeps i s .custody (by decide)

theorem tabletLeft_latch : (s.tabletLeft i).latch = s.latch := tabletLeft_keeps i s .latch (by decide)

theorem unseat_monitor : (s.unseat i).monitor = setAt s.monitor i (s.monitor.get i).clear := by
  have seat : (s.unseat i).monitor = (s.tabletLeft i).monitor := by
    rw [unseat_eq, setCustody_monitor]; exact latchExtraction_keeps i (s.tabletLeft i) .monitor (by decide)
  have kept : (s.tabletLeft i).monitor = (s.tabletGone i).monitor :=
    chargeEvent_keeps i ChargeSlot.extract (s.tabletGone i) .monitor (by decide)
  rw [seat, kept, State.tabletGone, notice_keeps _ _ _ _ .monitor (by decide), setMonitor_monitor]

theorem unseat_latch (k : SlotNo) : (s.unseat i).latch.get k =
    if k = i then (s.latch.get i).onMovement .emptyOpen (s.clock + s.cfg.emptyOpen * 1000 * 250) else s.latch.get k := by
  have clock : (s.tabletLeft i).clock = s.clock := tabletLeft_keeps i s .clock (by decide)
  have cfg : (s.tabletLeft i).cfg = s.cfg := tabletLeft_keeps i s .cfg (by decide)
  show ((s.tabletLeft i).latchExtraction i).latch.get k = _
  rw [latchExtraction_latch, tabletLeft_latch, clock, cfg]

theorem unseat_custody (k : SlotNo) : (s.unseat i).custody.slots.get k =
    if k = i then
      { hold :=
          if (s.latch.get i).state.guards then tamperHold (s.custody.slots.get i).hold else (s.custody.slots.get i).hold
        dueUntil := none, duePassed := false }
    else s.custody.slots.get k := by
  rw [unseat_eq, setCustody_custody]
  dsimp only
  rw [get_setAt, latchExtraction_custody, latchExtraction_custody, tabletLeft_latch, tabletLeft_custody]
  by_cases same : k = i
  · rw [if_pos same, if_pos same]
    by_cases guards : (s.latch.get i).state.guards = true <;> simp [guards]
  · rw [if_neg same, if_neg same, if_neg fun h => same h.1]

theorem tabletGone_orderly : Orderly s (s.tabletGone i) :=
  (Orderly.of_keeps (setMonitor_keeps _ _ _) (by decide)).trans (notice_orderly _ _ _ _)

theorem tabletLeft_orderly : Orderly s (s.tabletLeft i) := (tabletGone_orderly i s).trans (chargeEvent_orderly _ _ _)

theorem unseat_orderly : Orderly (s.tabletLeft i) (s.unseat i) :=
  (latchExtraction_orderly i _).trans (Orderly.of_keeps (setCustody_keeps _ _ _) (by decide))

theorem unseat_grows : Grows (s.tabletLeft i) (s.unseat i) := (latchExtraction_grows i _).trans (setCustody_grows _ _ _)

/-- A movement under a thrown bolt is reported (R74, R101). -/
theorem unseat_tamper {b t : State} (guards : (s.latch.get i).state.guards = true) (before : Orderly b s) (cfg : s.cfg = b.cfg)
    (after : Orderly (s.unseat i) t) (grows : Grows (s.unseat i) t) : NoticeHanded b t .tamper (some i) 1 := by
  have report : (s.tabletLeft i).latchExtraction i = (s.tabletLeft i).tamperReport i .extraction false :=
    latchExtraction_of_guards (by rw [tabletLeft_latch]; exact guards)
  have leaves : Orderly ((s.tabletLeft i).tamperReport i .extraction false) (s.unseat i) ∧
      Grows ((s.tabletLeft i).tamperReport i .extraction false) (s.unseat i) := by
    rw [← report, unseat_eq]
    exact ⟨Orderly.of_keeps (setCustody_keeps _ _ _) (by decide), setCustody_grows _ _ _⟩
  exact tamperReport_handed (cause := .extraction) (before.trans (tabletLeft_orderly i s))
    (Eq.trans (tabletLeft_keeps i s .cfg (by decide)) cfg) (leaves.1.trans after) (leaves.2.trans grows)

/-! ## The charge record through the end of the runs -/

theorem planExtraction_charge (off : s.IsOff i) : (s.planExtraction i).charge.get i = s.charge.get i := by
  have failed : ∀ u : State, (u.failQueued i).charge = u.charge := fun u => failQueued_keeps i u .charge (by decide)
  rw [planExtraction_eq, failed]
  cases head : (s.uncredited i).headRun i with
  | none => rw [finishHead_of_none _ _ head]; rfl
  | some r =>
    rw [finishHead_of_head _ _ head, endRun_keeps i _ _ _ .charge (by decide)]
    exact settled_off (s := (s.uncredited i).setPlan i { (s.uncredited i).plans.slots.get i with floor := 0 }) off

theorem planExtraction_lanes_state (l : LaneNo) :
    ((s.planExtraction i).lanes.table.get l).state = (s.lanes.table.get l).state := by
  rw [planExtraction_eq, failQueued_lanes]
  cases head : (s.uncredited i).headRun i with
  | none => rw [finishHead_of_none _ _ head]; rfl
  | some r => rw [finishHead_state _ _ head, laneTaken_keep, if_neg nofun]; rfl

theorem planExtraction_waitList :
    (s.planExtraction i).lanes.waitList.filter (fun w => w.1 ≠ i) = s.lanes.waitList.filter (fun w => w.1 ≠ i) := by
  rw [planExtraction_eq, failQueued_lanes]
  cases head : (s.uncredited i).headRun i with
  | none => rw [finishHead_of_none _ _ head]; rfl
  | some r =>
    rw [finishHead_waitList _ _ head, List.filter_filter]
    simp only [Bool.and_self]
    rfl

/-- A slot that is OFF takes the detach of its lane by its path alone (R20, R136). -/
theorem forceRelease_off (off : s.IsOff i) : (s.forceRelease i).charge.get i =
    { s.charge.get i with path := if (s.laneOf i).isSome then .cable else (s.charge.get i).path } := by
  unfold State.forceRelease
  cases lane : s.laneOf i with
  | none => rfl
  | some x =>
    obtain ⟨l, q⟩ := x
    exact laneDetached_off i (s.moveLane l (.scrubbing (momentAfter s.clock s.cfg.scrubTime))) off

end

/-! ## The whole event -/

section
variable (i : SlotNo) (s : State)

theorem unseat_isOff : (s.unseat i).IsOff i := by
  unfold State.IsOff
  rw [unseat_charge, tabletLeft_record]
  exact ⟨rfl, rfl⟩

/-- The runs have been answered; the lane is still to be given up. -/
def State.vacated (s : State) (i : SlotNo) : State := ((s.unseat i).planExtraction i).leaveWaitList i

theorem extract_vacated : s.extract i = (s.vacated i).forceRelease i := rfl

theorem forceRelease_waitList : (s.forceRelease i).lanes.waitList = s.lanes.waitList := laneSide_waitList i .force s

theorem forceRelease_state (l : LaneNo) : ((s.forceRelease i).lanes.table.get l).state =
    if s.laneTaken i .force = some l then .scrubbing (momentAfter s.clock s.cfg.scrubTime)
    else (s.lanes.table.get l).state := laneSide_state i .force s l

theorem leaveWaitList_charge : (s.leaveWaitList i).charge = s.charge := rfl
theorem leaveWaitList_states (l : LaneNo) : (s.leaveWaitList i).lanes.table.get l = s.lanes.table.get l := rfl
theorem leaveWaitList_slots : (s.leaveWaitList i).plans.slots = s.plans.slots := rfl
theorem leaveWaitList_table : (s.leaveWaitList i).plans.table = s.plans.table := rfl
theorem leaveWaitList_waitList : (s.leaveWaitList i).lanes.waitList = s.lanes.waitList.filter (fun w => w.1 ≠ i) := rfl

theorem vacated_keeps : Keeps [.runs, .lanes, .free, .charge, .share, .queue] (s.unseat i) (s.vacated i) :=
  ((planExtraction_keeps i _).mono (by decide)).trans ((leaveWaitList_keeps i _).mono (by decide))

theorem extract_keeps_vacated : Keeps [.lanes, .free, .charge, .share, .queue] (s.vacated i) (s.extract i) :=
  forceRelease_keeps i _

theorem vacated_record : (s.vacated i).charge.get i = { (s.charge.get i).extract with demand := {} } := by
  rw [State.vacated, leaveWaitList_charge, planExtraction_charge i _ (unseat_isOff i s), unseat_charge, tabletLeft_record]

theorem vacated_states (l : LaneNo) : ((s.vacated i).lanes.table.get l).state = (s.lanes.table.get l).state := by
  rw [State.vacated, leaveWaitList_states, planExtraction_lanes_state, unseat_lanes]

theorem extract_record : (s.extract i).charge.get i =
    { (s.charge.get i).extract with
      demand := {}, path := if (s.laneOf i).isSome then .cable else (s.charge.get i).path } := by
  have record := vacated_record i s
  have off : (s.vacated i).IsOff i := by unfold State.IsOff; rw [record]; exact ⟨rfl, rfl⟩
  rw [extract_vacated, forceRelease_off i _ off, record, laneOf_of_states (vacated_states i s)]
  rfl

theorem extract_waitList : (s.extract i).lanes.waitList = s.lanes.waitList.filter (fun w => w.1 ≠ i) := by
  rw [extract_vacated, forceRelease_waitList, State.vacated, leaveWaitList_waitList, planExtraction_waitList, unseat_lanes]

theorem laneTaken_force_iff (l : LaneNo) : s.laneTaken i .force = some l ↔ (s.laneOf i).any (fun x => decide (x.1 = l)) = true := by
  unfold State.laneTaken
  cases s.laneOf i with
  | none => simp
  | some x => simp

theorem extract_state (l : LaneNo) : ((s.extract i).lanes.table.get l).state =
    if (s.laneOf i).any (fun x => decide (x.1 = l)) then .scrubbing (s.clock + s.cfg.scrubTime * 250)
    else (s.lanes.table.get l).state := by
  have clock : (s.vacated i).clock = s.clock := Eq.trans (vacated_keeps i s .clock (by decide)) (unseat_keeps i s .clock (by decide))
  have cfg : (s.vacated i).cfg = s.cfg := Eq.trans (vacated_keeps i s .cfg (by decide)) (unseat_keeps i s .cfg (by decide))
  rw [extract_vacated, forceRelease_state, laneTaken_of_lanes (vacated_states i s), vacated_states, clock, cfg]
  exact if_congr (laneTaken_force_iff i s l) rfl rfl

theorem extract_plan (k : SlotNo) : (s.extract i).plans.slots.get k =
    if k = i then
      { s.plans.slots.get i with
        runs := [], progress := none, buildTag := none
        floor := if (s.headRun i).isSome then 0 else (s.plans.slots.get i).floor }
    else s.plans.slots.get k := by
  rw [(extract_keeps_vacated i s .runs (by decide)).1]
  rw [State.vacated, leaveWaitList_slots, planExtraction_slot, unseat_slots]
  unfold State.headRun
  rw [unseat_slots]

theorem extract_table : (s.extract i).plans.table =
    (s.plans.slots.get i).runs.foldl (fun table r => closeRun r.plan table) s.plans.table := by
  rw [(extract_keeps_vacated i s .runs (by decide)).2]
  rw [State.vacated, leaveWaitList_table, planExtraction_table, unseat_slots, unseat_table]

theorem failQueued_to_extract {u : State} (eq : (s.unseat i).planExtraction i = u) : Orderly u (s.extract i) ∧ Grows u (s.extract i) := by
  rw [extract_eq, eq]
  exact ⟨(Orderly.of_keeps (leaveWaitList_keeps i u) (by decide)).trans (forceRelease_orderly i _),
    (leaveWaitList_grows i u).trans (forceRelease_grows i _)⟩

/-- The head run is answered EXTRACTED at its step (R122). -/
theorem extract_handed_head {b : State} (before : Orderly b s) {r : Run} {p : PlanRecord} (head : s.headRun i = some r)
    (found : s.planOf r.plan = some p) : Handed (.result p.source r.plan (byteOf i.val) .extracted r.step) b (s.extract i) := by
  obtain ⟨orderly, grows⟩ := failQueued_to_extract i s rfl
  have sameHead : ((s.unseat i).uncredited i).headRun i = some r :=
    (uncredited_headRun i _).trans ((congrArg (fun v : Vector PlanSlot 6 => (v.get i).runs.head?) (unseat_slots i s)).trans head)
  have sameFound : ((s.unseat i).uncredited i).planOf r.plan = some p :=
    (congrArg (List.find? fun x : PlanRecord => x.id = r.plan) (unseat_table i s)).trans found
  have toward : Orderly b ((s.unseat i).uncredited i) :=
    ((before.trans (tabletLeft_orderly i s)).trans (unseat_orderly i s)).trans (Orderly.of_keeps (setPlan_keeps _ _ _) (by decide))
  exact finishHead_handed .extracted .keep sameHead sameFound toward
    ((failQueued_orderly i _).trans orderly) ((failQueued_grows i _).trans grows)

/-- The queued runs fail their first start check, one after another (R122). -/
theorem extract_handed_tail {b : State} (before : Orderly b s) (once : ((s.plans.slots.get i).runs.map (·.plan)).Nodup) :
    ∀ r ∈ (s.plans.slots.get i).runs.tail, ∀ p, s.planOf r.plan = some p →
      Handed (.result p.source r.plan (byteOf i.val) .noTablet 0) b (s.extract i) := by
  intro r member p found
  obtain ⟨orderly, grows⟩ := failQueued_to_extract i s rfl
  have runs : ((s.unseat i).uncredited i).plans.slots.get i =
      { s.plans.slots.get i with progress := none, buildTag := none } := by
    rw [State.uncredited, setPlan_slot, if_pos rfl, unseat_slots]
  obtain ⟨x, rest, queue⟩ : ∃ x rest, (s.plans.slots.get i).runs = x :: rest := by
    cases queue : (s.plans.slots.get i).runs with
    | nil => rw [queue] at member; cases member
    | cons x rest => exact ⟨x, rest, rfl⟩
  rw [queue] at member once
  obtain ⟨fresh, nodup⟩ := List.nodup_cons.mp once
  have differ : x.plan ≠ r.plan := fun same => fresh (List.mem_map.mpr ⟨r, member, same.symm⟩)
  have head : ((s.unseat i).uncredited i).headRun i = some x := by rw [State.headRun, runs, queue]; rfl
  generalize hv : ((s.unseat i).uncredited i).finishHead i .extracted .keep = v
  have left : (v.plans.slots.get i).runs = rest := by
    rw [← hv, finishHead_runs, if_pos rfl, runs, queue]; rfl
  have open_ : v.planOf r.plan = some p := by
    rw [State.planOf, ← hv, finishHead_table _ _ head, closeRun_find_other differ]
    exact (congrArg (List.find? fun x : PlanRecord => x.id = r.plan) (unseat_table i s)).trans found
  have toward : Orderly b v := by
    rw [← hv]
    exact (((before.trans (tabletLeft_orderly i s)).trans (unseat_orderly i s)).trans
      (Orderly.of_keeps (setPlan_keeps _ _ _) (by decide))).trans (finishHead_orderly _ _ _ _)
  have failed : (s.unseat i).planExtraction i =
      ((rest.foldl (fun u r => u.reportRun i r .noTablet 0) v).setPlan i { v.plans.slots.get i with runs := [] }) := by
    rw [planExtraction_eq, hv, State.failQueued, left]
  rw [failed] at orderly grows
  exact reportRuns_handed i .noTablet rest toward ((Orderly.of_keeps (setPlan_keeps _ _ _) (by decide)).trans orderly)
    ((setPlan_grows _ _ _).trans grows) nodup r member p open_

end

section
variable (i : SlotNo) (s : State)

theorem extract_monitor : (s.extract i).monitor = setAt s.monitor i (s.monitor.get i).clear := by
  have later : (s.extract i).monitor = (s.unseat i).monitor :=
    Eq.trans (extract_keeps_vacated i s .monitor (by decide)) (vacated_keeps i s .monitor (by decide))
  rw [later, unseat_monitor]

theorem extract_latch : (s.extract i).latch = (s.unseat i).latch :=
  Eq.trans (extract_keeps_vacated i s .latch (by decide)) (vacated_keeps i s .latch (by decide))

theorem extract_custody : (s.extract i).custody.slots = (s.unseat i).custody.slots :=
  Eq.trans (extract_keeps_vacated i s .custody (by decide)) (vacated_keeps i s .custody (by decide))

theorem unseat_to_extract : Orderly (s.unseat i) (s.extract i) ∧ Grows (s.unseat i) (s.extract i) := by
  obtain ⟨orderly, grows⟩ := failQueued_to_extract i s rfl
  exact ⟨(planExtraction_orderly i _).trans orderly, (planExtraction_grows i _).trans grows⟩

theorem extract_othersFollow : OthersFollow i s (s.extract i) := by
  intro k other
  have follows := (unseat_others i s other).2.2
  rw [extract_eq]
  exact (follows.trans (planExtraction_others i _ k)).trans (leave_others i _ k other)

end

/-- Settles O15: the records that the blocks hold once the tablet has gone, and the answers of its runs. -/
theorem extractionClearsSlot : Obligations.ExtractionClearsSlot := by
  intro i s u running leaving
  generalize hr : s.reach u = r
  have before : Keeps [.clock] s r := hr ▸ reach_keeps u s
  have toward : Orderly s r := Orderly.of_keeps before (by decide)
  have monitor : r.monitor = s.monitor := before .monitor (by decide)
  have latch : r.latch = s.latch := before .latch (by decide)
  have custody : r.custody.slots = s.custody.slots := before .custody (by decide)
  have charge : r.charge = s.charge := before .charge (by decide)
  have cfg : r.cfg = s.cfg := before .cfg (by decide)
  have slots : r.plans.slots = s.plans.slots := (before .runs (by decide)).1
  have table : r.plans.table = s.plans.table := (before .runs (by decide)).2
  have lanes : r.lanes = s.lanes := before .lanes (by decide)
  have lane : r.laneOf i = s.laneOf i := laneOf_of_lanes lanes i
  have frame := extract_keeps i r
  have clock : (r.extract i).clock = r.clock := frame .clock (by decide)
  have record := extract_record i r
  have plan := extract_plan i r i
  have states := extract_state i r
  have closes := extract_table i r
  have waits := extract_waitList i r
  have heads : r.headRun i = s.headRun i := congrArg (fun v : Vector PlanSlot 6 => (v.get i).runs.head?) slots
  have latched : (r.extract i).latch.get i = (s.latch.get i).onMovement .emptyOpen ((r.extract i).clock + s.cfg.emptyOpen * 1000 * 250) := by
    rw [extract_latch, unseat_latch, if_pos rfl, latch, cfg, clock]
  rw [lane, charge] at record
  rw [if_pos rfl, slots, heads] at plan
  rw [slots, table] at closes
  rw [lanes] at waits
  obtain ⟨orderly, grows⟩ := unseat_to_extract i r
  have exec_eq : exec (.extraction i) s = .next (r.extract i) := by
    show execExtraction i s = _
    exact whileRunning_next running (by simp only [leaving]; rw [hr])
  refine ⟨r.extract i, exec_eq, clock.trans (hr ▸ rfl), ?_, ?_, ?_, ?_, ?_, ?_, ?_, ?_, ?_, ?_, ?_, ?_, ?_, ?_, ?_, ?_, ?_, ?_, ?_, ?_,
    closes, ?_, waits, ?_, ?_, ?_, ?_, ?_, ?_, ?_, (before.mono (by decide)).trans (frame.mono (by decide))⟩
  · rw [extract_monitor, get_setAt_same, monitor]; rfl
  · rw [record]; rfl
  · rw [record]; rfl
  · rw [record]; rfl
  · rw [record]; rfl
  · rw [record]; rfl
  · rw [record]; rfl
  · rw [record]
  · rw [record]; rfl
  · rw [record]; rfl
  · rw [record]; rfl
  · rw [record]
  · rw [latched]
    cases state : (s.latch.get i).state <;> simp only [LatchSlot.onMovement, state]
  · rw [extract_custody, unseat_custody, if_pos rfl, latch, custody]
  · rw [plan]
  · rw [plan]
  · rw [plan]
  · intro x p head found
    have open_ : r.planOf x.plan = some p := by rw [State.planOf, table]; exact found
    refine ⟨?_, extract_handed_head i r toward (heads.trans head) open_⟩
    rw [plan, head]; rfl
  · intro empty
    have none : s.headRun i = Option.none := by rw [State.headRun, empty]; rfl
    rw [plan, none]; rfl
  · intro once x member p found
    have open_ : r.planOf x.plan = some p := by rw [State.planOf, table]; exact found
    exact extract_handed_tail i r toward (by rw [slots]; exact once) x (by rw [slots]; exact member) p open_
  · intro guards
    exact unseat_tamper i r (by rw [latch]; exact guards) toward cfg orderly grows
  · intro l
    rw [states, lane, lanes, clock, cfg]
  · have told : Grows (r.tabletGone i) (r.extract i) :=
      ((chargeEvent_grows _ _ _).trans (unseat_grows i r)).trans grows
    rw [← monitor]
    exact noticed_of .extracted (some i) _ (u := r.setMonitor i (r.monitor.get i).clear) cfg (hr ▸ rfl) told
  · rw [extract_monitor, monitor]; exact setAt_othersSame _ _ _
  · intro k other
    rw [extract_latch, unseat_latch, if_neg other, latch]
  · intro k other
    rw [extract_custody, unseat_custody, if_neg other, custody]
  · intro k other
    rw [extract_plan, if_neg other, slots]
  · rw [OthersFollow, ← charge]; exact extract_othersFollow i r

end Sys2Proof.Machine
end

section
/-! PROOF. Demands at rest (R28): a settling comes to its end within the model's bound (notes/assumptions/11.md), since a slot's demand
moves by an allocation only where a DEFERRED slot's held power is not what it would draw, and that once. -/

namespace Sys2Proof.Machine

/-! ## What an allocation can do to a demand -/

/-- A slot that charges has its output on (R29). -/
def ChargeSlot.Lit (c : ChargeSlot) : Prop := ∀ ph, c.phase = .charging ph → c.outputOn = true

/-- A DEFERRED slot whose held power is not what its means say it draws (R30). -/
def ChargeSlot.stale (m : MonitorSlot) (c : ChargeSlot) : Bool :=
  match c.phase with
  | .deferred _ => decide (c.heldPower ≠ c.working.value * m.amps / 250)
  | _ => false

/-- What a change of allocation keeps of the demand that a record calls for. -/
structure ChargeSlot.Turns (m : MonitorSlot) (c d : ChargeSlot) : Prop where
  lit : c.Lit → d.Lit
  fresh : c.Lit → d.stale m = true → c.stale m = true
  demand : c.Lit → d.stale m = c.stale m → ∀ cfg now due floor, slotDemand cfg now m due floor d = slotDemand cfg now m due floor c

theorem ChargeSlot.Turns.refl (m : MonitorSlot) (c : ChargeSlot) : c.Turns m c := ⟨id, fun _ => id, fun _ _ _ _ _ _ => rfl⟩

theorem ChargeSlot.Turns.trans {m : MonitorSlot} {c d e : ChargeSlot} (h : c.Turns m d) (k : d.Turns m e) : c.Turns m e where
  lit l := k.lit (h.lit l)
  fresh l s := h.fresh l (k.fresh (h.lit l) s)
  demand l same cfg now due floor := by
    have first := h.fresh l
    have second := k.fresh (h.lit l)
    have mid : d.stale m = c.stale m := by
      cases hd : d.stale m <;> cases hc : c.stale m <;> simp_all
    exact (k.demand (h.lit l) (same.trans mid.symm) cfg now due floor).trans (h.demand l mid cfg now due floor)

theorem phaseDemand_congr (cfg : Record) (now : Nat) (m : MonitorSlot) (due : Option Nat) (floor power : Nat) (ph : ChargePhase)
    {c d : ChargeSlot} (path : d.path = c.path) (working : d.working = c.working) :
    phaseDemand cfg now m due floor power d ph = phaseDemand cfg now m due floor power c ph := by
  unfold phaseDemand; rw [path, working]

theorem measuredPower_of_on {m : MonitorSlot} {c : ChargeSlot} (on : c.outputOn = true) :
    measuredPower m c = c.working.value * m.amps / 250 := by
  rw [measuredPower, ChargeSlot.outputVolts, if_pos on]

/-- Fields that neither the light nor the demand reads. -/
theorem turns_of_same {m : MonitorSlot} {c d : ChargeSlot} (phase : d.phase = c.phase) (path : d.path = c.path)
    (working : d.working = c.working) (output : d.outputOn = c.outputOn) (held : d.heldPower = c.heldPower) : c.Turns m d where
  lit l ph charges := by rw [output]; exact l ph (phase ▸ charges)
  fresh _ s := by unfold ChargeSlot.stale at *; rw [phase, held, working] at s; exact s
  demand _ _ cfg now due floor := by
    unfold slotDemand
    rw [phase]
    have power : measuredPower m d = measuredPower m c := by
      rw [measuredPower, measuredPower, ChargeSlot.outputVolts, ChargeSlot.outputVolts, output, working]
    cases c.phase with
    | charging ph => dsimp only; rw [phaseDemand_congr _ _ _ _ _ _ _ path working, power]
    | deferred back => dsimp only; rw [phaseDemand_congr _ _ _ _ _ _ _ path working, held]
    | _ => rfl

/-- A DEFERRED slot that charges again asks for the same, unless its held power was another than it draws (R30). -/
theorem enter_turns {cfg : Record} {m : MonitorSlot} {p : Nat} {back : ChargePhase} {c : ChargeSlot} (defers : c.phase = .deferred back)
    (reaches : phaseMinimum cfg back ≤ convert cfg m.cable c p) : c.Turns m (c.enter cfg m p back) := by
  have entered : c.enter cfg m p back =
      { c.noDwells with
        phase := .charging back, outputOn := true, setPoint := convert cfg m.cable c p, ready := c.ready || back != .bulk } := by
    rw [ChargeSlot.enter, if_pos reaches]
  rw [entered]
  refine ⟨fun _ _ _ => rfl, fun _ s => (by cases s), fun _ same cfg now due floor => ?_⟩
  have held : c.heldPower = c.working.value * m.amps / 250 := by
    have fresh : c.stale m = false := same.symm.trans rfl
    simpa [ChargeSlot.stale, defers] using fresh
  unfold slotDemand
  rw [defers]
  dsimp only
  rw [measuredPower_of_on rfl, held]
  exact phaseDemand_congr _ _ _ _ _ _ _ rfl rfl

/-- A slot that is DEFERRED holds the power that it drew (R30). -/
theorem defer_turns {m : MonitorSlot} {ph : ChargePhase} {c : ChargeSlot} (charges : c.phase = .charging ph) :
    c.Turns m { (c.turnOff m).noDwells with phase := .deferred ph } := by
  have held : ∀ on : c.outputOn = true, (c.turnOff m).heldPower = c.working.value * m.amps / 250 := fun on => by
    rw [ChargeSlot.turnOff, if_pos on, measuredPower_of_on on]
  refine ⟨fun _ _ => nofun, fun lit s => ?_, fun lit _ cfg now due floor => ?_⟩
  · have same := held (lit ph charges)
    unfold ChargeSlot.stale ChargeSlot.noDwells at s
    dsimp only at s
    rw [same] at s
    simp at s
    exact absurd rfl s
  · unfold slotDemand
    rw [charges]
    dsimp only
    rw [measuredPower_of_on (lit ph charges)]
    show phaseDemand cfg now m due floor (c.turnOff m).heldPower _ ph = _
    rw [held (lit ph charges)]
    exact phaseDemand_congr _ _ _ _ _ _ _ rfl rfl

theorem onAllocation_turns (cfg : Record) (now : Nat) (m : MonitorSlot) (p : Nat) (c : ChargeSlot) :
    c.Turns m (c.onAllocation cfg now m p) := by
  unfold ChargeSlot.onAllocation
  split
  · exact .refl m c
  next t detects =>
    have stays : ∀ d : ChargeSlot, (∃ u, d.phase = .detect u) → c.Turns m d := by
      rintro d ⟨u, phase⟩
      refine ⟨fun _ ph charges => absurd (phase.symm.trans charges) nofun, fun _ s => ?_, fun _ _ cfg now due floor => ?_⟩
      · unfold ChargeSlot.stale at s; rw [phase] at s; cases s
      · unfold slotDemand; rw [phase, detects]
    split
    · split
      · exact .refl m c
      · exact stays _ ⟨_, rfl⟩
    · split
      · exact stays _ ⟨_, rfl⟩
      · exact .refl m c
  next ph charges =>
    split
    · exact turns_of_same rfl rfl rfl rfl rfl
    · exact defer_turns charges
  next back defers =>
    split
    next reaches => exact enter_turns defers reaches
    next => exact .refl m c
  · exact .refl m c
  · exact .refl m c

/-! ## A round of demands -/

/-- Every record has turned by its allocations alone, and nothing but power has moved. -/
def State.Turned (s t : State) : Prop := Keeps powerParts s t ∧ ∀ k, (s.charge.get k).Turns (s.monitor.get k) (t.charge.get k)

theorem turned_settling (s : State) : Settling (State.Turned s) where
  hand k p u := by
    rintro ⟨keeps, turns⟩
    refine ⟨keeps.trans (handAllocation_keeps k p u), fun j => (turns j).trans ?_⟩
    have monitor : u.monitor = s.monitor := keeps .monitor (by decide)
    unfold handAllocation
    split
    · exact .refl _ _
    · by_cases mine : j = k
      · subst mine
        rw [updateCharge_same, ← monitor]
        exact onAllocation_turns _ _ _ _ _
      · rw [updateCharge_others k _ _ j mine]
        exact .refl _ _
  demands u := by
    rintro ⟨keeps, turns⟩
    refine ⟨keeps.trans (takeDemands_keeps u), fun j => (turns j).trans ?_⟩
    rw [takeDemands_record]
    exact turns_of_same rfl rfl rfl rfl rfl
  results u v keepsUV charge _ := by
    rintro ⟨keeps, turns⟩
    exact ⟨keeps.trans keepsUV, charge ▸ turns⟩

theorem State.Turned.refl (s : State) : s.Turned s := ⟨Keeps.refl _ _, fun _ => .refl _ _⟩

theorem demandRound_turned (s : State) : s.Turned s.demandRound := (turned_settling s).demandRound (.refl s)

theorem demandRound_demand (s : State) (k : SlotNo) : (s.demandRound.charge.get k).demand = s.demandNow k := by
  have taken : (s.takeDemands.charge.get k).demand = s.demandNow k := by rw [takeDemands_record]
  unfold State.demandRound
  dsimp only
  split
  · rw [distribute_demand, taken]
  · rw [computeOnce_demand, judgeEarlyNeed_charge]; exact taken

/-- The slots whose held power is not what they would draw. -/
def State.staleCount (s : State) : Nat := sumSix (fun k => if (s.charge.get k).stale (s.monitor.get k) then 1 else 0)

theorem sumSix_lt {f g : SlotNo → Nat} (le : ∀ k, g k ≤ f k) (differ : ¬ ∀ k, g k = f k) : sumSix g < sumSix f := by
  by_contra not_less
  have a := le 0; have b := le 1; have c := le 2; have d := le 3; have e := le 4; have x := le 5
  unfold sumSix at not_less
  exact differ (forSix (by omega) (by omega) (by omega) (by omega) (by omega) (by omega))

/-- Every slot that charges has its output on. -/
def State.Lit (s : State) : Prop := ∀ k, (s.charge.get k).Lit

theorem State.PowerRight.lit {s : State} (right : s.PowerRight) : s.Lit := by
  intro k ph charges
  have h := (right k).1
  rw [ChargeSlot.Right, charges] at h
  exact h.1

theorem demandsMoved_eq_false_iff {s : State} : s.demandsMoved = false ↔ ∀ k, (s.charge.get k).demand = s.demandNow k := by
  unfold State.demandsMoved
  rw [List.any_eq_false]
  constructor
  · intro h k
    simpa using h k (mem_allSlots k)
  · intro h k _
    simpa using h k

/-- A round that leaves a demand open has turned a slot whose held power was not what it draws. -/
theorem demandRound_fewer {s : State} (lit : s.Lit) (moved : s.demandRound.demandsMoved = true) :
    s.demandRound.staleCount < s.staleCount := by
  obtain ⟨keeps, turns⟩ := demandRound_turned s
  have monitor : s.demandRound.monitor = s.monitor := keeps .monitor (by decide)
  unfold State.staleCount
  rw [monitor]
  refine sumSix_lt (fun k => ?_) fun all => ?_
  · have fresh := (turns k).fresh (lit k)
    split
    next stale => rw [if_pos (fresh stale)]
    next => exact Nat.zero_le _
  · refine absurd moved (Bool.eq_false_iff.mp (demandsMoved_eq_false_iff.mpr fun k => ?_))
    have same : (s.demandRound.charge.get k).stale (s.monitor.get k) = (s.charge.get k).stale (s.monitor.get k) := by
      have h := all k
      cases new : (s.demandRound.charge.get k).stale (s.monitor.get k) <;>
        cases old : (s.charge.get k).stale (s.monitor.get k) <;> simp [new, old] at h ⊢
    have custody : s.demandRound.custody.slots = s.custody.slots := keeps .custody (by decide)
    have cfg : s.demandRound.cfg = s.cfg := keeps .cfg (by decide)
    have clock : s.demandRound.clock = s.clock := keeps .clock (by decide)
    rw [demandRound_demand, State.demandNow, State.demandNow, monitor, custody, cfg, clock, (keeps .runs (by decide)).1]
    exact ((turns k).demand (lit k) same _ _ _ _).symm

/-- A settling with more rounds than slots to turn comes to rest. -/
theorem settle_rests : ∀ (n : Nat) {s : State}, s.Lit → s.staleCount + 1 ≤ n → (settle n s).demandsMoved = false
  | 0, _, _, enough => absurd enough (by omega)
  | n + 1, s, lit, enough => by
    unfold settle
    split
    next moved =>
      have litNext : s.demandRound.Lit := fun k => ((demandRound_turned s).2 k).lit (lit k)
      cases again : s.demandRound.demandsMoved with
      | true =>
        have fewer := demandRound_fewer lit again
        exact settle_rests n litNext (by omega)
      | false =>
        have still : settle n s.demandRound = s.demandRound := by
          cases n with
          | zero => rfl
          | succ n => rw [settle, if_neg (by rw [again]; exact Bool.false_ne_true)]
        rw [still]; exact again
    next still => exact Bool.eq_false_iff.mpr still

theorem staleCount_le (s : State) : s.staleCount ≤ 6 := by
  have one : ∀ k, (if (s.charge.get k).stale (s.monitor.get k) then 1 else 0) ≤ 1 := fun k => by split <;> omega
  have a := one 0; have b := one 1; have c := one 2; have d := one 3; have e := one 4; have x := one 5
  unfold State.staleCount sumSix
  dsimp only
  omega

/-- A settling comes to rest (R28). -/
theorem settled_rests {s : State} (lit : s.Lit) : s.settled.demandsMoved = false :=
  settle_rests 8 lit (Nat.succ_le_of_lt ((Nat.lt_succ_of_le (staleCount_le s)).trans (by decide)))

theorem settled_lit {s : State} (lit : s.Lit) : s.settled.Lit :=
  fun k => (((turned_settling s).settled (.refl s)).2 k).lit (lit k)

theorem computeOnce_lit {s : State} (r : Bool) (lit : s.Lit) : (s.computeOnce r).Lit :=
  fun k => (((turned_settling s).computeOnce r (.refl s)).2 k).lit (lit k)

/-! ## The passing of a due mark -/

/-- A BULK slot with enough charge and no due mark ahead of it asks for nothing urgent (R24). -/
theorem slotDemand_urgent {cfg : Record} {now : Nat} {m : MonitorSlot} {due : Option Nat} {floor : Nat} {c : ChargeSlot}
    (bulk : c.phase = .charging .bulk) (enough : cfg.urgentCharge ≤ m.q) (past : ∀ u, due = some u → u ≤ now) :
    (slotDemand cfg now m due floor c).urgent = 0 := by
  have calm : isUrgent cfg now m due = false := by
    cases due with
    | none => simpa [isUrgent] using enough
    | some u => simpa [isUrgent] using ⟨enough, past u rfl⟩
  unfold slotDemand phaseDemand
  rw [bulk]
  simp only [calm, Bool.false_eq_true, if_false, Nat.zero_sub]

/-- Settles O21: a settling comes to rest, and at rest each demand is the one that the table gives. -/
theorem passedDueMarkCountsNoMore : Obligations.PassedDueMarkCountsNoMore := by
  intro i s u running mark counts
  let v : State := (s.reach u).setCustody i { s.custody.slots.get i with duePassed := true }
  have start : Keeps [.clock, .custody] s v :=
    ((reach_keeps u s).mono (by decide)).trans ((setCustody_keeps i _ _).mono (by decide))
  have acts : execDueUntilPasses i s = .next v.settled :=
    whileRunning_next running (by simp only [mark]; rw [if_neg (by rw [counts]; exact Bool.false_ne_true)]; rfl)
  have frame : Keeps powerParts v v.settled := settled_keeps v
  have clock : v.settled.clock = max s.clock u := settled_clock v
  have custody : v.settled.custody.slots = setAt s.custody.slots i { s.custody.slots.get i with duePassed := true } :=
    settled_custody v
  refine ⟨v.settled, acts, clock, by rw [custody, get_setAt_same], fun right => ?_, ⟨v, rfl, start⟩,
    fun k other => by rw [custody, get_setAt_ne _ _ _ _ other], fun k => ?_,
    (start.mono (by decide)).trans (frame.mono (by decide))⟩
  · have lit : v.Lit := right.lit
    have rests : v.settled.demandsMoved = false := settled_rests lit
    refine ⟨rests, fun bulk enough => ?_⟩
    rw [demandsMoved_eq_false_iff.mp rests i]
    have cfg : v.settled.cfg = s.cfg := settled_cfg v
    have monitor : v.settled.monitor = s.monitor := settled_monitor v
    refine slotDemand_urgent bulk (by rw [cfg, monitor]; exact enough) fun w due => ?_
    rw [custody, get_setAt_same] at due
    have same : w = u := Option.some.inj (due.symm.trans mark)
    rw [clock, same]
    exact Nat.le_max_right _ _
  · exact settled_follows v k

end Sys2Proof.Machine
end

section
/-! PROOF. The steps of a run and the end of one (R110, R113 to R125). -/

namespace Sys2Proof.Machine

/-! ## A lane that is taken from its slot (R136) -/

theorem onLane_path (cfg : Record) (now : Nat) (m : MonitorSlot) (path : Path) (v : Volts) (c : ChargeSlot) :
    (c.onLane cfg now m path v).path = path := by
  unfold ChargeSlot.onLane
  cases c.phase <;> rfl

section
variable (l : LaneNo) (i : SlotNo) (s : State)

theorem laneDetached_detached : Detached s (s.laneDetached i) i := by
  obtain ⟨d, record⟩ := laneEvent_record i .cable (s.detachVolts i) ({ s with free := s.free + 1 } : State)
  refine ⟨s.detachVolts i, fun w volts => by rw [State.detachVolts, volts], ?_⟩
  have eq : (s.laneDetached i).charge.get i =
      { (s.charge.get i).onLane s.cfg s.clock (s.monitor.get i) .cable (s.detachVolts i) with demand := d } := record
  rw [eq]
  exact onLane_restarts _ _ _ _ _ _ d

theorem laneDetached_path : ((s.laneDetached i).charge.get i).path = .cable := by
  obtain ⟨d, record⟩ := laneEvent_record i .cable (s.detachVolts i) ({ s with free := s.free + 1 } : State)
  have eq : (s.laneDetached i).charge.get i =
      { (s.charge.get i).onLane s.cfg s.clock (s.monitor.get i) .cable (s.detachVolts i) with demand := d } := record
  rw [eq]
  exact onLane_path _ _ _ _ _ _

theorem move_faults (now : Nat) (x : LaneState) (y : Lane) : (y.move now x).faults = y.faults := by
  cases x <;> rfl

theorem moveLane_faults (x : LaneState) (m : LaneNo) :
    ((s.moveLane l x).lanes.table.get m).faults = (s.lanes.table.get m).faults := by
  rw [moveLane_lane]
  split
  next same => rw [move_faults, same]
  next => rfl

theorem detachLane_detached : Detached s (s.detachLane l i) i :=
  laneDetached_detached i (s.moveLane l (.scrubbing (momentAfter s.clock s.cfg.scrubTime)))

theorem detachLane_parts : LaneParts s (s.detachLane l i) i (some l) where
  state m := by rw [detachLane_lanes, moveLane_state]; simp only [Option.some.injEq, eq_comm]
  faults m := by rw [detachLane_lanes, moveLane_faults]
  path _ := laneDetached_path i _
  kept := nofun
  others := detachLane_others l i s

end

section
variable (i : SlotNo) (side : LaneSide) (s : State)

theorem laneSide_parts : LaneParts s (s.laneSide i side) i (s.laneTaken i side) := by
  rw [laneSide_eq]
  cases s.laneTaken i side with
  | some l => exact detachLane_parts l i s
  | none => exact ⟨fun _ => by rw [if_neg nofun], fun _ => rfl, nofun, fun _ => .refl s, (AllFollow.refl s).others i⟩

theorem laneSide_detached (taken : (s.laneTaken i side).isSome = true) : Detached s (s.laneSide i side) i := by
  rw [laneSide_eq]
  cases lane : s.laneTaken i side with
  | some l => exact detachLane_detached l i s
  | none => rw [lane] at taken; cases taken

theorem releaseLane_parts : LaneParts s (s.releaseLane i) i (s.laneTaken i .release) := laneSide_parts i .release s

end

/-- A slot's lane is taken between events that move no lane and hand power alone. -/
theorem LaneParts.between {s a b t : State} {i : SlotNo} {lane : Option LaneNo} (parts : LaneParts a b i lane)
    (before : a.lanes.table = s.lanes.table) (clock : a.clock = s.clock) (cfg : a.cfg = s.cfg) (follows : AllFollow s a)
    (after : t.lanes = b.lanes) (charge : t.charge = b.charge) : LaneParts s t i lane where
  state l := by rw [after, parts.state, clock, cfg, before]
  faults l := by rw [after, parts.faults, before]
  path taken := by rw [charge]; exact parts.path taken
  kept untaken k := by rw [charge]; exact follows.trans (parts.kept untaken) k
  others k other := by rw [charge]; exact (follows k).trans (parts.others k other)

/-! ## The end of a head run (R110) -/

section
variable {i : SlotNo} {s : State} {r : Run}

theorem unfloored_keeps (i : SlotNo) (s : State) :
    Keeps [.runs, .lanes, .charge, .share, .queue] s ((s.setFloor i 0).leaveWaitList i) :=
  ((setFloor_keeps i 0 s).mono (by decide)).trans ((leaveWaitList_keeps i _).mono (by decide))

theorem setFloor_follows (i : SlotNo) (q : Nat) (s : State) : AllFollow s (s.setFloor i q) :=
  settled_follows (s.setPlan i { s.plans.slots.get i with floor := q })

theorem finishHead_parts (o : Answer) (side : LaneSide) (head : s.headRun i = some r) :
    LaneParts s (s.finishHead i o side) i (s.laneTaken i side) := by
  have states : ((s.setFloor i 0).leaveWaitList i).lanes.table = s.lanes.table :=
    show (s.setFloor i 0).lanes.table = s.lanes.table from congrArg Lanes.table (setFloor_lanes i 0 s)
  have taken : ((s.setFloor i 0).leaveWaitList i).laneTaken i side = s.laneTaken i side :=
    laneTaken_of_lanes unfloored_states i side
  rw [finishHead_of_head o side head, ← taken]
  refine (laneSide_parts i side _).between states (unfloored_keeps i s .clock (by decide)) (unfloored_keeps i s .cfg (by decide))
    ?_ (endRun_lanes _ _ _ _) (endRun_keeps i o r.step _ .charge (by decide))
  exact setFloor_follows i 0 s

theorem finishHead_tableWithout {p : PlanRecord} (o : Answer) (side : LaneSide) (head : s.headRun i = some r)
    (found : s.planOf r.plan = some p) : (s.finishHead i o side).plans.table = tableWithout p s.plans.table := by
  rw [finishHead_table o side head]
  exact closeRun_eq_tableWithout found

theorem setRun_slot (i : SlotNo) (y : Run) (s : State) (k : SlotNo) : (s.setRun i y).plans.slots.get k =
    if k = i then { s.plans.slots.get i with runs := y :: (s.plans.slots.get i).runs.tail } else s.plans.slots.get k :=
  get_setAt _ _ _ _

theorem setRun_own (i : SlotNo) (y : Run) (s : State) : (s.setRun i y).plans.slots.get i =
    { s.plans.slots.get i with runs := y :: (s.plans.slots.get i).runs.tail } := by rw [setRun_slot, if_pos rfl]

theorem setRun_othersSame (i : SlotNo) (y : Run) (s : State) : OthersSame i s.plans.slots (s.setRun i y).plans.slots :=
  fun k other => by rw [setRun_slot, if_neg other]

end

/-! ## The steps (R113, R114, R116 to R120) -/

section
variable {i : SlotNo} {s : State} {r : Run} {p : PlanRecord} {x : PlanStep} (head : s.headRun i = some r)
  (found : s.planOf r.plan = some p) (stands : p.steps[r.step - 1]? = some x)
include head found stands

theorem perform_nothing (kind : x.kind = .nothing) : s.workStep (.perform i) = (s, [.advance i]) := by
  simp only [State.workStep, State.performStep, head, found, stands, kind]

theorem perform_attach (kind : x.kind = .attach) : s.workStep (.perform i) = s.attachStep i r p := by
  simp only [State.workStep, State.performStep, head, found, stands, kind]

theorem perform_floor (kind : x.kind = .floor) :
    s.workStep (.perform i) = (s.setFloor i (s.floorStep i x.arg), [.advance i]) := by
  simp only [State.workStep, State.performStep, head, found, stands, kind]

theorem perform_await (kind : x.kind = .await) : s.workStep (.perform i) =
    (s.setRun i { r with
      state := s.waitState i r.usingLane (.goWait (if x.arg = 0 then none else some (x.arg * 1000 * 250))) }, []) := by
  simp only [State.workStep, State.performStep, head, found, stands, kind, bitsPerMs]

theorem perform_settle (kind : x.kind = .settle) : s.workStep (.perform i) =
    if x.arg = 0 then (s, [.advance i])
    else (s.setRun i { r with state := s.waitState i r.usingLane (.pause (x.arg * 10 * 250)) }, []) := by
  simp only [State.workStep, State.performStep, head, found, stands, kind, bitsPerMs]

theorem perform_detach (kind : x.kind = .detach) :
    s.workStep (.perform i) = ((s.releaseLane i).setRun i { r with usingLane := false }, [.advance i]) := by
  simp only [State.workStep, State.performStep, head, found, stands, kind]

theorem perform_mark (kind : x.kind = .mark) : s.workStep (.perform i) =
    (s.setPlan i { s.plans.slots.get i with buildTag := some p.tag, progress := none }, [.advance i]) := by
  simp only [State.workStep, State.performStep, head, found, stands, kind]

end

section
variable {i : SlotNo} {s : State}

/-- A run that uses its lane waits with its time held while the tablet is away (R118). -/
theorem waitState_away {usesLane : Bool} (held : HeldWait) (away : usesLane = true ∧ s.enumerated i = false) :
    s.waitState i usesLane held = .reenumWait held (s.clock + s.cfg.reenumGrace * 1000 * 250) := by
  unfold State.waitState
  rw [if_pos (by rw [away.1, away.2]; rfl), momentAfter_eq]

theorem waitState_go {usesLane : Bool} (left : Option Nat) (here : ¬ (usesLane = true ∧ s.enumerated i = false)) :
    s.waitState i usesLane (.goWait left) = .goWait (left.map (fun t => s.clock + t)) := by
  unfold State.waitState
  exact if_neg (by simpa using here)

theorem waitState_pause {usesLane : Bool} (left : Nat) (here : ¬ (usesLane = true ∧ s.enumerated i = false)) :
    s.waitState i usesLane (.pause left) = .pause (s.clock + left) := by
  unfold State.waitState
  exact if_neg (by simpa using here)

theorem releaseLane_slots (i : SlotNo) (s : State) : (s.releaseLane i).plans.slots = s.plans.slots :=
  (releaseLane_keeps i s .runs (by decide)).1

theorem askLane_keeps (s : State) (i : SlotNo) (r : Run) (pinned : Bool) : Keeps [.runs, .lanes] s (s.askLane i r pinned) :=
  ((setRun_keeps i { r with state := .laneWait } s).mono (by decide)).trans fun part kept => by
    cases part <;> simp_all [same, State.askLane]

/-- A step that is performed moves no other slot's plan (R113). -/
theorem perform_othersSame (i : SlotNo) (s : State) :
    OthersSame i s.plans.slots (s.workStep (.perform i)).1.plans.slots := by
  have piece := workStep_piece (.perform i) s
  generalize (s.workStep (.perform i)).1 = t at piece ⊢
  generalize (s.workStep (.perform i)).2 = more at piece
  intro k other
  cases piece with
  | none => rfl
  | skip => rfl
  | useLane _ r => exact setRun_othersSame i _ s k other
  | noLanes _ r head => rw [finishHead_slot _ _ head, if_neg other]
  | ask _ r pinned => exact setRun_othersSame i _ s k other
  | floor _ r q => rw [setFloor_slot, if_neg other]
  | stand _ r x => exact setRun_othersSame i _ s k other
  | detach _ r => rw [setRun_othersSame i _ _ k other, releaseLane_slots]
  | mark _ r p => rw [setPlan_slot, if_neg other]

end

/-- Settles O45: the pieces of work of one event come to an end, and each step is one equation of the model. -/
theorem stepsDoTheirWork : Obligations.StepsDoTheirWork := by
  refine ⟨fun s ws right few => work_ends right few, ?_⟩
  intro i s r p x head found stands t more slot run away grace
  have acts : ∀ {v : State} {w : List Work}, s.workStep (.perform i) = (v, w) → more = w ∧ t = v := fun eq =>
    ⟨congrArg Prod.snd eq, congrArg Prod.fst eq⟩
  refine ⟨fun kind => acts (perform_nothing head found stands kind), fun kind => ?attach, fun kind => ?floor, fun kind => ?await,
    fun kind arg => ?settleNone, fun kind arg => ?settle, fun kind => ?detach, fun kind => ?mark, perform_othersSame i s⟩
  case attach =>
    have step := perform_attach head found stands kind
    rw [State.attachStep] at step
    refine ⟨fun lane => ?_, fun free none => ?_, fun free some => ?_⟩
    · rw [if_pos lane] at step
      obtain ⟨goes, eq⟩ := acts step
      exact ⟨goes, by rw [eq]; exact setRun_own i _ s, by rw [eq]; exact setRun_keeps i _ s⟩
    · rw [if_neg (by rw [free]; exact Bool.false_ne_true), if_pos none] at step
      exact acts step
    · rw [if_neg (by rw [free]; exact Bool.false_ne_true), if_neg some] at step
      obtain ⟨goes, eq⟩ := acts step
      rw [eq]
      exact ⟨goes, setRun_own i _ s, rfl, rfl, askLane_keeps s i r p.pinned⟩
  case floor =>
    obtain ⟨goes, eq⟩ := acts (perform_floor head found stands kind)
    rw [eq]
    refine ⟨goes, ?_, setFloor_follows i _ s, (setFloor_keeps i _ s).mono (by decide)⟩
    rw [setFloor_slot, if_pos rfl]
    rfl
  case await =>
    obtain ⟨goes, eq⟩ := acts (perform_await head found stands kind)
    rw [eq]
    refine ⟨goes, setRun_keeps i _ s, fun gone => ?_, fun here => ?_⟩
    · rw [setRun_own, waitState_away _ gone]
    · rw [setRun_own, waitState_go _ here]
      by_cases arg : x.arg = 0
      · simp only [if_pos arg]; rfl
      · simp only [if_neg arg]; rfl
  case settleNone =>
    have step := perform_settle head found stands kind
    rw [if_pos arg] at step
    exact acts step
  case settle =>
    have step := perform_settle head found stands kind
    rw [if_neg arg] at step
    obtain ⟨goes, eq⟩ := acts step
    rw [eq]
    refine ⟨goes, fun gone => ?_, fun here => ?_, setRun_keeps i _ s⟩
    · rw [setRun_own, waitState_away _ gone]
    · rw [setRun_own, waitState_pause _ here]
  case detach =>
    obtain ⟨goes, eq⟩ := acts (perform_detach head found stands kind)
    rw [eq]
    refine ⟨goes, by rw [setRun_own, releaseLane_slots], ?_, fun taken => laneSide_detached i .release s taken,
      laneSide_waitList i .release s, ((releaseLane_keeps i s).mono (by decide)).trans ((setRun_keeps i _ _).mono (by decide))⟩
    exact (releaseLane_parts i s).between rfl rfl rfl (.refl s) rfl rfl
  case mark =>
    obtain ⟨goes, eq⟩ := acts (perform_mark head found stands kind)
    rw [eq]
    exact ⟨goes, by rw [setPlan_slot, if_pos rfl], setPlan_keeps i _ s⟩

/-! ## The run timers -/

section
variable {i : SlotNo} {s : State} {r : Run} {p : PlanRecord} (head : s.headRun i = some r) (found : s.planOf r.plan = some p)
include head found

theorem advance_next (more : r.step < p.steps.length) :
    s.workStep (.advance i) = (s.setRun i { r with step := r.step + 1 }, [.perform i]) := by
  simp only [State.workStep, State.advanceRun, head, found, if_pos more]

theorem advance_done (last : p.steps.length ≤ r.step) :
    s.workStep (.advance i) = (s.finishHead i .done .release, [.start i]) := by
  simp only [State.workStep, State.advanceRun, head, found, if_neg (Nat.not_lt.mpr last)]

end

/-- Settles O46: each timer is one row of the model, and the end of a run is that of its floor, its lane and its record. -/
theorem runTimersEndTheirRuns : Obligations.RunTimersEndTheirRuns := by
  constructor
  · intro i s u running late
    refine ⟨fun waits => ?_, fun waits => ?_, fun held waits => ?_, fun waits => ?_⟩
    · show execEnumerationTimeout i s = _
      exact whileRunning_next running (by simp only [waits]; rfl)
    · show execAwaitTimeout i s = _
      exact whileRunning_next running (by simp only [waits]; rfl)
    · show execReenumGraceExpiry i s = _
      exact whileRunning_next running (by simp only [waits]; rfl)
    · show execPauseExpiry i s = _
      exact whileRunning_next running (by simp only [waits]; rfl)
  · intro i s o side r p head found t
    refine ⟨?_, fun k other => ?_, finishHead_tableWithout o side head found,
      finishHead_handed o side head found (.refl s) (.refl _) (.refl _), finishHead_waitList o side head,
      finishHead_parts o side head, (finishHead_keeps i o side s).mono (by decide), fun more => ?_, fun last => ?_⟩
    · rw [finishHead_slot o side head, if_pos rfl]
    · rw [finishHead_slot o side head, if_neg other]
    · rw [advance_next head found more]
      exact ⟨rfl, setRun_own i _ s, setRun_othersSame i _ s, setRun_keeps i _ s⟩
    · exact advance_done head found last

end Sys2Proof.Machine
end

section
/-! PROOF. A frame that the station takes, the counts of the line (R155) and the answer to a QUERY (R154, R158). -/

namespace Sys2Proof.Machine

/-! ## A frame that the station takes (R145 to R147) -/

theorem exec_frame {c : Instr} {cls : Nat} {src : Source} {p : List Byte} (carries : frameOf c = some (cls, src, p)) (s : State) :
    exec c s = whileRunning s (State.takeFrame cls src p) := by
  cases c <;> simp only [frameOf, reduceCtorEq, Option.some.injEq, Prod.mk.injEq] at carries <;>
    obtain ⟨rfl, rfl, rfl⟩ := carries <;> rfl

theorem exec_taken {c : Instr} {cls : Nat} {src : Source} {p : List Byte} {s : State} (carries : frameOf c = some (cls, src, p))
    (running : s.mode = .running) (receives : s.line.phase.receives = true) (short : p.length ≤ 40)
    (formed : malformed cls p = false) : exec c s = .next ((s.watched src).consume cls src p) := by
  rw [exec_running running (exec_frame carries s), takeFrame_eq_consume src receives short formed]

/-- What the consumer of a frame can move. -/
def consumeParts : List Part :=
  [.charge, .standing, .peers, .ceilings, .reserve, .share, .latch, .requests, .claimList, .custody, .permits, .runs,
    .required, .lanes, .queue, .free]

theorem consume_keeps_errors (cls : Nat) (src : Source) (p : List Byte) (s : State) :
    Keeps consumeParts s (s.consume cls src p) := by
  unfold State.consume
  split
  · exact (takeClaim_keeps _ _).mono (by decide)
  · exact (takeCeiling_keeps _ _ _).mono (by decide)
  · exact (takeClass2_keeps _ _ _).mono (by decide)
  · exact (takePermit_keeps _ _ _).mono (by decide)
  · exact (takeClass5_keeps _ _ _).mono (by decide)
  · exact (takeQuery_keeps _ _ _).mono (by decide)
  · exact .refl _ _

theorem watched_errors (src : Source) (s : State) : (s.watched src).line.errors = s.line.errors :=
  watched_keeps src s .errors (by decide)

/-- An abandoned or malformed frame raises the line error count, a good one does not (R155). -/
theorem takeFrame_errors {cls : Nat} {p : List Byte} {s : State} (src : Source) (receives : s.line.phase.receives = true) :
    (s.takeFrame cls src p).line.errors =
      if 40 < p.length ∨ malformed cls p = true then min (s.line.errors + 1) 65535 else s.line.errors := by
  by_cases long : 40 < p.length
  · rw [State.takeFrame, if_neg (by simp [receives]), if_pos long, if_pos (.inl long)]
    rfl
  · by_cases bad : malformed cls p = true
    · rw [State.takeFrame, if_neg (by simp [receives]), if_neg long, if_pos bad, if_pos (.inr bad)]
      show bump (s.watched src).line.errors = _
      rw [watched_errors]
      rfl
    · rw [takeFrame_eq_consume src receives (by omega) (by simpa using bad), if_neg (by simp [long, bad])]
      have kept : ((s.watched src).consume cls src p).line.errors = (s.watched src).line.errors :=
        consume_keeps_errors cls src p _ .errors (by decide)
      rw [kept, watched_errors]

/-! ## The lost-frame count (R148, R151, R155) -/

/-- A CLAIM always finds a place (R148). -/
theorem lineHand_claim_lost {f : TxFrame} (claim : f.isClaim = true) (l : Line) : (l.hand f).lost = l.lost := by
  rw [Line.hand, if_neg (by rw [claim]; exact Bool.false_ne_true)]; rfl

theorem handClaim_lost (s : State) : s.handClaim.line.lost = s.line.lost := by
  unfold State.handClaim
  split
  · split
    · rfl
    · exact lineHand_claim_lost rfl _
  · rfl

theorem claimGone_lost (toFront : Bool) (f : TxFrame) (s : State) : (s.claimGone toFront f).line.lost = s.line.lost := by
  cases f <;> try rfl
  case claim tag op slot amount duration =>
    have ended : (s.endOwnClaim toFront tag op slot).line.lost = s.line.lost :=
      (endOwnClaim_keeps toFront tag op slot s .queue (by decide)).2.2
    exact ((handClaim_lost _).trans (handClaim_lost _)).trans ended

theorem backToWaiting_lost (e : TxEntry) (s : State) : (s.backToWaiting e).line.lost = s.line.lost := by
  unfold State.backToWaiting
  split
  · exact claimGone_lost false e.frame _
  · rfl

theorem breakAttempt_lost (e : TxEntry) (s : State) : (s.breakAttempt e).line.lost =
    if 7 ≤ e.failed then min (s.line.lost + 1) 65535 else s.line.lost := by
  unfold State.breakAttempt
  by_cases last : 7 ≤ e.failed
  · rw [if_pos (show failedLimit ≤ e.failed + 1 from Nat.succ_le_succ last), if_pos last, claimGone_lost]
    rfl
  · rw [if_neg (fun many : failedLimit ≤ e.failed + 1 => last (Nat.le_of_succ_le_succ many)), if_neg last, backToWaiting_lost]
    rfl

theorem disownClaim_lost (i : SlotNo) (s : State) : (s.disownClaim i).line.lost = s.line.lost := by
  unfold State.disownClaim
  split
  · rfl
  · split <;> rfl

/-! ## Bytes of a payload (R158) -/

theorem byteOf_toNat (v : Nat) : (byteOf v).toNat = v % 256 := BitVec.toNat_ofNat v 8

theorem byteAt_of {p : List Byte} {k v : Nat} (stands : p.getD k 0 = byteOf v) : byteAt p k = v % 256 := by
  rw [byteAt, stands, byteOf_toNat]

theorem byteAt_code {p : List Byte} {k v : Nat} (stands : p.getD k 0 = byteOf v) (small : v < 256) : byteAt p k = v := by
  rw [byteAt_of stands, Nat.mod_eq_of_lt small]

theorem wordAt_of {p : List Byte} {k v : Nat} (high : p.getD k 0 = byteOf (v / 256)) (low : p.getD (k + 1) 0 = byteOf v) :
    wordAt p k = v % 65536 := by
  rw [wordAt, byteAt_of high, byteAt_of low]; omega

theorem wordAt_id {p : List Byte} {k : Nat} {id : PlanId} (high : p.getD k 0 = byteOf (id.toNat / 256))
    (low : p.getD (k + 1) 0 = byteOf id.toNat) : wordAt p k = id.toNat := by
  have range := id.isLt
  rw [wordAt_of high low]; omega

theorem longAt_tag {p : List Byte} {k : Nat} {tag : BuildTag} (a : p.getD k 0 = byteOf (tag.toNat / 65536 / 256))
    (b : p.getD (k + 1) 0 = byteOf (tag.toNat / 65536)) (c : p.getD (k + 2) 0 = byteOf (tag.toNat / 256))
    (d : p.getD (k + 3) 0 = byteOf tag.toNat) : longAt p k = tag.toNat := by
  have range := tag.isLt
  rw [longAt, wordAt_of a b, wordAt_of c d]; omega

theorem yesNo_small (b : Bool) : yesNo b < 256 := by cases b <;> decide

theorem shareCode_small (x : ShareState) : shareCode x < 256 := by cases x <;> decide

theorem presenceCode_small (x : Presence) : presenceCode x < 256 := by cases x <;> simp [presenceCode]

theorem cableCode_small (x : CableClass) : cableCode x < 256 := by cases x <;> decide

theorem phaseCode_small (x : Phase) : phaseCode x < 256 := by
  cases x with
  | charging ph => cases ph <;> decide
  | _ => simp [phaseCode]

theorem latchCode_small (x : LatchState) : latchCode x < 256 := by cases x <;> simp [latchCode]

theorem holdCode_small (x : Option Hold) : holdCode x < 256 := by
  cases x with
  | none => decide
  | some h =>
    have reason : reasonCode h.reason ≤ 2 := by cases h.reason <;> decide
    show h.level % 4 + 16 * reasonCode h.reason < 256
    omega

/-- The lane byte of a configured lane by its state, of another lane 0. -/
theorem laneCode_eq (p : Prop) [Decidable p] (x : LaneState) : laneCode (decide p) x =
    if p then
      (match x with
        | .dormant => 1
        | .waking _ => 2
        | .ready _ => 3
        | .attached _ _ => 4
        | .scrubbing _ => 5
        | .faulted _ => 6
        | .retired => 7)
    else 0 := by
  by_cases h : p
  · rw [decide_eq_true h, if_pos h]; cases x <;> rfl
  · rw [decide_eq_false h, if_neg h]; cases x <;> rfl

theorem laneCode_small (configured : Bool) (x : LaneState) : laneCode configured x < 256 := by
  cases configured <;> cases x <;> simp [laneCode]

section
variable (src : Source) (s : State)

theorem stationStatus_errors : wordAt (s.stationStatus src) 21 = s.line.errors % 65536 := wordAt_of rfl rfl

theorem stationStatus_lost : wordAt (s.stationStatus src) 23 = s.line.lost % 65536 := wordAt_of rfl rfl

end

/-! ## The counts (R155) -/

/-- A command of the Start-up Loader leaves counts at 0, or leaves them. -/
theorem exec_loader_counts {c : Instr} {s t : State} (loader : isLoaderCommand c = true) (h : exec c s = .next t) :
    (t.line.errors = 0 ∧ t.line.lost = 0 ∧
      (c = .powerOn ∨ (∃ low, c = .pinReset low ∧ 10 ≤ low) ∨ s.mode ≠ .running)) ∨
    (t.line = s.line ∧ (t.mode ≠ .running → s.mode ≠ .running)) := by
  have starts : ∀ (r : Record) (d : Bool) (v : State), (d = true → r = {}) → s.mode ≠ .running →
      ((v.startBlocks r d).line.errors = 0 ∧ (v.startBlocks r d).line.lost = 0 ∧
        (c = .powerOn ∨ (∃ low, c = .pinReset low ∧ 10 ≤ low) ∨ s.mode ≠ .running)) := fun r d v hd waits =>
    ⟨(startBlocks_started r d v hd).1.line.1, (startBlocks_started r d v hd).1.line.2.1, .inr (.inr waits)⟩
  rcases loader_cases c loader with rfl | ⟨low, rfl⟩ | ⟨x, y, z, rfl⟩ | ⟨how, rfl⟩ | ⟨b, rfl⟩ <;> cases h
  · exact .inl ⟨rfl, rfl, .inl rfl⟩
  · split
    next => exact .inr ⟨rfl, id⟩
    next long => exact .inl ⟨rfl, rfl, .inr (.inl ⟨low, rfl, Nat.le_of_not_lt long⟩)⟩
  · split
    next held => exact .inr ⟨rfl, fun _ => by rw [held]; nofun⟩
    next => exact .inr ⟨rfl, id⟩
  · split
    next loading => exact .inl (starts _ _ _ (fun _ => rfl) (by rw [loading]; nofun))
    next loading _ => exact .inl (starts _ _ _ (fun _ => rfl) (by rw [loading]; nofun))
    next => exact .inr ⟨rfl, id⟩
  · split
    next loading =>
      unfold State.endReset
      split
      · exact .inl (starts _ _ _ nofun (by rw [loading]; nofun))
      · exact .inl (starts _ _ _ (fun _ => rfl) (by rw [loading]; nofun))
    next => exact .inr ⟨rfl, id⟩

/-- Settles O55: no operation lowers a count, and the Start-up Loader alone sets them. -/
theorem lineCountsRiseAndStay : Obligations.LineCountsRiseAndStay := by
  intro s within startsAtZero
  refine ⟨fun c t h => ?_, fun low long => ⟨s.clearBlocks, rfl, ?_, rfl, rfl⟩, fun running => ⟨fun receives => ?_,
    fun receives => ?_, fun c cls src p receives carries => ?_, fun e u read sends sent => ?_⟩, fun f general => ⟨fun full => ?_,
    fun free => ?_⟩, ⟨rfl, fun i => disownClaim_lost i s⟩, fun src => ⟨?_, ?_⟩⟩
  · cases loader : isLoaderCommand c with
    | true =>
      rcases exec_loader_counts loader h with ⟨errors, lost, why⟩ | ⟨line, waits⟩
      · refine ⟨⟨errors ▸ Nat.zero_le _, lost ▸ Nat.zero_le _⟩, fun starts => ⟨fun _ => ⟨errors, lost⟩, fun other short => ?_⟩⟩
        rcases why with rfl | ⟨low, rfl, long⟩ | waits
        · exact absurd rfl other
        · exact absurd (short low rfl) (Nat.not_lt.mpr long)
        · obtain ⟨noErrors, noLost⟩ := starts waits
          exact ⟨noErrors ▸ Nat.zero_le _, noLost ▸ Nat.zero_le _⟩
      · refine ⟨by unfold State.CountsWithin; rw [line]; exact within, fun starts => ⟨fun still => ?_, fun _ _ => ?_⟩⟩
        · rw [line]; exact starts (waits still)
        · rw [line]; exact ⟨le_refl _, le_refl _⟩
    | false =>
      by_cases running : s.mode = .running
      · obtain ⟨u, act⟩ := exec_actsAt loader running h
        have mode : t.mode = s.mode := exec_keeps c s t loader h .mode (by decide)
        obtain ⟨after, errors, lost⟩ := act.steady.counts within
        exact ⟨after, fun _ => ⟨fun waits => absurd (mode.trans running) waits, fun _ _ => ⟨errors, lost⟩⟩⟩
      · have waits := (nonloader_waits c s loader running).symm.trans h
        cases waits
        exact ⟨within, fun starts => ⟨starts, fun _ _ => ⟨le_refl _, le_refl _⟩⟩⟩
  · show execPinReset low s = _
    rw [execPinReset, if_neg (show ¬ low < pinResetMicros from Nat.not_lt.mpr long)]
  · exact ⟨s.abandonFrame, whileRunning_next running (if_pos receives), rfl, rfl⟩
  · exact ⟨s.setLine s.line.countError.frameEnds, whileRunning_next running (if_pos receives), rfl, rfl⟩
  · exact ⟨s.takeFrame cls src p, exec_running running (exec_frame carries s), takeFrame_errors src receives⟩
  · refine ⟨s.breakAttempt e, ?_, breakAttempt_keeps e s .errors (by decide), breakAttempt_lost e s⟩
    show execBitError s = _
    exact whileRunning_next running (by simp only [sends, sent])
  · rw [Line.hand, if_pos (by simpa [general, show generalPlaces = 10 from rfl] using full)]
    exact ⟨rfl, rfl⟩
  · rw [Line.hand, if_neg (by simpa [general, show generalPlaces = 10 from rfl] using free)]
    rfl
  · rw [stationStatus_errors, Nat.mod_eq_of_lt (show _ < 65535 + 1 from Nat.lt_succ_of_le within.1)]
  · rw [stationStatus_lost, Nat.mod_eq_of_lt (show _ < 65535 + 1 from Nat.lt_succ_of_le within.2)]

/-! ## QUERY (R154) -/

theorem malformed_query {p : List Byte} (len : p.length = 3) : malformed 6 p = false := by simp [malformed, len]

theorem answer_handed (b : List Byte) (s : State) : Handed (.status b) s (s.answer b) := handed_of_line rfl

theorem slotOfByte_none {b : Nat} (above : 5 < b) : slotOfByte b = none := dif_neg (by omega)

theorem slotOfByte_some {b : Nat} {i : SlotNo} (eq : b = i.val) : slotOfByte b = some i := by
  subst eq; exact dif_pos i.isLt

section
variable {src : Source} {s : State} {p : List Byte}

theorem takeQuery_elsewhere (other : byteAt p 0 ≠ s.address.val) : s.takeQuery src p = s := if_pos other

theorem takeQuery_unknown (subject : 1 < byteAt p 1) : s.takeQuery src p = s := by
  unfold State.takeQuery
  split
  · rfl
  · rw [if_neg (by omega), if_neg (by omega)]

theorem takeQuery_station (mine : byteAt p 0 = s.address.val) (subject : byteAt p 1 = 0) :
    s.takeQuery src p = s.answer (s.stationStatus src) := by
  rw [State.takeQuery, if_neg (not_not.mpr mine), if_pos subject]

theorem takeQuery_slot (mine : byteAt p 0 = s.address.val) (subject : byteAt p 1 = 1) {i : SlotNo} (named : byteAt p 2 = i.val) :
    s.takeQuery src p = s.answer (s.slotStatus src i) := by
  rw [State.takeQuery, if_neg (not_not.mpr mine), if_neg (by omega), if_pos subject, slotOfByte_some named]

theorem takeQuery_noSlot (mine : byteAt p 0 = s.address.val) (subject : byteAt p 1 = 1) (above : 5 < byteAt p 2) :
    s.takeQuery src p = s := by
  rw [State.takeQuery, if_neg (not_not.mpr mine), if_neg (by omega), if_pos subject, slotOfByte_none above]

end

theorem source_small (src : Source) : src.val < 256 := src.isLt.trans (by decide)

theorem slot_small (i : SlotNo) : i.val < 256 := i.isLt.trans (by decide)

/-- The lane bytes of STATUS, STATION (R158). -/
theorem stationStatus_lane (src : Source) (s : State) (l : LaneNo) : byteAt (s.stationStatus src) (17 + l.val) =
    laneCode (s.configured l) (s.lanes.table.get l).state := by
  refine byteAt_code ?_ (laneCode_small _ _)
  match l with
  | ⟨0, _⟩ => rfl
  | ⟨1, _⟩ => rfl
  | ⟨2, _⟩ => rfl
  | ⟨3, _⟩ => rfl

theorem stationStatus_length (src : Source) (s : State) : (s.stationStatus src).length = 31 := rfl

theorem slotStatus_length (src : Source) (i : SlotNo) (s : State) : (s.slotStatus src i).length = 26 := rfl

theorem slotStatus_lane (src : Source) (i : SlotNo) (s : State) :
    byteAt (s.slotStatus src i) 21 = slotLaneCode (s.laneOf i) := by
  refine byteAt_code rfl ?_
  cases s.laneOf i with
  | none => decide
  | some x =>
    obtain ⟨l, pinned⟩ := x
    have lane := l.isLt
    have pin : yesNo pinned ≤ 1 := by cases pinned <;> decide
    show l.val + 16 * yesNo pinned < 256
    omega

/-- The fields of STATUS, STATION up to the own sums (R158). -/
theorem stationStatus_head (src : Source) (s : State) :
    byteAt (s.stationStatus src) 0 = src.val ∧ byteAt (s.stationStatus src) 1 = 0 ∧
    byteAt (s.stationStatus src) 2 = shareCode s.share.state ∧ wordAt (s.stationStatus src) 3 = s.share.alloc % 65536 ∧
    wordAt (s.stationStatus src) 5 = s.share.target % 65536 ∧ wordAt (s.stationStatus src) 7 = s.ceff % 65536 ∧
    wordAt (s.stationStatus src) 9 = s.share.reserve % 65536 ∧ wordAt (s.stationStatus src) 11 = s.share.own.floor % 65536 ∧
    wordAt (s.stationStatus src) 13 = s.share.own.urgent % 65536 ∧
    wordAt (s.stationStatus src) 15 = s.share.own.normal % 65536 := by
  simp only [State.stationStatus, wordOf, List.cons_append, List.nil_append]
  refine ⟨byteAt_code ?_ (source_small src), byteAt_code ?_ (by decide), byteAt_code ?_ (shareCode_small _), wordAt_of ?_ ?_,
    wordAt_of ?_ ?_, wordAt_of ?_ ?_, wordAt_of ?_ ?_, wordAt_of ?_ ?_, wordAt_of ?_ ?_, wordAt_of ?_ ?_⟩ <;> simp

/-- The fields of STATUS, STATION after the lanes. -/
theorem stationStatus_tail (src : Source) (s : State) :
    byteAt (s.stationStatus src) 25 = yesNo s.plans.required.isSome ∧ byteAt (s.stationStatus src) 30 = yesNo s.defaulted ∧
    ∀ tag, s.plans.required = some tag → longAt (s.stationStatus src) 26 = tag.toNat := by
  simp only [State.stationStatus, wordOf, longOf, allLanes, List.map_cons, List.map_nil, List.cons_append, List.nil_append]
  refine ⟨byteAt_code ?_ (yesNo_small _), byteAt_code ?_ (yesNo_small _), fun tag held => ?_⟩
  · simp
  · simp
  · have field : s.tagField 0 s.plans.required = tag.toNat := by rw [held]; rfl
    rw [field]
    refine longAt_tag ?_ ?_ ?_ ?_ <;> simp

/-- Settles O56: each field of the answer stands at its place in the payload. -/
theorem queriesAreAnswered : Obligations.QueriesAreAnswered := by
  intro s src p running receives len w
  have station : exec (.queryStation src p) s = .next (w.takeQuery src p) :=
    exec_taken rfl running receives (by omega) (malformed_query len)
  have slot : exec (.querySlot src p) s = .next (w.takeQuery src p) :=
    exec_taken rfl running receives (by omega) (malformed_query len)
  have watch : Keeps (.linePhase :: watchParts) s w := watched_keeps src s
  have address : w.address = s.address := watch .address (by decide)
  have custody : w.custody.slots = s.custody.slots := watch .custody (by decide)
  have latch : w.latch = s.latch := watch .latch (by decide)
  have monitor : w.monitor = s.monitor := watch .monitor (by decide)
  have lanes : w.lanes = s.lanes := watch .lanes (by decide)
  have cfg : w.cfg = s.cfg := watch .cfg (by decide)
  have runs : w.plans.slots = s.plans.slots := (watch .runs (by decide)).1
  have required : w.plans.required = s.plans.required := watch .required (by decide)
  have defaulted : w.defaulted = s.defaulted := watch .defaulted (by decide)
  have errors : w.line.errors = s.line.errors := watched_errors src s
  clear_value w
  refine ⟨fun other => ?_, fun unknown => ?_, fun mine subject => ?_, fun mine subject => ⟨fun above => ?_, fun i named => ?_⟩⟩
  · rw [station, slot, takeQuery_elsewhere (address ▸ other)]
    exact ⟨rfl, rfl⟩
  · rw [slot, takeQuery_unknown unknown]
  · have answers : w.takeQuery src p = w.answer (w.stationStatus src) := takeQuery_station (address ▸ mine) subject
    have keeps : Keeps [.free, .queue] w (w.answer (w.stationStatus src)) := answers ▸ takeQuery_keeps src p w
    obtain ⟨src0, subject1, share2, alloc3, target5, ceff7, reserve9, floor11, urgent13, normal15⟩ := stationStatus_head src w
    obtain ⟨present, default, tagged⟩ := stationStatus_tail src w
    refine ⟨w.answer (w.stationStatus src), w.stationStatus src, by rw [station, answers], answer_handed _ w, stationStatus_length src w,
      src0, subject1, share2, alloc3, target5, ceff7, reserve9, floor11, urgent13, normal15, fun l => ?_, ?_,
      stationStatus_lost src w, fun none => ?_, fun tag some => ⟨?_, ?_⟩, ?_, keeps⟩
    · rw [stationStatus_lane, lanes, State.configured, cfg]
      exact laneCode_eq _ _
    · rw [stationStatus_errors, errors]
    · rw [present, required, none]; rfl
    · rw [present, required, some]; rfl
    · exact tagged tag (required.trans some)
    · rw [default, defaulted]; rfl
  · rw [slot, takeQuery_noSlot (address ▸ mine) subject above]
  · have answers : w.takeQuery src p = w.answer (w.slotStatus src i) := takeQuery_slot (address ▸ mine) subject named
    have keeps : Keeps [.free, .queue] w (w.answer (w.slotStatus src i)) := answers ▸ takeQuery_keeps src p w
    have head : w.headRun i = s.headRun i := by rw [State.headRun, runs]; rfl
    have attached : w.laneOf i = s.laneOf i := laneOf_of_lanes lanes i
    refine ⟨w.answer (w.slotStatus src i), w.slotStatus src i, by rw [slot, answers], answer_handed _ w, slotStatus_length src i w,
      byteAt_code rfl (source_small src), byteAt_code rfl (by decide), byteAt_code rfl (slot_small i), ?_, ?_,
      byteAt_code rfl (phaseCode_small _), wordAt_of rfl rfl, ?_, byteAt_code rfl (yesNo_small _), ?_, ?_, fun none => ?_,
      fun id some => ⟨?_, ?_⟩, fun none => ?_, fun tag some => ⟨?_, ?_⟩, fun none => ?_, fun l pinned some => ?_, fun none => ?_,
      fun r some => ⟨?_, ?_, ?_⟩, keeps⟩
    · rw [← monitor]; exact byteAt_code rfl (presenceCode_small _)
    · rw [← monitor]; exact byteAt_code rfl (cableCode_small _)
    · rw [← monitor]; exact wordAt_of rfl rfl
    · rw [← latch]; exact byteAt_code rfl (latchCode_small _)
    · rw [← custody]; exact byteAt_code rfl (holdCode_small _)
    · rw [byteAt_code (v := yesNo (w.plans.slots.get i).progress.isSome) rfl (yesNo_small _), runs, none]; rfl
    · rw [byteAt_code (v := yesNo (w.plans.slots.get i).progress.isSome) rfl (yesNo_small _), runs, some]; rfl
    · have field : w.idField 1 (w.plans.slots.get i).progress = id.toNat := by rw [runs, some]; rfl
      exact wordAt_id (by rw [← field]; rfl) (by rw [← field]; rfl)
    · rw [byteAt_code (v := yesNo (w.plans.slots.get i).buildTag.isSome) rfl (yesNo_small _), runs, none]; rfl
    · rw [byteAt_code (v := yesNo (w.plans.slots.get i).buildTag.isSome) rfl (yesNo_small _), runs, some]; rfl
    · have field : w.tagField 2 (w.plans.slots.get i).buildTag = tag.toNat := by rw [runs, some]; rfl
      exact longAt_tag (by rw [← field]; rfl) (by rw [← field]; rfl) (by rw [← field]; rfl) (by rw [← field]; rfl)
    · rw [slotStatus_lane, attached, none]; rfl
    · rw [slotStatus_lane, attached, some]
      cases pinned <;> rfl
    · rw [byteAt_code (v := yesNo (w.headRun i).isSome) rfl (yesNo_small _), head, none]; rfl
    · rw [byteAt_code (v := yesNo (w.headRun i).isSome) rfl (yesNo_small _), head, some]; rfl
    · have field : w.idField 3 ((w.headRun i).map Run.plan) = r.plan.toNat := by rw [head, some]; rfl
      exact wordAt_id (by rw [← field]; rfl) (by rw [← field]; rfl)
    · have field : (w.slotStatus src i).getD 25 0 = (match w.headRun i with
          | Option.some r => byteOf r.step
          | Option.none => (Config.freeWord w.free 4).setWidth 8) := rfl
      rw [head, some] at field
      exact byteAt_of field

end Sys2Proof.Machine
end

section
/-! PROOF. One computation of the Share Unit: its totals, its tiers and the division over the slots (R54, R57 to R64), and the
sum of the targets of stations that hold the same totals (R60). -/

namespace Sys2Proof.Machine

/-! ## Tiers over a list of demands (R60) -/

section
variable {α : Type}

theorem sum_div_le (f : α → Nat) (b c : Nat) (l : List α) : (l.map fun x => f x * b / c).sum ≤ (l.map f).sum * b / c := by
  induction l with
  | nil => simp
  | cons x xs ih =>
    rw [List.map_cons, List.sum_cons, List.map_cons, List.sum_cons, Nat.add_mul]
    exact (Nat.add_le_add_left ih _).trans Nat.div_add_div_le_add_div

/-- Grants in proportion to what is asked never pay more than the tier has (R60). -/
theorem sum_proportion_le (f : α → Nat) (b : Nat) (l : List α) : (l.map fun x => f x * b / (l.map f).sum).sum ≤ b := by
  refine (sum_div_le f b _ l).trans ?_
  rcases Nat.eq_zero_or_pos (l.map f).sum with none | some
  · rw [none, Nat.div_zero]; exact Nat.zero_le b
  · rw [Nat.mul_div_cancel_left b some]

theorem sum_tierGrant_le (f : α → Nat) (left : Nat) (l : List α) :
    (l.map fun x => tierGrant (f x) (l.map f).sum left).sum ≤ min (l.map f).sum left := by
  unfold tierGrant
  by_cases enough : (l.map f).sum ≤ left
  · simp only [if_pos enough]; exact le_min (le_refl _) enough
  · simp only [if_neg enough]
    exact le_min ((sum_proportion_le f left l).trans (Nat.le_of_not_le enough)) (sum_proportion_le f left l)

end

/-- The uncapped target of an own demand against the cart's totals and budget (R60). -/
def tierTarget (total : Demand) (a : Nat) (own : Demand) : Nat :=
  if a ≤ total.floor then own.floor * a / total.floor
  else own.floor + tierGrant own.urgent total.urgent (a - total.floor) +
    tierGrant own.normal total.normal (a - total.floor - total.urgent)

theorem uncappedTarget_eq (s : State) : s.uncappedTarget = tierTarget s.totals s.available s.share.own := rfl

theorem plus_fold (ds : List Demand) (d : Demand) : ds.foldl Demand.plus d =
    { floor := d.floor + (ds.map (·.floor)).sum, urgent := d.urgent + (ds.map (·.urgent)).sum
      normal := d.normal + (ds.map (·.normal)).sum } := by
  induction ds generalizing d with
  | nil => rfl
  | cons x xs ih =>
    rw [List.foldl_cons, ih]
    simp only [Demand.plus, List.map_cons, List.sum_cons, Nat.add_assoc]

/-- The targets of all demands together stay within the budget: the floors and the upper tiers each pay what is left (R60). -/
theorem sum_tierTarget_le (ds : List Demand) (a : Nat) : (ds.map (tierTarget (ds.foldl Demand.plus {}) a)).sum ≤ a := by
  have total : ds.foldl Demand.plus {} =
      { floor := (ds.map (·.floor)).sum, urgent := (ds.map (·.urgent)).sum, normal := (ds.map (·.normal)).sum } := by
    rw [plus_fold]; simp only [Nat.zero_add]
  rw [total]
  by_cases short : a ≤ (ds.map (·.floor)).sum
  · have tier : tierTarget { floor := (ds.map (·.floor)).sum, urgent := (ds.map (·.urgent)).sum
                             normal := (ds.map (·.normal)).sum } a =
        fun d => d.floor * a / (ds.map (·.floor)).sum := funext fun d => if_pos short
    rw [tier]
    exact sum_proportion_le (·.floor) a ds
  · have tier : tierTarget { floor := (ds.map (·.floor)).sum, urgent := (ds.map (·.urgent)).sum
                             normal := (ds.map (·.normal)).sum } a =
        fun d => d.floor + tierGrant d.urgent (ds.map (·.urgent)).sum (a - (ds.map (·.floor)).sum) +
          tierGrant d.normal (ds.map (·.normal)).sum (a - (ds.map (·.floor)).sum - (ds.map (·.urgent)).sum) :=
      funext fun d => if_neg short
    rw [tier, List.sum_map_add, List.sum_map_add]
    have urgent := sum_tierGrant_le (·.urgent) (a - (ds.map (·.floor)).sum) ds
    have floors : (ds.map Demand.floor).sum = (ds.map (·.floor)).sum := rfl
    have normal := sum_tierGrant_le (·.normal) (a - (ds.map (·.floor)).sum - (ds.map (·.urgent)).sum) ds
    omega

/-- Settles O24: every station divides the same budget by the same totals, so that the targets are the tiers' grants. -/
theorem cartTargetsWithinBudget : Obligations.CartTargetsWithinBudget := by
  intro ss a agree
  have targets : ss.map State.uncappedTarget =
      (ss.map (fun x => x.share.own)).map (tierTarget ((ss.map (fun x => x.share.own)).foldl Demand.plus {}) a) := by
    rw [List.map_map]
    refine List.map_congr_left fun s held => ?_
    obtain ⟨available, totals⟩ := agree s held
    rw [uncappedTarget_eq, available, totals]
    rfl
  rw [targets]
  exact sum_tierTarget_le _ a

/-! ## The totals (R54, R59) -/

theorem allStations_eq : allStations = List.finRange 8 := by decide

theorem counted_eq (iso : Nat) (p : Peer) : p.counted iso =
    { floor := if p.live = true ∧ p.reported ≠ .clashed then p.demand.floor else iso
      urgent := if p.live = true ∧ p.reported ≠ .clashed then p.demand.urgent else 0
      normal := if p.live = true ∧ p.reported ≠ .clashed then p.demand.normal else 0 } := by
  unfold Peer.counted
  split <;> rfl

/-- What the peer entries add in one tier. -/
def overPeers (peers : Vector (Option Peer) 8) (heard : Demand → Nat) (unheard : Nat) (stations : List Station) : Nat :=
  (stations.map (fun x =>
    match peers.get x with
    | none => 0
    | some p => if p.live = true ∧ p.reported ≠ .clashed then heard p.demand else unheard)).sum

theorem totals_fold (peers : Vector (Option Peer) 8) (iso : Nat) (stations : List Station) (d : Demand) :
    stations.foldl (fun sum a =>
      match peers.get a with
      | none => sum
      | some p => sum.plus (p.counted iso)) d =
    { floor := d.floor + overPeers peers (·.floor) iso stations
      urgent := d.urgent + overPeers peers (·.urgent) 0 stations
      normal := d.normal + overPeers peers (·.normal) 0 stations } := by
  induction stations generalizing d with
  | nil => rfl
  | cons a rest ih =>
    rw [List.foldl_cons, ih]
    unfold overPeers
    rw [List.map_cons, List.sum_cons, List.map_cons, List.sum_cons, List.map_cons, List.sum_cons]
    cases peers.get a with
    | none => simp only [Nat.zero_add]
    | some p => simp only [counted_eq, Demand.plus, Nat.add_assoc]

theorem totals_eq (s : State) : s.totals =
    { floor := s.share.own.floor + overPeers s.share.peers (·.floor) s.isoAllowance (List.finRange 8)
      urgent := s.share.own.urgent + overPeers s.share.peers (·.urgent) 0 (List.finRange 8)
      normal := s.share.own.normal + overPeers s.share.peers (·.normal) 0 (List.finRange 8) } := by
  rw [← allStations_eq]
  exact totals_fold s.share.peers s.isoAllowance allStations s.share.own

/-- C_eff is the one bound of the cart ceiling and the records that is one of them (R57). -/
theorem ceff_eq {s : State} {c : Nat} (one : c = s.cfg.cartCeiling ∨ ∃ r ∈ s.share.ceilings, r.ceiling = c)
    (cart : c ≤ s.cfg.cartCeiling) (records : ∀ r ∈ s.share.ceilings, c ≤ r.ceiling) : s.ceff = c := by
  refine le_antisymm ?_ (le_ceff_iff.mpr ⟨cart, records⟩)
  rcases one with rfl | ⟨r, held, rfl⟩
  · exact (le_ceff_iff.mp le_rfl).1
  · exact ceff_le_of_mem held

/-! ## The division over the slots (R63, R64) -/

/-- The answer of a record to a share that has changed, phase by phase (R21, R29, R30). -/
theorem onAllocation_answers (cfg : Record) (now : Nat) (m : MonitorSlot) (p : Nat) (c : ChargeSlot) :
    c.Answers cfg now m p (c.onAllocation cfg now m p) := by
  have dark : c.turnOff m = { c with
      outputOn := false, setPoint := 0, heldPower := if c.outputOn then c.working.value * m.amps / 250 else c.heldPower } := by
    cases on : c.outputOn <;> simp [ChargeSlot.turnOff, measuredPower, ChargeSlot.outputVolts, on]
  unfold ChargeSlot.Answers ChargeSlot.onAllocation
  cases c.phase with
  | off => rfl
  | detect u =>
    dsimp only
    rw [dark, momentAfter_eq]
    rfl
  | charging ph =>
    dsimp only
    rw [dark]
    exact ⟨fun enough => if_pos enough, fun short => if_neg short⟩
  | deferred back =>
    dsimp only
    refine ⟨fun enough => ?_, fun short => if_neg short⟩
    rw [if_pos enough, ChargeSlot.enter, if_pos enough]
    cases back <;> rfl
  | restart _ _ _ => rfl
  | faulted _ _ => rfl

section
variable (f : SlotNo → Nat)

/-- The shares are handed to these slots in turn. -/
def handShares (ks : List SlotNo) (s : State) : State := forSlots ks (fun k t => handAllocation k (f k) t) s

theorem handShares_keeps (ks : List SlotNo) (s : State) : Keeps powerParts s (handShares f ks s) :=
  keeps_forSlots _ (fun _ _ => handAllocation_keeps _ _ _) ks s

theorem handShares_orderly (ks : List SlotNo) (s : State) : Orderly s (handShares f ks s) :=
  orderly_forSlots _ (fun _ _ => handAllocation_orderly _ _ _) ks s

theorem handShares_grows (ks : List SlotNo) (s : State) : Grows s (handShares f ks s) :=
  grows_forSlots _ (fun _ _ => handAllocation_grows _ _ _) ks s

theorem handAllocation_other {k j : SlotNo} (other : j ≠ k) (p : Nat) (s : State) :
    (handAllocation k p s).charge.get j = s.charge.get j ∧
      (handAllocation k p s).share.slotAlloc.get j = s.share.slotAlloc.get j := by
  constructor
  · unfold handAllocation
    split
    · rfl
    · exact updateCharge_others k _ _ j other
  · rw [handAllocation_share]; exact get_setAt_ne _ _ _ _ other

theorem handShares_untouched (ks : List SlotNo) {k : SlotNo} (absent : k ∉ ks) (s : State) :
    (handShares f ks s).charge.get k = s.charge.get k ∧
      (handShares f ks s).share.slotAlloc.get k = s.share.slotAlloc.get k := by
  induction ks generalizing s with
  | nil => exact ⟨rfl, rfl⟩
  | cons x xs ih =>
    obtain ⟨other, later⟩ : k ≠ x ∧ k ∉ xs := by simpa using absent
    obtain ⟨charge, alloc⟩ := ih later (handAllocation x (f x) s)
    obtain ⟨charge', alloc'⟩ := handAllocation_other other (f x) s
    exact ⟨charge.trans charge', alloc.trans alloc'⟩

/-- The shares of six slots are handed to the slots before k, to k and to those after it. -/
theorem handShares_at (k : SlotNo) (s : State) : ∃ before after : List SlotNo, k ∉ before ∧ k ∉ after ∧
    handShares f allSlots s = handShares f after (handAllocation k (f k) (handShares f before s)) := by
  have nodup : allSlots.Nodup := by decide
  obtain ⟨before, after, split⟩ := List.append_of_mem (mem_allSlots k)
  rw [split] at nodup
  have once := List.nodup_append.mp nodup
  refine ⟨before, after, fun held => once.2.2 k held k List.mem_cons_self rfl, (List.nodup_cons.mp once.2.1).1, ?_⟩
  rw [handShares, split, forSlots, List.foldl_append, List.foldl_cons]
  rfl

end

theorem handAllocation_record (k : SlotNo) (p : Nat) (s : State) : (handAllocation k p s).charge.get k =
    if s.share.slotAlloc.get k = p then s.charge.get k
    else (s.charge.get k).onAllocation s.cfg s.clock (s.monitor.get k) p := by
  unfold handAllocation
  split
  · rfl
  · exact updateCharge_same k _ _

/-- A slot whose share makes it charge-ready reports it (R37). -/
theorem handAllocation_noticed {k : SlotNo} {p : Nat} {b s t : State} (before : Orderly b s) (cfg : s.cfg = b.cfg)
    (unready : (s.charge.get k).ready = false) (ready : ((handAllocation k p s).charge.get k).ready = true)
    (after : Orderly (handAllocation k p s) t) (grows : Grows (handAllocation k p s) t) :
    NoticeHanded b t .ready (some k) (s.monitor.get k).q := by
  rw [handAllocation_record] at ready
  split at ready
  next => rw [unready] at ready; cases ready
  next moved =>
    let u : State := ({ s with share := { s.share with slotAlloc := setAt s.share.slotAlloc k p } } : State).setCharge k
      ((s.charge.get k).onAllocation s.cfg s.clock (s.monitor.get k) p)
    have eq : handAllocation k p s = u.notice .ready (some k) (s.monitor.get k).q := by
      unfold handAllocation
      rw [if_neg moved, State.updateCharge]
      simp only [unready, ready]
      rfl
    rw [eq] at after grows
    have same : Orderly s u := orderly_of_lengths rfl (le_refl _) (le_refl _)
    exact noticeHanded_of (before.trans same) (show u.cfg = b.cfg from cfg) after grows

/-- The station allocation is divided over the demands that stood before it moved. -/
theorem distribute_divided {b s : State} (frame : Keeps [.share, .queue] b s) (held : s.share.slotAlloc = b.share.slotAlloc)
    (before : Orderly b s) : Divided b s.distribute := by
  let share := slotShare s.share.alloc (fun k => (s.charge.get k).demand)
  have eq : s.distribute = handShares share allSlots s := rfl
  have same : s.charge = b.charge := frame .charge (by decide)
  have sameCfg : s.cfg = b.cfg := frame .cfg (by decide)
  have sameClock : s.clock = b.clock := frame .clock (by decide)
  have sameMonitor : s.monitor = b.monitor := frame .monitor (by decide)
  have alloc : ∀ k, s.distribute.share.slotAlloc.get k = share k := fun k => by rw [distribute_share]; exact sixOf_get _ k
  have total : s.distribute.share.alloc = s.share.alloc := by rw [distribute_share]
  have record : ∀ k, s.distribute.charge.get k =
      if b.share.slotAlloc.get k = share k then b.charge.get k
      else (b.charge.get k).onAllocation b.cfg b.clock (b.monitor.get k) (share k) := by
    intro k
    obtain ⟨pre, post, absent, later, at_⟩ := handShares_at share k s
    obtain ⟨charge, unhanded⟩ := handShares_untouched share pre absent s
    have keeps := handShares_keeps share pre s
    have cfg : (handShares share pre s).cfg = b.cfg := Eq.trans (keeps .cfg (by decide)) sameCfg
    have clock : (handShares share pre s).clock = b.clock := Eq.trans (keeps .clock (by decide)) sameClock
    have monitor : (handShares share pre s).monitor = b.monitor := Eq.trans (keeps .monitor (by decide)) sameMonitor
    rw [eq, at_, (handShares_untouched share post later _).1, handAllocation_record, charge, unhanded, cfg, clock, monitor, same,
      held]
  constructor
  · intro k
    rw [alloc, total, ← same]
    simp only [share, slotShare, tierGrant]
  · intro k kept
    rw [record, if_pos (kept.symm.trans (alloc k))]
  · intro k moved
    rw [record, if_neg (fun kept => moved ((alloc k).trans kept.symm)), alloc]
    exact onAllocation_answers _ _ _ _ _
  · intro k unready ready
    obtain ⟨pre, post, absent, later, at_⟩ := handShares_at share k s
    have keeps := handShares_keeps share pre s
    have monitor : (handShares share pre s).monitor = b.monitor := Eq.trans (keeps .monitor (by decide)) sameMonitor
    have cfg : (handShares share pre s).cfg = b.cfg := Eq.trans (keeps .cfg (by decide)) sameCfg
    rw [eq, at_] at ready ⊢
    rw [(handShares_untouched share post later _).1] at ready
    rw [← monitor]
    exact handAllocation_noticed (before.trans (handShares_orderly share pre s)) cfg
      (by rw [(handShares_untouched share pre absent s).1, same]; exact unready) ready (handShares_orderly share post _)
      (handShares_grows share post _)

/-! ## One computation (R58 to R64) -/

/-- The part of a computation before the division: the flag, the target and the ramp. -/
def State.ramped (s : State) (atReport : Bool) : State :=
  { s.judgeFloorShort with share := { s.judgeFloorShort.share with
      target := s.judgeFloorShort.cappedTarget
      alloc := rampTo atReport s.judgeFloorShort.cfg.rampStep s.judgeFloorShort.cappedTarget s.judgeFloorShort.share.alloc } }

theorem computeOnce_eq (atReport : Bool) (s : State) : s.computeOnce atReport = (s.ramped atReport).distribute := rfl

theorem judgeFloorShort_leaves (s : State) : Keeps [.share, .queue] s s.judgeFloorShort := by
  have flag : ∀ b, Keeps [.share, .queue] s { s with share := { s.share with floorShort := b } } := fun b part kept => by
    cases part <;> simp_all [same]
  unfold State.judgeFloorShort
  exact Keeps.ite (Keeps.ite (Keeps.refl _ _) ((flag true).trans ((notice_keeps _ _ _ _).mono (by decide)))) (flag false)

theorem ramped_leaves (atReport : Bool) (s : State) : Keeps [.share, .queue] s (s.ramped atReport) :=
  (judgeFloorShort_leaves s).trans fun part kept => by cases part <;> simp_all [same, State.ramped]

theorem ramped_slotAlloc (atReport : Bool) (s : State) : (s.ramped atReport).share.slotAlloc = s.share.slotAlloc :=
  show s.judgeFloorShort.share.slotAlloc = s.share.slotAlloc by rw [judgeFloorShort_share_eq]

theorem ramped_orderly (atReport : Bool) (s : State) : Orderly s (s.ramped atReport) :=
  (judgeFloorShort_orderly s).trans (orderly_of_lengths rfl (le_refl _) (le_refl _))

theorem computeOnce_divided (atReport : Bool) (s : State) : Divided s (s.computeOnce atReport) :=
  distribute_divided (ramped_leaves atReport s) (ramped_slotAlloc atReport s) (ramped_orderly atReport s)

/-- A floor tier that falls short is reported once (R59). -/
theorem computeOnce_noticed (atReport : Bool) {s : State} (clear : s.share.floorShort = false)
    (short : s.available ≤ s.totals.floor) : Noticed s (s.computeOnce atReport) .floorShort none s.available := by
  have judged : s.judgeFloorShort =
      ({ s with share := { s.share with floorShort := true } } : State).notice .floorShort none s.available := by
    rw [State.judgeFloorShort, if_pos (show s.isFloorShort = true from decide_eq_true short), if_neg (by rw [clear]; exact Bool.false_ne_true)]
  have later : Grows s.judgeFloorShort (s.computeOnce atReport) := by
    rw [computeOnce_eq]
    exact Grows.trans (t := s.ramped atReport) (fun _ held _ _ => held) (distribute_grows _)
  rw [judged] at later
  exact noticed_of .floorShort none _ (u := { s with share := { s.share with floorShort := true } }) rfl rfl later

/-- Settles O23: the fold over the peer table is a sum, and the division hands each slot its share once. -/
theorem computationFollowsTiers : Obligations.ComputationFollowsTiers := by
  intro atReport s ceff one cart records t own iso a overAll tF tU tN uncapped target
  have effective : s.ceff = ceff := ceff_eq one cart records
  have allowance : s.isoAllowance = iso := by rw [State.isoAllowance, effective]
  have budget : s.available = a := by rw [State.available, effective]
  have totals : s.totals = ⟨tF, tU, tN⟩ := by rw [totals_eq, allowance]; rfl
  have free : s.uncappedTarget = uncapped := by rw [uncappedTarget_eq, totals, budget]; rfl
  have capped : s.cappedTarget = target := by
    cases state : s.share.state <;> simp only [State.cappedTarget, target, state, free, allowance]
  have share := computeOnce_share atReport s
  refine ⟨effective, allowance, budget, totals, capped, ?_, fun clear short => ?_, ?_, ?_, computeOnce_divided atReport s,
    computeOnce_follows atReport s, ?_, computeOnce_keeps atReport s⟩
  · rw [share, budget, totals]
  · have noticed := computeOnce_noticed atReport clear (s := s) (by rw [budget, totals]; exact short)
    rw [budget] at noticed
    exact noticed
  · rw [share]; exact capped
  · rw [share, capped]; rfl
  · rw [share]

end Sys2Proof.Machine
end

section
/-! PROOF. The events that are due (notes/assumptions/1.md): a command can come out of one list alone. The sampling of the inputs
(R3, R4, R12, R14, R131) and the indicators (R167, R168). -/

namespace Sys2Proof.Machine

/-! ## The list a due command comes from -/

/-- The place of the one list of due events that can hold a command; 14 where none can. -/
def dueGroup : Instr → Nat
  | .claimExpiry => 0
  | .lineIdle => 1
  | .transmitAttempt => 1
  | .transmitComplete => 1
  | .arbitrationLost => 1
  | .bitError => 1
  | .frameAbandoned => 1
  | .crcError => 1
  | .filteredPresentChange _ _ => 2
  | .filteredBoltSenseChange _ _ => 2
  | .enumeratedChange _ _ => 3
  | .laneFault _ => 3
  | .faultLineReleased _ => 3
  | .insertion _ _ => 4
  | .extraction _ => 4
  | .measurementPublication _ _ _ => 4
  | .integrationPeriodEnd _ _ => 4
  | .overCurrentCheck _ => 5
  | .detectTimerExpiry _ => 5
  | .taperDwell _ => 5
  | .toppedDwell _ => 5
  | .taperToBulkDwell _ => 5
  | .toppedToBulkDwell _ => 5
  | .restartHoldExpiry _ => 5
  | .retryWaitExpiry _ => 5
  | .claimWaitTimeout _ => 6
  | .withdrawPulseEnd _ => 6
  | .openTimerExpiry _ => 6
  | .throwPulseEnd _ => 6
  | .dueUntilPasses _ => 7
  | .wakeTimerExpiry => 8
  | .idleTimerExpiry _ => 9
  | .scrubTimerExpiry _ => 9
  | .faultClearExpiry _ => 9
  | .enumerationTimeout _ => 10
  | .awaitTimeout _ => 10
  | .pauseExpiry _ => 10
  | .reenumGraceExpiry _ => 10
  | .reportTimerExpiry => 11
  | .earlyNeedSpacing => 11
  | .silenceTimerExpiry => 11
  | .peerAging _ => 11
  | .ceilingRecordExpiry _ => 11
  | .stationRestart => 12
  | .lampBlinkTick => 13
  | c => if (frameOf c).isSome then 1 else 14

/-- The lists of due events in their fixed order. -/
def State.dueList (s : State) : Nat → List Instr
  | 0 => due s.clock s.nextClaimExpiry .claimExpiry
  | 1 => s.lineDue
  | 2 => allSlots.flatMap (fun i => filterDue s.cfg.glitchWidth i (s.monitor.get i))
  | 3 => allLanes.flatMap (fun l => sidebandDue (s.laneSampled l) l (s.lanes.table.get l))
  | 4 => allSlots.flatMap (fun i => monitorDue s.clock i (s.monitor.get i))
  | 5 => allSlots.flatMap (fun i => chargeDue s.clock i (s.charge.get i))
  | 6 => allSlots.flatMap (fun i => latchDue s.clock i (s.latch.get i))
  | 7 => allSlots.flatMap (fun i => custodyDue s.clock i (s.custody.slots.get i))
  | 8 => due s.clock s.nextWake .wakeTimerExpiry
  | 9 => allLanes.flatMap (fun l => laneDue s.clock l (s.lanes.table.get l))
  | 10 => allSlots.flatMap (fun i => runDue s.clock i (s.headState i))
  | 11 => s.shareDue
  | 12 => if s.custody.restartDue then [.stationRestart] else []
  | 13 => due s.clock (some s.lamps.nextAt) .lampBlinkTick
  | _ => []

theorem mem_due {now : Nat} {t : Option Nat} {c d : Instr} : c ∈ due now t d ↔ c = d ∧ ∃ u, t = some u ∧ u ≤ now := by
  cases t <;> simp [due, and_comm]

section
variable {c : Instr} {now : Nat} {i : SlotNo} {l : LaneNo}

/-- A command that is due by one timer stands in that timer's list. -/
theorem group_of_due {t : Option Nat} {d : Instr} {n : Nat} (group : dueGroup d = n) (held : c ∈ due now t d) : dueGroup c = n :=
  (mem_due.mp held).1 ▸ group

theorem filterDue_group {g : Nat} {m : MonitorSlot} (held : c ∈ filterDue g i m) : dueGroup c = 2 := by
  unfold filterDue at held
  rcases List.mem_append.mp held with held | held <;> split at held
  · rw [List.mem_singleton.mp held]; rfl
  · cases held
  · rw [List.mem_singleton.mp held]; rfl
  · cases held

theorem sidebandDue_group {b : Bool} {x : Lane} (held : c ∈ sidebandDue b l x) : dueGroup c = 3 := by
  unfold sidebandDue at held
  rcases List.mem_append.mp held with held | held <;> split at held
  · rw [List.mem_singleton.mp held]; rfl
  · cases held
  · rw [List.mem_singleton.mp held]; split <;> rfl
  · cases held

theorem filterDue_names {g : Nat} {m : MonitorSlot} (held : c ∈ filterDue g i m) :
    (∃ v, c = .filteredPresentChange i v) ∨ ∃ v, c = .filteredBoltSenseChange i v := by
  unfold filterDue at held
  rcases List.mem_append.mp held with held | held <;> rw [List.mem_ite_nil_right, List.mem_singleton] at held
  · exact .inl ⟨_, held.2⟩
  · exact .inr ⟨_, held.2⟩

theorem sidebandDue_names {b : Bool} {x : Lane} (held : c ∈ sidebandDue b l x) :
    (∃ v, c = .enumeratedChange l v) ∨ c = .laneFault l ∨ c = .faultLineReleased l := by
  unfold sidebandDue at held
  rcases List.mem_append.mp held with held | held <;> rw [List.mem_ite_nil_right, List.mem_singleton] at held
  · exact .inl ⟨_, held.2⟩
  · obtain ⟨_, eq⟩ := held
    split at eq
    · exact .inr (.inl eq)
    · exact .inr (.inr eq)

theorem monitorDue_group {m : MonitorSlot} (held : c ∈ monitorDue now i m) : dueGroup c = 4 := by
  unfold monitorDue at held
  rcases List.mem_append.mp held with held | held
  · rcases List.mem_append.mp held with held | held <;> split at held
    · exact group_of_due rfl held
    · exact group_of_due rfl held
    · cases held
    · rw [List.mem_singleton.mp held]; rfl
    · cases held
  · exact group_of_due rfl held

theorem chargeDue_group {x : ChargeSlot} (held : c ∈ chargeDue now i x) : dueGroup c = 5 := by
  unfold chargeDue at held
  rcases List.mem_append.mp held with held | held <;> split at held
  · exact group_of_due rfl held
  · exact group_of_due rfl held
  · rcases List.mem_append.mp held with held | held <;> exact group_of_due rfl held
  · exact group_of_due rfl held
  · exact group_of_due rfl held
  · exact group_of_due rfl held
  · cases held
  · exact group_of_due rfl held
  · cases held

theorem latchDue_group {x : LatchSlot} (held : c ∈ latchDue now i x) : dueGroup c = 6 := by
  unfold latchDue at held
  split at held
  · exact group_of_due rfl held
  · exact group_of_due rfl held
  · exact group_of_due rfl held
  · exact group_of_due rfl held
  · cases held

theorem custodyDue_group {x : CustodySlot} (held : c ∈ custodyDue now i x) : dueGroup c = 7 := by
  unfold custodyDue at held
  split at held
  · cases held
  · exact group_of_due rfl held

theorem laneDue_group {x : Lane} (held : c ∈ laneDue now l x) : dueGroup c = 9 := by
  unfold laneDue at held
  split at held
  · exact group_of_due rfl held
  · exact group_of_due rfl held
  · exact group_of_due rfl held
  · cases held

theorem runDue_group {x : Option RunState} (held : c ∈ runDue now i x) : dueGroup c = 10 := by
  unfold runDue at held
  split at held
  · exact group_of_due rfl held
  · exact group_of_due rfl held
  · exact group_of_due rfl held
  · exact group_of_due rfl held
  · cases held

end

section
variable {c : Instr} {s : State}

theorem shareDue_group (held : c ∈ s.shareDue) : dueGroup c = 11 := by
  unfold State.shareDue at held
  rcases List.mem_append.mp held with held | held
  · rcases List.mem_append.mp held with held | held
    · rcases List.mem_append.mp held with held | held
      · rcases List.mem_append.mp held with held | held
        · exact group_of_due rfl held
        · split at held
          · exact group_of_due rfl held
          · cases held
      · split at held
        · exact group_of_due rfl held
        · cases held
    · obtain ⟨a, _, held⟩ := List.mem_flatMap.mp held
      split at held
      · split at held
        · exact group_of_due rfl held
        · cases held
      · cases held
  · obtain ⟨r, _, held⟩ := List.mem_flatMap.mp held
    exact group_of_due rfl held

theorem frameCommand_group (cls : Nat) (src : Source) (p : List Byte) : dueGroup (frameCommand cls src p) = 1 := by
  unfold frameCommand
  split <;> try split
  all_goals rfl

theorem lineDue_group (held : c ∈ s.lineDue) : dueGroup c = 1 := by
  unfold State.lineDue at held
  have single : ∀ {p : Prop} [Decidable p] {d : Instr}, dueGroup d = 1 → c ∈ (if p then [d] else []) → dueGroup c = 1 := by
    intro p _ d group held
    split at held
    · rw [List.mem_singleton.mp held]; exact group
    · cases held
  split at held
  · exact single rfl held
  · exact single rfl held
  · exact single rfl held
  · split at held
    · unfold State.attemptDue at held
      split at held
      · exact single rfl held
      · rw [List.mem_singleton.mp held]; rfl
      · rw [List.mem_singleton.mp held]; rfl
    · cases held
  · unfold receptionDue at held
    split at held
    · cases held
    · rw [List.mem_singleton.mp held]; rfl
    · rw [List.mem_singleton.mp held]; rfl
    · rw [List.mem_singleton.mp held]; exact frameCommand_group _ _ _
  · cases held

theorem dueList_group {n : Nat} (held : c ∈ s.dueList n) : dueGroup c = n := by
  unfold State.dueList at held
  split at held
  · exact group_of_due rfl held
  · exact lineDue_group held
  · obtain ⟨_, _, held⟩ := List.mem_flatMap.mp held; exact filterDue_group held
  · obtain ⟨_, _, held⟩ := List.mem_flatMap.mp held; exact sidebandDue_group held
  · obtain ⟨_, _, held⟩ := List.mem_flatMap.mp held; exact monitorDue_group held
  · obtain ⟨_, _, held⟩ := List.mem_flatMap.mp held; exact chargeDue_group held
  · obtain ⟨_, _, held⟩ := List.mem_flatMap.mp held; exact latchDue_group held
  · obtain ⟨_, _, held⟩ := List.mem_flatMap.mp held; exact custodyDue_group held
  · exact group_of_due rfl held
  · obtain ⟨_, _, held⟩ := List.mem_flatMap.mp held; exact laneDue_group held
  · obtain ⟨_, _, held⟩ := List.mem_flatMap.mp held; exact runDue_group held
  · exact shareDue_group held
  · split at held
    · rw [List.mem_singleton.mp held]; rfl
    · cases held
  · exact group_of_due rfl held
  · cases held

theorem dueCommands_eq : s.dueCommands = (List.range 14).flatMap s.dueList := by
  unfold State.dueCommands
  simp only [List.range, List.range.loop, List.flatMap_cons, List.flatMap_nil, List.append_nil, List.append_assoc]
  rfl

/-- A command is due exactly where its own list holds it. -/
theorem mem_dueNow_iff (running : s.mode = .running) : c ∈ s.dueNow ↔ c ∈ s.dueList (dueGroup c) := by
  rw [State.dueNow, if_pos running, dueCommands_eq, List.mem_flatMap]
  constructor
  · rintro ⟨n, _, held⟩
    rw [dueList_group held]
    exact held
  · intro held
    refine ⟨dueGroup c, List.mem_range.mpr (Nat.lt_of_not_le fun above => ?_), held⟩
    have empty : s.dueList (dueGroup c) = [] := by
      obtain ⟨k, eq⟩ := Nat.exists_eq_add_of_le above
      rw [eq, Nat.add_comm]; rfl
    rw [empty] at held
    cases held

end

/-- A due event of a slot stands with the slot's own events. -/
theorem mem_slots {f : SlotNo → List Instr} {c : Instr} {i : SlotNo} (own : ∀ k, c ∈ f k → k = i) :
    c ∈ allSlots.flatMap f ↔ c ∈ f i := by
  rw [List.mem_flatMap]
  exact ⟨fun ⟨k, _, held⟩ => own k held ▸ held, fun held => ⟨i, mem_allSlots i, held⟩⟩

theorem mem_lanes {f : LaneNo → List Instr} {c : Instr} {l : LaneNo} (own : ∀ k, c ∈ f k → k = l) :
    c ∈ allLanes.flatMap f ↔ c ∈ f l := by
  rw [List.mem_flatMap]
  exact ⟨fun ⟨k, _, held⟩ => own k held ▸ held, fun held => ⟨l, mem_allLanes l, held⟩⟩

/-! ## The filters (R3, R4, R131) -/

theorem levelOf_eq_iff {level : Level} {b : Bool} : level = levelOf b ↔ b = levelActive level := by
  cases level <;> cases b <;> simp [levelOf, levelActive]

theorem readingOf_eq_iff {reading : BoltReading} {b : Bool} : reading = readingOf b ↔ b = boltActive reading := by
  cases reading <;> cases b <;> simp [readingOf, boltActive]

section
variable {s : State} (running : s.mode = .running)
include running

theorem present_due (i : SlotNo) (level : Level) : .filteredPresentChange i level ∈ s.dueNow ↔
    s.fitted i = true ∧ s.cfg.glitchWidth + 1 ≤ (s.monitor.get i).presentRun.run ∧
      (s.monitor.get i).presentRun.level = levelActive level ∧ (s.monitor.get i).presentIn ≠ filteredOf level := by
  rw [mem_dueNow_iff running]
  show _ ∈ allSlots.flatMap _ ↔ _
  rw [mem_slots (i := i) fun k held => by rcases filterDue_names held with ⟨v, e⟩ | ⟨v, e⟩ <;> cases e; rfl]
  unfold filterDue
  simp only [List.mem_append, List.mem_ite_nil_right, List.mem_singleton, Instr.filteredPresentChange.injEq, true_and,
    reduceCtorEq, and_false, or_false]
  constructor
  · rintro ⟨⟨fitted, long, new⟩, eq⟩
    subst eq
    exact ⟨fitted, long, levelOf_eq_iff.mp rfl, new⟩
  · rintro ⟨fitted, long, level_eq, new⟩
    have eq := levelOf_eq_iff.mpr level_eq
    exact ⟨⟨fitted, long, eq ▸ new⟩, eq⟩

theorem bolt_due (i : SlotNo) (reading : BoltReading) : .filteredBoltSenseChange i reading ∈ s.dueNow ↔
    s.fitted i = true ∧ s.cfg.glitchWidth + 1 ≤ (s.monitor.get i).boltRun.run ∧
      (s.monitor.get i).boltRun.level = boltActive reading ∧ (s.monitor.get i).boltIn ≠ boltSenseOf reading := by
  rw [mem_dueNow_iff running]
  show _ ∈ allSlots.flatMap _ ↔ _
  rw [mem_slots (i := i) fun k held => by rcases filterDue_names held with ⟨v, e⟩ | ⟨v, e⟩ <;> cases e; rfl]
  unfold filterDue
  simp only [List.mem_append, List.mem_ite_nil_right, List.mem_singleton, Instr.filteredBoltSenseChange.injEq, true_and,
    reduceCtorEq, and_false, false_or]
  constructor
  · rintro ⟨⟨fitted, long, new⟩, eq⟩
    subst eq
    exact ⟨fitted, long, readingOf_eq_iff.mp rfl, new⟩
  · rintro ⟨fitted, long, level_eq, new⟩
    have eq := readingOf_eq_iff.mpr level_eq
    exact ⟨⟨fitted, long, eq ▸ new⟩, eq⟩

omit running in
theorem monitorDue_presence {now : Nat} {i k : SlotNo} {m : MonitorSlot} {c : Instr} (held : c ∈ monitorDue now k m)
    (mine : (∃ v a, c = .measurementPublication i v a) ∨ ∃ a, c = .integrationPeriodEnd i a) :
    (c ∈ if m.fitted = true ∧ 10 ≤ m.samples then [Instr.measurementPublication k m.voltSum m.ampSum] else []) ∨
      c ∈ due now m.periodEnd (.integrationPeriodEnd k m.periodSum) := by
  unfold monitorDue at held
  rcases List.mem_append.mp held with held | held
  · rcases List.mem_append.mp held with held | held
    · exfalso
      cases presence : m.presence <;> rw [presence] at held <;> dsimp only at held
      · cases held
      · have eq := (mem_due.mp held).1
        rcases mine with ⟨v, a, rfl⟩ | ⟨a, rfl⟩ <;> cases eq
      · have eq := (mem_due.mp held).1
        rcases mine with ⟨v, a, rfl⟩ | ⟨a, rfl⟩ <;> cases eq
    · exact .inl held
  · exact .inr held

theorem publication_due (i : SlotNo) (v a : Nat) : .measurementPublication i v a ∈ s.dueNow ↔
    s.fitted i = true ∧ 10 ≤ (s.monitor.get i).samples ∧ v = (s.monitor.get i).voltSum ∧ a = (s.monitor.get i).ampSum := by
  have own : ∀ k, .measurementPublication i v a ∈ monitorDue s.clock k (s.monitor.get k) → k = i ∧
      (s.fitted k = true ∧ 10 ≤ (s.monitor.get k).samples) ∧ v = (s.monitor.get k).voltSum ∧ a = (s.monitor.get k).ampSum := by
    intro k held
    rcases monitorDue_presence held (.inl ⟨v, a, rfl⟩) with held | held
    · rw [List.mem_ite_nil_right, List.mem_singleton] at held
      obtain ⟨full, eq⟩ := held
      injection eq with same volts amps
      exact ⟨same.symm, full, volts, amps⟩
    · exact absurd (mem_due.mp held).1 nofun
  rw [mem_dueNow_iff running]
  show _ ∈ allSlots.flatMap _ ↔ _
  rw [mem_slots (i := i) fun k held => (own k held).1]
  constructor
  · intro held
    obtain ⟨_, ⟨fitted, full⟩, volts, amps⟩ := own i held
    exact ⟨fitted, full, volts, amps⟩
  · rintro ⟨fitted, full, rfl, rfl⟩
    refine List.mem_append_left _ (List.mem_append_right _ ?_)
    rw [if_pos ⟨fitted, full⟩]
    exact List.mem_singleton.mpr rfl

theorem integration_due (i : SlotNo) (a : Nat) : .integrationPeriodEnd i a ∈ s.dueNow ↔
    ∃ u, (s.monitor.get i).periodEnd = some u ∧ u ≤ s.clock ∧ a = (s.monitor.get i).periodSum := by
  have own : ∀ k, .integrationPeriodEnd i a ∈ monitorDue s.clock k (s.monitor.get k) → k = i ∧
      a = (s.monitor.get k).periodSum ∧ ∃ u, (s.monitor.get k).periodEnd = some u ∧ u ≤ s.clock := by
    intro k held
    rcases monitorDue_presence held (.inr ⟨a, rfl⟩) with held | held
    · rw [List.mem_ite_nil_right, List.mem_singleton] at held
      exact absurd held.2 nofun
    · obtain ⟨eq, reached⟩ := mem_due.mp held
      injection eq with same sum
      exact ⟨same.symm, sum, reached⟩
  rw [mem_dueNow_iff running]
  show _ ∈ allSlots.flatMap _ ↔ _
  rw [mem_slots (i := i) fun k held => (own k held).1]
  constructor
  · intro held
    obtain ⟨_, sum, u, at_, reached⟩ := own i held
    exact ⟨u, at_, reached, sum⟩
  · rintro ⟨u, at_, reached, rfl⟩
    exact List.mem_append_right _ (mem_due.mpr ⟨rfl, u, at_, reached⟩)

end

/-! ## The sideband lines (R131, R139) -/

theorem laneSampled_iff {s : State} {l : LaneNo} : s.laneSampled l = true ↔
    l.val < s.cfg.laneCount ∧ (s.lanes.table.get l).state ≠ .dormant ∧ (s.lanes.table.get l).state ≠ .retired := by
  unfold State.laneSampled State.configured
  rw [Bool.and_eq_true, decide_eq_true_eq]
  cases (s.lanes.table.get l).state <;> simp

section
variable {s : State} (running : s.mode = .running) (l : LaneNo)
include running

theorem mem_sideband {c : Instr} (group : dueGroup c = 3)
    (own : ∀ k, c ∈ sidebandDue (s.laneSampled k) k (s.lanes.table.get k) → k = l) :
    c ∈ s.dueNow ↔ c ∈ sidebandDue (s.laneSampled l) l (s.lanes.table.get l) := by
  rw [mem_dueNow_iff running, group]
  exact mem_lanes own

theorem enumerated_due (level : Level) : .enumeratedChange l level ∈ s.dueNow ↔ s.laneSampled l = true ∧
    5 ≤ (s.lanes.table.get l).enumRun.run ∧ (s.lanes.table.get l).enumRun.level = levelActive level ∧
      (s.lanes.table.get l).enumIn ≠ filteredOf level := by
  rw [mem_sideband running l rfl fun k held => by rcases sidebandDue_names held with ⟨v, e⟩ | e | e <;> cases e; rfl]
  unfold sidebandDue
  have fault : ∀ b : Bool, Instr.enumeratedChange l level ≠ (if b then Instr.laneFault l else Instr.faultLineReleased l) := by
    intro b; cases b <;> exact nofun
  simp only [List.mem_append, List.mem_ite_nil_right, List.mem_singleton, Instr.enumeratedChange.injEq, true_and, fault,
    and_false, or_false]
  constructor
  · rintro ⟨⟨sampled, long, new⟩, eq⟩
    subst eq
    exact ⟨sampled, long, levelOf_eq_iff.mp rfl, new⟩
  · rintro ⟨sampled, long, level_eq, new⟩
    have eq := levelOf_eq_iff.mpr level_eq
    exact ⟨⟨sampled, long, eq ▸ new⟩, eq⟩

theorem laneFault_due : .laneFault l ∈ s.dueNow ↔ s.laneSampled l = true ∧ 5 ≤ (s.lanes.table.get l).faultRun.run ∧
    (s.lanes.table.get l).faultRun.level = true ∧ (s.lanes.table.get l).faultIn ≠ .asserted := by
  rw [mem_sideband running l rfl fun k held => by rcases sidebandDue_names held with ⟨v, e⟩ | e | e <;> cases e; rfl]
  unfold sidebandDue
  rw [List.mem_append, List.mem_ite_nil_right, List.mem_ite_nil_right]
  cases level : (s.lanes.table.get l).faultRun.level <;>
    simp [sidebandGlitch, levelOf, filteredOf, Nat.succ_le_iff]

theorem faultReleased_due : .faultLineReleased l ∈ s.dueNow ↔ s.laneSampled l = true ∧
    5 ≤ (s.lanes.table.get l).faultRun.run ∧ (s.lanes.table.get l).faultRun.level = false ∧
      (s.lanes.table.get l).faultIn ≠ .released := by
  rw [mem_sideband running l rfl fun k held => by rcases sidebandDue_names held with ⟨v, e⟩ | e | e <;> cases e; rfl]
  unfold sidebandDue
  rw [List.mem_append, List.mem_ite_nil_right, List.mem_ite_nil_right]
  cases level : (s.lanes.table.get l).faultRun.level <;>
    simp [sidebandGlitch, levelOf, filteredOf, Nat.succ_le_iff]

end

/-! ## A bit time (R3, R12, R14) -/

theorem step_quiet {s : State} (quiet : s.dueNow = []) :
    step { s with pending := [] } = .next ({ s with pending := [] } : State).passBit := by
  have still : ({ s with pending := [] } : State).dueNow = [] := quiet
  show Host.Outcome.next (State.bitTime _) = _
  rw [State.bitTime, still]

theorem passBit_running {s : State} (running : s.mode = .running) : s.passBit = ({ s with
    clock := s.clock + 1, wire := s.wire.tail, line := { s.line with phase := s.line.phase.hear s.lineLevel } } : State).sampleSlots.sampleLanes := by
  unfold State.passBit
  rw [if_pos running]

theorem sample_run (pin : Bool) (g : GlitchRun) :
    g.sample pin = { level := pin, run := if g.level = pin then g.run + 1 else 1 } := by
  unfold GlitchRun.sample
  by_cases level : g.level = pin
  · rcases Nat.eq_zero_or_pos g.run with none | some
    · rw [if_neg fun h => h.2 none, if_pos level, none]
    · rw [if_pos ⟨level, Nat.pos_iff_ne_zero.mp some⟩, if_pos level, ← level]
  · rw [if_neg fun h => level h.1, if_neg level]

theorem clampSample_eq (most : Nat) (v : Int) :
    clampSample most v = if v < 0 then 0 else if (most : Int) < v then most else v.toNat := by
  unfold clampSample
  split
  · omega
  · split <;> omega

theorem wholeMsFrom_iff {s : State} {u : Nat} : s.wholeMsFrom u = true ↔ (s.clock - u) % 250 = 0 := decide_eq_true_iff

theorem laneStep_iff {s : State} {l : LaneNo} : s.laneStep l = true ↔ l.val < s.cfg.laneCount ∧
    (s.lanes.table.get l).state ≠ .dormant ∧ (s.lanes.table.get l).state ≠ .retired ∧
      (s.clock - (s.lanes.table.get l).sampledFrom) % 250 = 0 := by
  rw [State.laneStep, Bool.and_eq_true, laneSampled_iff, wholeMsFrom_iff, and_assoc, and_assoc]

theorem sample_of_unfitted {m : MonitorSlot} (unfitted : m.fitted = false) : m.sample = m := by
  rw [MonitorSlot.sample, if_neg (by rw [unfitted]; exact Bool.false_ne_true)]

/-- A sample of a fitted slot: its filters count, and its sums take the clamped readings (R3, R12, R14). -/
theorem sample_of_fitted {m : MonitorSlot} (fitted : m.fitted = true) :
    m.sample = { m with
      presentRun := ⟨m.presentPin, if m.presentRun.level = m.presentPin then m.presentRun.run + 1 else 1⟩
      boltRun := ⟨m.boltPin, if m.boltRun.level = m.boltPin then m.boltRun.run + 1 else 1⟩
      samples := m.samples + 1
      voltSum := m.voltSum + if m.voltPin < 0 then 0 else if (12000 : Int) < m.voltPin then 12000 else m.voltPin.toNat
      ampSum := m.ampSum + if m.currPin < 0 then 0 else if (4000 : Int) < m.currPin then 4000 else m.currPin.toNat
      periodSum := m.periodSum + if m.periodEnd.isSome then
        (if m.currPin < 0 then 0 else if (4000 : Int) < m.currPin then 4000 else m.currPin.toNat) else 0 } := by
  rw [MonitorSlot.sample, if_pos fitted, sample_run, sample_run, clampSample_eq, clampSample_eq]
  cases m.periodEnd <;> rfl

/-- Settles O18: each command of a filter stands in one list of due events, and a sample is one record's new value. -/
theorem samplesPassFilters : Obligations.SamplesPassFilters := by
  refine ⟨fun s running quiet => ?_, fun s running => ⟨present_due running, bolt_due running, publication_due running,
    integration_due running, fun l => ⟨fun level => ?_, ?_, ?_⟩⟩⟩
  · refine ⟨_, step_quiet quiet, passBit_clock _, passBit_keeps _, passBit_waitList _, ?_⟩
    intro counted within
    have eq := passBit_running (s := { s with pending := [] }) running
    refine ⟨fun between => ?_, fun whole i => ⟨fun unfitted => ?_, fun fitted => ?_⟩, fun l => ⟨fun unsampled => ?_, fun sampled => ?_⟩⟩
    · rw [eq, sampleLanes_monitor, State.sampleSlots, if_neg (fun whole => between (wholeMsFrom_iff.mp whole))]
    · rw [eq, sampleLanes_monitor, sampleSlots_monitor, if_pos (wholeMsFrom_iff.mpr whole)]
      exact sample_of_unfitted unfitted
    · rw [eq, sampleLanes_monitor, sampleSlots_monitor, if_pos (wholeMsFrom_iff.mpr whole)]
      exact sample_of_fitted fitted
    · rw [eq, sampleLanes_lane, sampleSlots_lanes, Lane.sample, if_neg]
      rw [laneStep_iff, sampleSlots_lanes, sampleSlots_clock]
      rw [sampleSlots_keeps _ .cfg (by decide)]
      exact unsampled
    · rw [eq, sampleLanes_lane, sampleSlots_lanes, Lane.sample, if_pos, sample_run, sample_run]
      rw [laneStep_iff, sampleSlots_lanes, sampleSlots_clock]
      rw [sampleSlots_keeps _ .cfg (by decide)]
      exact sampled
  · rw [enumerated_due running, laneSampled_iff]
  · rw [laneFault_due running, laneSampled_iff]
  · rw [faultReleased_due running, laneSampled_iff]

/-! ## Indicators (R167, R168) -/

theorem lampAlarm_iff {s : State} {i : SlotNo} : s.lampAlarm i = true ↔ (s.latch.get i).state = .jammed ∨
    (s.custody.slots.get i).hold.map Hold.reason = some .tamper ∨ (s.charge.get i).phase.isFaulted = true := by
  rw [State.lampAlarm, Bool.or_eq_true, Bool.or_eq_true, decide_eq_true_eq, or_assoc]
  cases (s.custody.slots.get i).hold <;> simp

theorem headRun_isSome_iff {s : State} {i : SlotNo} : (s.headRun i).isSome = true ↔ (s.plans.slots.get i).runs ≠ [] := by
  rw [State.headRun]
  cases (s.plans.slots.get i).runs <;> simp

theorem calls_iff {x : LaneState} : x.calls = true ↔ (∃ u, x = .faulted u) ∨ x = .retired := by
  cases x <;> simp [LaneState.calls]

theorem attention_iff {s : State} (running : s.mode = .running) : s.attention = true ↔
    (∃ i, (s.custody.slots.get i).hold.isSome = true) ∨
    (∃ l, l.val < s.cfg.laneCount ∧ ((∃ x, (s.lanes.table.get l).state = .faulted x) ∨
      (s.lanes.table.get l).state = .retired)) ∨
    s.share.state = .isolated ∨ s.share.state = .clashed ∨ s.defaulted = true := by
  have held : allSlots.any (fun i => (s.custody.slots.get i).hold.isSome) = true ↔
      ∃ i, (s.custody.slots.get i).hold.isSome = true := by
    rw [List.any_eq_true]
    exact ⟨fun ⟨i, _, h⟩ => ⟨i, h⟩, fun ⟨i, h⟩ => ⟨i, mem_allSlots i, h⟩⟩
  have lanes : allLanes.any (fun l => s.configured l && (s.lanes.table.get l).state.calls) = true ↔
      ∃ l, l.val < s.cfg.laneCount ∧ ((∃ x, (s.lanes.table.get l).state = .faulted x) ∨
        (s.lanes.table.get l).state = .retired) := by
    rw [List.any_eq_true]
    constructor
    · rintro ⟨l, _, h⟩
      obtain ⟨configured, calls⟩ := (Bool.and_eq_true _ _).mp h
      exact ⟨l, of_decide_eq_true configured, calls_iff.mp calls⟩
    · rintro ⟨l, configured, calls⟩
      exact ⟨l, mem_allLanes l, (Bool.and_eq_true _ _).mpr ⟨decide_eq_true configured, calls_iff.mpr calls⟩⟩
  simp only [State.attention, running, decide_true, Bool.true_and, Bool.or_eq_true, decide_eq_true_eq, held, lanes, or_assoc]

theorem crosspoint_iff {s : State} {i : SlotNo} {l : LaneNo} : s.crosspoint i l = true ↔
    ∃ pinned, (s.lanes.table.get l).state = .attached i pinned := by
  unfold State.crosspoint
  cases (s.lanes.table.get l).state <;> simp

theorem lanePower_off_iff {s : State} {l : LaneNo} : s.lanePower l = false ↔ s.cfg.laneCount ≤ l.val ∨
    (s.lanes.table.get l).state = .dormant ∨ (s.lanes.table.get l).state = .retired := by
  unfold State.lanePower State.configured
  rw [Bool.and_eq_false_iff, decide_eq_false_iff_not, Nat.not_lt]
  cases (s.lanes.table.get l).state <;> simp

/-- The lamp of a slot: the rows of the table in their order (R167). -/
theorem lamp_eq {s : State} (running : s.mode = .running) (i : SlotNo) : s.lamp i =
    if s.fitted i = false then none
    else if (s.latch.get i).state = .jammed ∨ (s.custody.slots.get i).hold.map Hold.reason = some .tamper ∨
        (s.charge.get i).phase.isFaulted = true then (LampPattern.fast .amber).shows s.lamps.position
    else if (s.latch.get i).state.isOpen = true then (LampPattern.fast .green).shows s.lamps.position
    else if (s.plans.slots.get i).runs ≠ [] then (LampPattern.slow .green).shows s.lamps.position
    else if (s.charge.get i).phase.isDeferred = true then (LampPattern.slow .amber).shows s.lamps.position
    else if s.isPresent i = false then none
    else if (s.charge.get i).ready = true then some .green
    else some .amber := by
  rw [State.lamp, State.lampPattern, if_neg (not_not.mpr running)]
  simp only [apply_ite (LampPattern.shows s.lamps.position), lampAlarm_iff, headRun_isSome_iff]
  rfl

/-- Settles O60: the outputs of the shelf are functions of the state, row by row. -/
theorem lampsAndAttentionFollowTables : Obligations.LampsAndAttentionFollowTables := by
  refine fun s => ⟨fun running => ⟨?_, fun i => lamp_eq running i, attention_iff running, fun _ _ => crosspoint_iff,
    fun _ => lanePower_off_iff, fun i => ⟨?_, ?_, ?_⟩⟩, fun waits => ⟨?_, fun i => ?_⟩⟩
  · refine ⟨{ s.reach s.lamps.nextAt with lamps := s.lamps.tick }, (show execLampBlinkTick s = _ from whileRunning_next running rfl), rfl, rfl, momentAfter_eq _ _, ?_⟩
    intro part kept
    cases part <;> simp_all [same, State.reach]
  · unfold State.boltDrive
    cases (s.latch.get i).state <;> simp
  · unfold State.boltDrive
    cases (s.latch.get i).state <;> simp
  · unfold ChargeSlot.outputVolts Volts.value
    cases (s.charge.get i).outputOn <;> cases (s.charge.get i).working <;> rfl
  · rw [State.attention, decide_eq_false waits]; rfl
  · rw [State.lamp, State.lampPattern, if_pos waits]; rfl

end Sys2Proof.Machine
end

section
/-! PROOF. The Share Unit's timers (R43, R52, R57) and the frames that move its tables (R44, R51, R53, R55). -/

namespace Sys2Proof.Machine

/-! ## A change followed by a computation -/

/-- A computation joins what was changed before it, where that moved nothing the slots' records depend on. -/
theorem computed_after {ps : List Part} {s u : State} (before : Keeps ps s u)
    (apart : ∀ p ∈ [Part.charge, .share, .monitor, .runs, .cfg], p ∉ ps) :
    Computed 0 s (u.compute false) ∧ Keeps (ps ++ powerParts) s (u.compute false) :=
  ⟨(compute_computed false u).after before apart,
    (before.mono fun _ m => List.mem_append_left _ m).trans ((compute_keeps false u).mono fun _ m => List.mem_append_right _ m)⟩

/-! ## Share states (R42 to R46) -/

theorem notice_share (k : NoticeKind) (i : Option SlotNo) (d : Nat) (s : State) : (s.notice k i d).share = s.share := by
  unfold State.notice; split <;> rfl

theorem changeShare_of_ne {x : ShareState} {s : State} (differs : s.share.state ≠ x) : s.changeShare x =
    ({ s with share := { s.share with state := x } } : State).notice .shareState none (shareCode x) := if_neg differs

theorem changeShare_share (x : ShareState) (s : State) : (s.changeShare x).share = { s.share with state := x } := by
  unfold State.changeShare
  split
  next already => rw [← already]
  next => rw [notice_share]

theorem enterJoined_share (s : State) :
    s.enterJoined.share = { s.share with state := .joined, silenceAt := s.freshSilence } := changeShare_share _ _

theorem enterIsolated_share (s : State) : s.enterIsolated.share = { s.share with state := .isolated, silenceAt := none } :=
  changeShare_share _ _

theorem freshSilence_eq (s : State) :
    s.freshSilence = if s.cfg.stations = 1 then none else some (s.clock + 3 * s.cfg.reportPeriod * 250) := rfl

/-- The notice of a change of share state is there after whatever grows the queue (R46). -/
theorem changeShare_noticed {x : ShareState} {s u t : State} (cfg : u.cfg = s.cfg) (line : u.line = s.line)
    (differs : u.share.state ≠ x) (grows : Grows (u.changeShare x) t) : Noticed s t .shareState none (shareCode x) := by
  rw [changeShare_of_ne differs] at grows
  exact noticed_of (u := { u with share := { u.share with state := x } }) _ _ _ cfg line grows

theorem Noticed.of_queue {s u t : State} {k : NoticeKind} {i : Option SlotNo} {d : Nat} (h : Noticed u t k i d)
    (cfg : u.cfg = s.cfg) (queue : u.line.queue = s.line.queue) : Noticed s t k i d := by
  intro reported free
  refine h (by rw [cfg]; exact reported) ?_
  rw [Line.generalUsed, queue]
  exact free

/-! ## Ceiling records (R55 to R57) -/

/-- Fewer records never lower C_eff (R57). -/
theorem ceff_le_of_subset {s t : State} (cfg : t.cfg = s.cfg) (fewer : ∀ r ∈ t.share.ceilings, r ∈ s.share.ceilings) :
    s.ceff ≤ t.ceff := by
  obtain ⟨cart, records⟩ := le_ceff_iff.mp (le_refl s.ceff)
  exact le_ceff_iff.mpr ⟨cfg ▸ cart, fun r m => records r (fewer r m)⟩

/-- Settles O26: each timer's change is followed by a computation, which leaves the change standing. -/
theorem shareTimersTakeTheirChange : Obligations.ShareTimersTakeTheirChange := by
  refine fun s running => ⟨fun u joined silence => ?_, fun a p held live => ?_, fun src u expires => ?_⟩
  · have acts : exec .silenceTimerExpiry s = .next ((s.reach u).enterIsolated.compute false) :=
      show execSilenceTimerExpiry s = _ from whileRunning_next running (by simp only [joined, silence])
    have before := ((reach_keeps u s).mono (qs := [.clock, .standing, .queue]) (by decide)).trans
      ((enterIsolated_keeps (s.reach u)).mono (by decide))
    obtain ⟨computed, frame⟩ := computed_after before (by decide)
    have standing := compute_keeps false (s.reach u).enterIsolated .standing (by decide)
    rw [same, enterIsolated_share] at standing
    obtain ⟨state, heard, silent, report, listen⟩ := standing
    have clock : ((s.reach u).enterIsolated.compute false).clock = max s.clock u :=
      Eq.trans (compute_keeps _ _ .clock (by decide)) (enterIsolated_keeps (s.reach u) .clock (by decide))
    have noticed : Noticed s ((s.reach u).enterIsolated.compute false) .shareState none 2 :=
      changeShare_noticed (u := (s.reach u).setSilence none) rfl rfl (by simp [State.reach, joined]) (compute_grows _ _)
    exact ⟨_, acts, clock, state, silent, heard, report, listen, noticed, computed, frame.mono (by decide)⟩
  · let v := (s.reach (p.heardAt + 3 * s.cfg.reportPeriod * 250)).setPeer a (some { p with live := false })
    have acts : exec (.peerAging a) s = .next (v.compute false) :=
      show execPeerAging a s = _ from whileRunning_next running (by simp only [held]; rw [if_pos live]; rfl)
    have before : Keeps [.clock, .peers] s v := ((reach_keeps _ s).mono (by decide)).trans ((setPeer_keeps a _ _).mono (by decide))
    obtain ⟨computed, frame⟩ := computed_after before (by decide)
    have peers : (v.compute false).share.peers = setAt s.share.peers a (some { p with live := false }) :=
      compute_keeps false v .peers (by decide)
    have clock : (v.compute false).clock = v.clock := compute_keeps false v .clock (by decide)
    refine ⟨_, acts, clock, by rw [peers, get_setAt_same], fun k other => by rw [peers, get_setAt_ne _ _ _ _ other], computed,
      frame.mono (by decide)⟩
  · let rest := s.share.ceilings.filter (fun r => r.source ≠ src)
    have acts : exec (.ceilingRecordExpiry src) s = .next (((s.reach u).setCeilings rest).compute false) :=
      show execCeilingRecordExpiry src s = _ from whileRunning_next running (by simp only [expires]; rfl)
    have before := ((reach_keeps u s).mono (qs := [.clock, .ceilings]) (by decide)).trans
      ((setCeilings_keeps rest (s.reach u)).mono (by decide))
    obtain ⟨computed, frame⟩ := computed_after before (by decide)
    have ceilings : (((s.reach u).setCeilings rest).compute false).share.ceilings = rest :=
      compute_keeps false ((s.reach u).setCeilings rest) .ceilings (by decide)
    have clock : (((s.reach u).setCeilings rest).compute false).clock = max s.clock u :=
      compute_keeps false ((s.reach u).setCeilings rest) .clock (by decide)
    have cfg : (((s.reach u).setCeilings rest).compute false).cfg = s.cfg := frame .cfg (by decide)
    refine ⟨_, acts, clock, ceilings, ceff_le_of_subset cfg fun r m => ?_, computed, frame.mono (by decide)⟩
    rw [ceilings] at m
    exact List.mem_of_mem_filter m

/-! ## The peer table (R44, R51, R53) -/

theorem stationOf_of_val {src : Source} {a : Station} (val : a.val = src.val) : stationOf src = some a := by
  have low : src.val < 8 := val ▸ a.isLt
  rw [stationOf, dif_pos low]
  exact congrArg some (Fin.ext val.symm)

theorem peerOf_of_val {s : State} {src : Source} {a : Station} (val : a.val = src.val) (other : a ≠ s.address) :
    s.peerOf src = some a := by
  rw [State.peerOf, stationOf_of_val val]; exact if_neg other

theorem peerOf_none {s : State} {src : Source} (strange : 8 ≤ src.val ∨ src.val = s.address.val) : s.peerOf src = none := by
  unfold State.peerOf
  cases station : stationOf src with
  | none => rfl
  | some a =>
    rcases strange with high | own
    · rw [stationOf, dif_neg (Nat.not_lt.mpr high)] at station
      cases station
    · rw [stationOf_of_val own.symm] at station
      exact if_pos (Option.some.inj station).symm

theorem watched_peerOf (src a : Source) (s : State) : (s.watched src).peerOf a = s.peerOf a := by
  unfold State.peerOf
  rw [show (s.watched src).address = s.address from watched_keeps src s .address (by decide)]

/-- A frame of a peer passes the watch of peers (R41). -/
theorem watched_of_peer {s : State} {src : Source} {a : Station} (val : a.val = src.val) (other : a ≠ s.address) :
    s.watched src = ({ s with line := s.line.frameEnds } : State).watchPeer := by
  rw [State.watched, State.watch, stationOf_of_val val]; exact if_neg other

theorem watchPeer_state (s : State) : s.watchPeer.share.state = s.share.state := by
  unfold State.watchPeer; split <;> rfl

theorem watchPeer_line (s : State) : s.watchPeer.line = s.line := by unfold State.watchPeer; split <;> rfl

section
variable {s : State} {src : Source} {p : List Byte}

theorem malformed_need (len : p.length = 8) (kind : byteAt p 0 = 0) (state : byteAt p 1 < 4) : malformed 2 p = false := by
  have known : (shareOf (byteAt p 1)).isNone = false := by
    have cases : byteAt p 1 = 0 ∨ byteAt p 1 = 1 ∨ byteAt p 1 = 2 ∨ byteAt p 1 = 3 := by omega
    rcases cases with h | h | h | h <;> rw [h] <;> rfl
  simp [malformed, len, kind, known]

theorem malformed_leave (len : p.length = 1) (kind : byteAt p 0 = 1) : malformed 2 p = false := by
  simp [malformed, len, kind]

theorem takeClass2_strange (strange : 8 ≤ src.val ∨ src.val = s.address.val) : s.takeClass2 src p = s := by
  rw [State.takeClass2, peerOf_none strange]

theorem shareCode_shareOf (state : byteAt p 1 < 4) : shareCode ((shareOf (byteAt p 1)).getD .listen) = byteAt p 1 := by
  have cases : byteAt p 1 = 0 ∨ byteAt p 1 = 1 ∨ byteAt p 1 = 2 ∨ byteAt p 1 = 3 := by omega
  rcases cases with h | h | h | h <;> rw [h] <;> rfl

/-- What a NEED from a peer leaves (R44, R51). -/
theorem takeNeed_result (a : Station) (p : List Byte) (s : State) :
    let t := s.takeNeed a p
    t.share.peers = setAt s.share.peers a (some (s.peerEntry p)) ∧
    (s.share.state = .isolated → t.share.state = .joined ∧ Noticed s t .shareState none 1 ∧ t.share.silenceAt = s.freshSilence) ∧
    (s.share.state ≠ .isolated → same s t .standing) ∧
    Computed 0 s t ∧ Keeps [.standing, .peers, .charge, .share, .queue] s t := by
  let v := s.setPeer a (some (s.peerEntry p))
  have entry : Keeps [.peers] s v := setPeer_keeps a _ s
  by_cases isolated : s.share.state = .isolated
  · have taken : s.takeNeed a p = v.enterJoined.compute false := congrArg (State.compute false) (if_pos isolated)
    rw [taken]
    have before : Keeps [.standing, .peers, .queue] s v.enterJoined :=
      (entry.mono (by decide)).trans ((enterJoined_keeps v).mono (by decide))
    obtain ⟨computed, frame⟩ := computed_after before (by decide)
    have peers : (v.enterJoined.compute false).share.peers = v.enterJoined.share.peers := compute_keeps _ _ .peers (by decide)
    have standing := compute_keeps false v.enterJoined .standing (by decide)
    rw [enterJoined_share] at peers
    rw [same, enterJoined_share] at standing
    obtain ⟨state, _, silent, _⟩ := standing
    have noticed : Noticed s (v.enterJoined.compute false) .shareState none 1 :=
      changeShare_noticed (u := v.setSilence v.freshSilence) rfl rfl (by
        show s.share.state ≠ .joined
        rw [isolated]; decide) (compute_grows _ _)
    exact ⟨peers, fun _ => ⟨state, noticed, silent⟩, absurd isolated, computed, frame.mono (by decide)⟩
  · have taken : s.takeNeed a p = v.compute false := congrArg (State.compute false) (if_neg isolated)
    rw [taken]
    obtain ⟨computed, frame⟩ := computed_after entry (by decide)
    exact ⟨compute_keeps false v .peers (by decide), fun h => absurd h isolated, fun _ => frame .standing (by decide), computed,
      frame.mono (by decide)⟩

theorem takeLeave_result (a : Station) (s : State) :
    (s.takeLeave a).share.peers = setAt s.share.peers a none ∧ (s.takeLeave a).share.state = s.share.state ∧
    Computed 0 s (s.takeLeave a) ∧ Keeps [.peers, .charge, .share, .queue] s (s.takeLeave a) := by
  rw [State.takeLeave]
  obtain ⟨computed, frame⟩ := computed_after (setPeer_keeps a none s) (by decide)
  have peers := compute_keeps false (s.setPeer a none) .peers (by decide)
  obtain ⟨state, _⟩ := frame .standing (by decide)
  exact ⟨peers, state, computed, frame.mono (by decide)⟩

theorem watched_class2 {a : Station} (val : a.val = src.val) (other : a ≠ s.address) : (s.watched src).takeClass2 src p =
    if byteAt p 0 = 0 then (s.watched src).takeNeed a p else (s.watched src).takeLeave a := by
  rw [State.takeClass2, watched_peerOf, peerOf_of_val val other]

end

/-- A CEILING whose source has a record, or for which a place is free, is entered (R55). -/
theorem enterCeiling_placed {n : CeilingRecord} {rs : List CeilingRecord}
    (place : (∃ r ∈ rs, r.source = n.source) ∨ rs.length < 4) : enterCeiling n rs =
    some (if ∃ r ∈ rs, r.source = n.source then rs.map (fun r => if r.source = n.source then n else r) else rs ++ [n]) := by
  unfold enterCeiling
  by_cases known : ∃ r ∈ rs, r.source = n.source
  · rw [if_pos known, if_pos (by simpa using known)]
  · rw [if_neg known, if_neg (by simpa using known), if_pos (show rs.length < ceilingPlaces from place.resolve_left known)]

theorem mem_enteredCeilings (n : CeilingRecord) (rs : List CeilingRecord) :
    n ∈ if ∃ r ∈ rs, r.source = n.source then rs.map (fun r => if r.source = n.source then n else r) else rs ++ [n] := by
  split
  next known =>
    obtain ⟨r, member, source⟩ := known
    exact List.mem_map.mpr ⟨r, member, if_pos source⟩
  next => simp

/-- No station allocation, no slot allocation (R63). -/
theorem slotAlloc_zero {t : State} (within : sumSix (fun k => t.share.slotAlloc.get k) ≤ t.share.alloc)
    (none : t.share.alloc = 0) (k : SlotNo) : t.share.slotAlloc.get k = 0 := by
  unfold sumSix at within
  dsimp only at within
  revert k
  exact forSix (by omega) (by omega) (by omega) (by omega) (by omega) (by omega)

/-- Where C_eff is 0, there is nothing to allocate (R57, R59). -/
theorem cappedTarget_zero {s : State} (zero : s.ceff = 0) : s.cappedTarget = 0 := by
  have empty : s.available = 0 := by rw [State.available, zero]; omega
  have uncapped : s.uncappedTarget = 0 := by
    rw [State.uncappedTarget, empty]
    dsimp only
    rw [if_pos (Nat.zero_le _), Nat.mul_zero, Nat.zero_div]
  unfold State.cappedTarget
  rw [uncapped]
  cases s.share.state <;> simp

/-- Settles O28: a peer's frame changes its entry and a ceiling its record, and a computation follows. -/
theorem peerFramesMoveTables : Obligations.PeerFramesMoveTables := by
  refine ⟨fun s src p running receives len kind state => ⟨fun strange => ?_, fun a val other => ?_⟩,
    fun s src p running receives len kind => ⟨fun strange => ?_, fun a val other => ?_⟩,
    fun s src p running receives len place => ?_⟩
  · rw [exec_taken rfl running receives (by omega) (malformed_need len kind state)]
    have address : (s.watched src).address = s.address := watched_keeps src s .address (by decide)
    exact congrArg Host.Outcome.next (takeClass2_strange (by rw [address]; exact strange))
  · have acts : exec (.need src p) s = .next ((s.watched src).takeNeed a p) := by
      rw [exec_taken rfl running receives (by omega) (malformed_need len kind state)]
      exact congrArg Host.Outcome.next ((watched_class2 val other).trans (if_pos kind))
    obtain ⟨peers, isolated, stays, computed, frame⟩ := takeNeed_result a p (s.watched src)
    have watchedState : (s.watched src).share.state = s.share.state := by rw [watched_of_peer val other, watchPeer_state]
    have watchedPeers : (s.watched src).share.peers = s.share.peers := watched_keeps src s .peers (by decide)
    have queue : (s.watched src).line.queue = s.line.queue := by rw [watched_of_peer val other, watchPeer_line]; rfl
    rw [watchedPeers] at peers
    refine ⟨_, (s.watched src).peerEntry p, acts, by rw [peers, get_setAt_same], rfl, shareCode_shareOf state, watched_clock src s, rfl,
      fun k different => by rw [peers, get_setAt_ne _ _ _ _ different], fun alone => ?_, fun crowd => ?_, computed, frame⟩
    · obtain ⟨joined, noticed, silent⟩ := isolated (watchedState.trans alone)
      rw [freshSilence_eq, watched_cfg, watched_clock] at silent
      exact ⟨joined, noticed.of_queue (watched_cfg src s) queue, silent⟩
    · exact stays (by rw [watchedState]; exact crowd)
  · rw [exec_taken rfl running receives (by omega) (malformed_leave len kind)]
    have address : (s.watched src).address = s.address := watched_keeps src s .address (by decide)
    exact congrArg Host.Outcome.next (takeClass2_strange (by rw [address]; exact strange))
  · have acts : exec (.leave src p) s = .next ((s.watched src).takeLeave a) := by
      rw [exec_taken rfl running receives (by omega) (malformed_leave len kind)]
      exact congrArg Host.Outcome.next ((watched_class2 val other).trans (if_neg (by omega)))
    obtain ⟨peers, state, computed, frame⟩ := takeLeave_result a (s.watched src)
    have watchedState : (s.watched src).share.state = s.share.state := by rw [watched_of_peer val other, watchPeer_state]
    have watchedPeers : (s.watched src).share.peers = s.share.peers := watched_keeps src s .peers (by decide)
    rw [watchedPeers] at peers
    exact ⟨_, acts, by rw [peers, get_setAt_same], fun k different => by rw [peers, get_setAt_ne _ _ _ _ different],
      state.trans watchedState, computed, frame⟩
  · have acts := exec_ceiling_eq_takeCeiling src running receives len
    have entered := enterCeiling_placed (n := s.ceilingOf src p) place
    rw [watched_takeCeiling_of_entered entered] at acts
    generalize eq : ((s.watched src).setCeilings _).compute false = t at acts
    obtain ⟨table, computed, frame⟩ := setCeilings_compute eq.symm
    have member : s.ceilingOf src p ∈ t.share.ceilings := by rw [table]; exact mem_enteredCeilings _ _
    have bound := ceff_le_of_mem member
    refine ⟨t, s.ceilingOf src p, acts, rfl, table, bound, fun zero => ?_, computed, frame⟩
    have target := computed.target.trans (cappedTarget_zero (Nat.le_zero.mp (zero ▸ bound)))
    have alloc := Nat.le_zero.mp (target ▸ computed.within)
    exact ⟨target, slotAlloc_zero computed.slots alloc⟩

end Sys2Proof.Machine
end

section
/-! PROOF. What a computation hands to the line (R46, R49, R59), and the watch of every good frame (R41, R45, R84, R143, R147). -/

namespace Sys2Proof.Machine

/-! ## Inside a computation and a settling -/

/-- A condition that the parts of one computation keep: notices, charge records and the Share Unit's results. -/
structure Budgets (P : State → Prop) : Prop where
  notice : ∀ k i d s, P s → P (s.notice k i d)
  charge : ∀ v (s : State), P s → P { s with charge := v }
  results : ∀ f x a v (s : State), P s →
    P { s with share := { s.share with floorShort := f, target := x, alloc := a, slotAlloc := v } }

/-- A condition that a settling keeps too: the own sums change, and an early NEED is judged. -/
structure Rounds (P : State → Prop) : Prop extends Budgets P where
  sums : ∀ o (s : State), P s → P (({ s with share := { s.share with own := o } } : State).judgeEarlyNeed)

section
variable {P : State → Prop}

theorem Budgets.distribute (h : Budgets P) {s : State} (before : P s) : P s.distribute := by
  have hand : ∀ k p u, P u → P (handAllocation k p u) := fun k p u held => by
    unfold handAllocation
    split
    · exact held
    · have shared := h.results u.share.floorShort u.share.target u.share.alloc (setAt u.share.slotAlloc k p) u held
      unfold State.updateCharge
      dsimp only
      split
      · exact h.notice _ _ _ _ (h.charge _ _ shared)
      · exact h.charge _ _ shared
  unfold State.distribute
  dsimp only
  generalize slotShare s.share.alloc _ = shares
  have folded : ∀ (ks : List SlotNo) (u : State), P u → P (forSlots ks (fun k t => handAllocation k (shares k) t) u) := by
    intro ks
    induction ks with
    | nil => exact fun u held => held
    | cons k ks ih => exact fun u held => ih _ (hand k _ u held)
  exact folded allSlots s before

theorem Budgets.computeOnce (h : Budgets P) {s : State} (r : Bool) (before : P s) : P (s.computeOnce r) := by
  unfold State.computeOnce
  have judged : P s.judgeFloorShort := by
    unfold State.judgeFloorShort
    split
    · split
      · exact before
      · exact h.notice _ _ _ _ (h.results true s.share.target s.share.alloc s.share.slotAlloc s before)
    · exact h.results false s.share.target s.share.alloc s.share.slotAlloc s before
  exact h.distribute (h.results s.judgeFloorShort.share.floorShort _ _ s.judgeFloorShort.share.slotAlloc _ judged)

theorem Rounds.demandRound (h : Rounds P) {s : State} (before : P s) : P s.demandRound := by
  have taken : P s.takeDemands := h.charge _ _ before
  unfold State.demandRound
  dsimp only
  split
  · exact h.distribute taken
  · exact h.computeOnce false (h.sums _ _ taken)

theorem Rounds.settle (h : Rounds P) : ∀ (n : Nat) {s : State}, P s → P (settle n s)
  | 0, _, before => before
  | n + 1, s, before => by
    unfold Machine.settle
    split
    · exact Rounds.settle h n (h.demandRound before)
    · exact before

theorem Rounds.settled (h : Rounds P) {s : State} (before : P s) : P s.settled := h.settle _ before

theorem Rounds.compute (h : Rounds P) {s : State} (r : Bool) (before : P s) : P (s.compute r) := h.settled (h.computeOnce r before)

end

/-! ## Entries of the transmit queue -/

/-- A frame handed that is queued is new at its place; every other entry was there. -/
theorem lineHand_entry {f : TxFrame} {l : Line} {e : TxEntry} (queued : e ∈ (l.hand f).queue) : e ∈ l.queue ∨ e.frame = f := by
  unfold Line.hand at queued
  split at queued
  · exact .inl queued
  · rcases (mem_insertEntry _ _ _).mp queued with rfl | old
    · exact .inr rfl
    · exact .inl old

theorem refreshNeed_entry {f : TxFrame} {e : TxEntry} : ∀ {q : List TxEntry}, e ∈ refreshNeed f q → e ∈ q ∨ e.frame = f
  | [], held => absurd held (by simp [refreshNeed])
  | x :: xs, held => by
    unfold refreshNeed at held
    split at held
    · rcases List.mem_cons.mp held with rfl | held
      · exact .inr rfl
      · exact .inl (List.mem_cons_of_mem _ held)
    · rcases List.mem_cons.mp held with rfl | held
      · exact .inl List.mem_cons_self
      · exact (refreshNeed_entry held).imp_left (List.mem_cons_of_mem _)

theorem handNeed_entry {s : State} {e : TxEntry} (queued : e ∈ s.handNeed.line.queue) :
    e ∈ s.line.queue ∨ e.frame = .need s.share.state s.share.own := by
  change e ∈ (s.line.handNeed _).queue at queued
  unfold Line.handNeed at queued
  split at queued
  · exact refreshNeed_entry queued
  · exact lineHand_entry queued

theorem notice_entry {k : NoticeKind} {i : Option SlotNo} {d : Nat} {s : State} {e : TxEntry}
    (queued : e ∈ (s.notice k i d).line.queue) : e ∈ s.line.queue ∨ e.frame = .notice k i d := by
  unfold State.notice at queued
  split at queued
  · exact lineHand_entry queued
  · exact .inl queued

/-- The CLAIM entries of the queue meet a condition. -/
def State.ClaimEntries (Q : TxEntry → Prop) (s : State) : Prop := ∀ e ∈ s.line.queue, e.frame.isClaim = true → Q e

theorem judgeEarlyNeed_entry {s : State} {e : TxEntry} (queued : e ∈ s.judgeEarlyNeed.line.queue) :
    e ∈ s.line.queue ∨ e.frame = .need s.share.state s.share.own := by
  unfold State.judgeEarlyNeed at queued
  split at queued
  · split at queued
    · exact handNeed_entry queued
    · exact .inl queued
  · exact .inl queued

/-- A computation and a settling hand no CLAIM. -/
theorem claimEntries_rounds (Q : TxEntry → Prop) : Rounds (State.ClaimEntries Q) where
  notice k i d s held e queued claim := by
    rcases notice_entry queued with old | new
    · exact held e old claim
    · rw [new] at claim; cases claim
  charge _ _ held := held
  results _ _ _ _ _ held := held
  sums o s held e queued claim := by
    rcases judgeEarlyNeed_entry queued with old | new
    · exact held e old claim
    · rw [new] at claim; cases claim

/-! ## The clash (R45, R84) -/

theorem unclaimRequest_asked (i : SlotNo) (rs : List Request) : (unclaimRequest i rs).map Request.asked = rs.map Request.asked := by
  rw [unclaimRequest, List.map_map]
  exact List.map_congr_left fun r _ => by show Request.asked (if r.slot = i then _ else r) = _; split <;> rfl

/-- The requests of the claims that a clash withdraws keep what they ask and their order (R84). -/
theorem withdrawClaims_asked (s : State) :
    s.withdrawClaims.claims.requests.map Request.asked = s.claims.requests.map Request.asked := by
  have folded : ∀ (gone : List OwnClaim) (rs : List Request),
      (gone.foldl (fun rs c => if c.hasRequest then unclaimRequest c.slot rs else rs) rs).map Request.asked =
        rs.map Request.asked := by
    intro gone
    induction gone with
    | nil => exact fun _ => rfl
    | cons c gone ih =>
      intro rs
      rw [List.foldl_cons, ih]
      split
      · exact unclaimRequest_asked _ _
      · rfl
  exact folded _ _

theorem withdrawClaims_entries (s : State) :
    s.withdrawClaims.ClaimEntries (fun e => e.sending = true ∧ e.withdraw = true) := by
  intro e queued claim
  obtain ⟨x, held, made⟩ := List.mem_map.mp queued
  obtain ⟨_, stays⟩ := List.mem_filter.mp held
  split at made
  next isClaim =>
    subst made
    exact ⟨by simpa [isClaim] using stays, rfl⟩
  next other => subst made; exact absurd claim other

theorem withdrawClaims_own_mem {s : State} {c : OwnClaim} : c ∈ s.withdrawClaims.claims.own ↔
    c ∈ s.claims.own ∧ ¬ (c.expires = none ∧ c.waits s.line.queue = true) := by
  have list : s.withdrawClaims.claims.own =
      s.claims.own.filter (fun c => !(decide (c.expires = none) && c.waits s.line.queue)) := rfl
  rw [list, List.mem_filter]
  refine and_congr_right fun _ => ?_
  rw [Bool.not_eq_true', Bool.and_eq_false_iff, decide_eq_false_iff_not, not_and_or, Bool.not_eq_true]

/-- What the first good frame with the own address from elsewhere leaves (R45, R84). -/
theorem clash_result {s : State} (fresh : s.share.state ≠ .clashed) :
    let w := s.clash
    (w.share.state = .clashed ∧ w.share.peerHeard = s.share.peerHeard ∧ w.share.silenceAt = none ∧
      w.share.reportAt = s.share.reportAt ∧ w.share.listenCount = s.share.listenCount) ∧
    Noticed s w .shareState none 3 ∧ Computed 0 s w ∧ w.ClaimEntries (fun e => e.sending = true ∧ e.withdraw = true) ∧
    w.claims.requests.map Request.asked = s.claims.requests.map Request.asked ∧
    (∀ c, c ∈ w.claims.own ↔ c ∈ s.claims.own ∧ ¬ (c.expires = none ∧ c.waits s.line.queue = true)) ∧
    w.claims.tagCounter = s.claims.tagCounter ∧ w.claims.retryHold = s.claims.retryHold ∧
    Keeps [.standing, .requests, .charge, .share, .queue] s w := by
  let u := (s.setSilence none).changeShare .clashed
  have made : s.clash = u.withdrawClaims.compute false := if_neg fresh
  rw [made]
  have changed : Keeps [.standing, .queue] s u := ((setSilence_keeps none s).mono (by decide)).trans (changeShare_keeps _ _)
  have before : Keeps [.standing, .queue, .requests] s u.withdrawClaims :=
    (changed.mono (by decide)).trans ((withdrawClaims_keeps u).mono (by decide))
  obtain ⟨computed, frame⟩ := computed_after before (by decide)
  obtain ⟨requests, own, tag, hold⟩ := compute_keeps false u.withdrawClaims .requests (by decide)
  obtain ⟨heldRequests, heldOwn, heldTag, heldHold⟩ := changed .requests (by decide)
  have standing := compute_keeps false u.withdrawClaims .standing (by decide)
  have share : u.withdrawClaims.share = { s.share with state := .clashed, silenceAt := none } := changeShare_share _ _
  rw [same, share] at standing
  have noticed : Noticed s (u.withdrawClaims.compute false) .shareState none 3 :=
    changeShare_noticed (u := s.setSilence none) rfl rfl fresh ((withdrawClaims_grows u).trans (compute_grows _ _))
  have waits : ∀ c : OwnClaim, c.waits u.line.queue = c.waits s.line.queue := fun c => by
    show c.waits ((s.setSilence none).changeShare .clashed).line.queue = _
    rw [changeShare_of_ne (by exact fresh)]
    unfold State.notice
    split
    · show (Line.hand _ s.line).queue.any _ = _
      unfold Line.hand
      split
      · rfl
      · have noClaim : ∀ (o : Nat), (c.isFrame (TxEntry.frame { frame := .notice .shareState none 3, order := o }) &&
            !TxEntry.sending { frame := .notice .shareState none 3, order := o }) = false := fun o => rfl
        have inserted : ∀ q : List TxEntry, (insertEntry { frame := .notice .shareState none 3, order := s.line.nextOrder } q).any
            (fun e => c.isFrame e.frame && !e.sending) = q.any (fun e => c.isFrame e.frame && !e.sending) := by
          intro q
          induction q with
          | nil => rfl
          | cons x xs ih =>
            unfold insertEntry
            split
            · rw [List.any_cons, ih, List.any_cons]
            · rw [List.any_cons, noClaim, Bool.false_or]
        exact inserted _
    · rfl
  refine ⟨standing, noticed, computed, (claimEntries_rounds _).compute false (withdrawClaims_entries u), ?_, fun c => ?_, ?_, ?_,
    frame.mono (by decide)⟩
  · rw [requests, withdrawClaims_asked, heldRequests]
  · rw [own, withdrawClaims_own_mem, heldOwn, waits]
  · rw [tag]; exact heldTag
  · rw [hold]; exact heldHold

/-! ## Every frame is watched (R41, R43, R45, R143 to R147) -/

/-- The state at the end of a frame on the line, before its watch (R143). -/
def State.atFrameEnd (s : State) : State := { s with line := s.line.frameEnds }

theorem watched_strange {s : State} {src : Source} (strange : 8 ≤ src.val) : s.watched src = s.atFrameEnd := by
  rw [State.watched, State.watch, stationOf, dif_neg (Nat.not_lt.mpr strange)]; rfl

theorem watched_own {s : State} {src : Source} (own : src.val = s.address.val) : s.watched src = s.atFrameEnd.clash := by
  rw [State.watched, State.watch, stationOf_of_val own.symm]; exact if_pos rfl

theorem watchPeer_share (s : State) : s.watchPeer.share =
    { s.share with
      peerHeard := s.share.peerHeard || decide (s.share.state = .listen)
      silenceAt := if s.share.state = .joined then s.freshSilence else s.share.silenceAt } := by
  have watch : ∀ x, s.share.state = x → s.watchPeer.share =
      { s.share with
        peerHeard := s.share.peerHeard || decide (x = .listen)
        silenceAt := if x = .joined then s.freshSilence else s.share.silenceAt } := by
    intro x state
    unfold State.watchPeer
    cases x with
    | listen => simp [state]
    | joined => simp [state]
    | isolated => simp [state]; rw [← state]
    | clashed => simp [state]; rw [← state]
  exact watch _ rfl

/-- A frame given up: the bits of its end that were recessive count towards the ten (R143). -/
theorem abandonFrame_awaits {s : State} {read : List Bool} (receiving : s.line.phase = .receiving read) :
    AwaitsIdle read s.abandonFrame := by
  refine ⟨10 - trailingRecessive read, ?_, fun before n split last => ?_⟩
  · show LinePhase.busy (10 - s.line.phase.recessiveRun) = _
    rw [receiving]; rfl
  · rw [split, trailingRecessive_append before n last]

theorem abandonFrame_phase {s : State} (receives : s.line.phase.receives = true) (other : ∀ read, s.line.phase ≠ .receiving read) :
    s.abandonFrame.line.phase = .busy 10 := by
  show LinePhase.busy (10 - s.line.phase.recessiveRun) = _
  cases phase : s.line.phase <;> simp_all [LinePhase.receives, LinePhase.recessiveRun]

/-- Settles O27: the watch by the source of the frame, and what becomes of the frame by the line and its layout. -/
theorem everyFrameIsWatched : Obligations.EveryFrameIsWatched := by
  refine ⟨fun src s => ?_, fun s c cls src p running carries => ⟨fun deaf => ?_, fun receives long => ?_, fun receives short =>
    ⟨fun watchOnly => ?_, fun bad => ?_⟩⟩⟩
  · have ends : Keeps [.linePhase] s s.atFrameEnd := frameEnds_keeps s
    refine ⟨?_, fun strange => by rw [watched_strange strange]; exact ends, fun low other => ?_, fun own => ?_⟩
    · exact Eq.trans (b := s.atFrameEnd.line.phase) (watch_keeps src s.atFrameEnd .linePhase (by decide)) rfl
    · have peer : s.watched src = s.atFrameEnd.watchPeer :=
        watched_of_peer (a := ⟨src.val, low⟩) rfl fun eq => other (congrArg Fin.val eq)
      rw [peer, watchPeer_share]
      exact ⟨rfl, rfl, rfl, rfl, rfl, (ends.mono (by decide)).trans ((watchPeer_keeps _).mono (by decide))⟩
    · rw [watched_own own]
      by_cases clashed : s.share.state = .clashed
      · have stays : s.atFrameEnd.clash = s.atFrameEnd := if_pos clashed
        rw [stays]
        exact ⟨clashed, fun _ => ends, fun fresh => absurd clashed fresh⟩
      · obtain ⟨⟨state, heard, silent, report, listen⟩, noticed, computed, entries, asked, held, tag, hold, frame⟩ :=
          clash_result (s := s.atFrameEnd) clashed
        have joined : Computed 0 s s.atFrameEnd.clash := computed.after ends (by decide)
        refine ⟨state, fun h => absurd h clashed, fun _ => ⟨silent, noticed.of_queue rfl rfl, joined, entries, asked,
          fun c m => ((held c).mp m).1, fun c m decided => (held c).mpr ⟨m, fun ⟨undecided, _⟩ => ?_⟩, tag, hold, heard, report,
          listen, (ends.mono (by decide)).trans (frame.mono (by decide))⟩⟩
        rw [undecided] at decided
        cases decided
  · rw [exec_running running (exec_frame carries s), State.takeFrame, if_pos deaf]
  · refine ⟨s.abandonFrame, ?_, rfl, fun read receiving => abandonFrame_awaits receiving, abandonFrame_phase receives,
      abandonFrame_keeps s⟩
    rw [exec_running running (exec_frame carries s), State.takeFrame, if_neg (by simp [receives]), if_pos long]
  · rcases watchOnly with rfl | rfl
    · exact exec_taken carries running receives short rfl
    · exact exec_taken carries running receives short rfl
  · refine ⟨(s.watched src).countError, ?_, ?_, countError_keeps _⟩
    · rw [exec_running running (exec_frame carries s), State.takeFrame, if_neg (by simp [receives]), if_neg (by omega), if_pos bad]
      rfl
    · show min ((s.watched src).line.errors + 1) 65535 = _
      rw [watched_errors]

end Sys2Proof.Machine
end

section
/-! PROOF. A NEED at a report timer expiry and an early one (R42, R47 to R49, R58, R62, R63). -/

namespace Sys2Proof.Machine

/-! ## A NEED handed (R48, R149) -/

theorem insertEntry_perm (e : TxEntry) (q : List TxEntry) : (insertEntry e q).Perm (e :: q) := by
  induction q with
  | nil => exact .refl _
  | cons x xs ih =>
    rw [insertEntry]
    split
    · exact (ih.cons x).trans (.swap e x xs)
    · exact .refl _

theorem refreshNeed_waits {f : TxFrame} : ∀ {q : List TxEntry}, q.any (fun e => e.frame.isNeed && !e.sending) = true →
    ∃ e ∈ refreshNeed f q, e.frame = f ∧ e.sending = false
  | [], waits => absurd waits (by simp)
  | x :: xs, waits => by
    unfold refreshNeed
    split
    next first => exact ⟨_, List.mem_cons_self, rfl, by simp_all⟩
    next later =>
      obtain ⟨e, held, rest⟩ := refreshNeed_waits (q := xs) (by simpa [later] using waits)
      exact ⟨e, List.mem_cons_of_mem _ held, rest⟩

/-- A NEED waits once handed, where one waited or a general place is free (R148, R149). -/
theorem handNeed_waits {s : State} (place : s.line.needWaits = true ∨ s.line.generalUsed < 10) :
    s.handNeed.Waits (.need s.share.state s.share.own) := by
  show ∃ e ∈ (s.line.handNeed _).queue, _
  unfold Line.handNeed
  by_cases waits : s.line.needWaits = true
  · rw [if_pos waits]
    exact refreshNeed_waits waits
  · rw [if_neg waits]
    exact hand_waits _ s (.inr (place.resolve_left waits))

theorem waits_budgets (f : TxFrame) : Budgets (State.Waits f) where
  notice k i d s held := by
    obtain ⟨e, queued, rest⟩ := held
    unfold State.notice
    split
    · exact ⟨e, lineHand_mem _ _ _ queued, rest⟩
    · exact ⟨e, queued, rest⟩
  charge _ _ held := held
  results _ _ _ _ _ held := held

/-- A NEED with this sum was handed at this moment; it waits where there was room for it. -/
def State.JustSent (room : Prop) (f : TxFrame) (sum : Nat) (s : State) : Prop :=
  (room → s.Waits f) ∧ s.share.lastNeed = some s.clock ∧ s.share.lastSum = sum

theorem needSpaced_false {s : State} (now : s.share.lastNeed = some s.clock) : s.needSpaced = false := by
  simp only [State.needSpaced, now]
  exact decide_eq_false (by rw [momentAfter_eq]; unfold needSpacingMs; omega)

/-- No second NEED goes within the moment of the first (R49). -/
theorem justSent_rounds (room : Prop) (f : TxFrame) (sum : Nat) : Rounds (State.JustSent room f sum) where
  notice k i d s held := by
    obtain ⟨waits, need, sent⟩ := held
    have clock : (s.notice k i d).clock = s.clock := notice_keeps k i d s .clock (by decide)
    exact ⟨fun r => (waits_budgets f).notice k i d s (waits r), by rw [notice_share, clock]; exact need, by rw [notice_share]; exact sent⟩
  charge _ _ held := held
  results _ _ _ _ _ held := held
  sums o s held := by
    have close : ({ s with share := { s.share with own := o } } : State).needSpaced = false := needSpaced_false held.2.1
    unfold State.judgeEarlyNeed
    rw [close]
    split
    · exact held
    · exact held

theorem handNeed_keeps_records (s : State) : Keeps [.share, .queue] s s.handNeed := by
  intro p hp; cases p <;> simp_all [same, State.handNeed]

/-! ## The report timer (R42, R48) -/

theorem notice_room {k : NoticeKind} {i : Option SlotNo} {d : Nat} {s : State}
    (room : s.line.needWaits = true ∨ s.line.generalUsed < 9) :
    (s.notice k i d).line.needWaits = true ∨ (s.notice k i d).line.generalUsed < 10 := by
  unfold State.notice
  split
  · refine room.imp (fun waits => ?_) fun free => ?_
    · obtain ⟨e, held, isNeed⟩ := List.any_eq_true.mp waits
      exact List.any_eq_true.mpr ⟨e, lineHand_mem _ _ _ held, isNeed⟩
    · show (Line.hand _ s.line).generalUsed < 10
      unfold Line.hand
      split
      · exact free.trans (by decide)
      · show (List.filter _ (insertEntry _ s.line.queue)).length < 10
        rw [((insertEntry_perm _ _).filter _).length_eq, List.filter_cons]
        rw [show (!(TxEntry.mk (.notice k i d) s.line.nextOrder 0 false false).frame.isClaim) = true from rfl, if_pos rfl]
        exact Nat.succ_lt_succ free
  · exact room.imp_right fun free => free.trans (by decide)

/-- LISTEN has counted one more expiry (R42). -/
def State.listened (s : State) : State := { s with share := { s.share with listenCount := s.share.listenCount + 1 } }

theorem countListen_other {s : State} (other : s.share.state ≠ .listen) : s.countListen = s := if_neg other

theorem countListen_waits {s : State} (listens : s.share.state = .listen) (early : s.share.listenCount < 2) :
    s.countListen = s.listened := by
  unfold State.countListen
  rw [if_pos listens]
  exact if_pos (Nat.succ_lt_succ early)

theorem countListen_joins {s : State} (listens : s.share.state = .listen) (third : ¬ s.share.listenCount < 2)
    (heard : s.share.peerHeard = true ∨ s.cfg.stations = 1) : s.countListen = s.listened.enterJoined := by
  unfold State.countListen
  rw [if_pos listens]
  exact (if_neg (fun h => third (Nat.lt_of_succ_lt_succ h))).trans (if_pos heard)

theorem countListen_isolates {s : State} (listens : s.share.state = .listen) (third : ¬ s.share.listenCount < 2)
    (unheard : ¬ (s.share.peerHeard = true ∨ s.cfg.stations = 1)) : s.countListen = s.listened.enterIsolated := by
  unfold State.countListen
  rw [if_pos listens]
  exact (if_neg (fun h => third (Nat.lt_of_succ_lt_succ h))).trans (if_neg unheard)

/-- LISTEN at a report timer expiry: the count, and at the third expiry JOINED or ISOLATED with its notice (R42, R46). -/
structure Listened (s t u : State) : Prop where
  heard : t.share.peerHeard = s.share.peerHeard
  report : t.share.reportAt = s.share.reportAt
  outcome : if s.share.state = .listen then
      t.share.listenCount = s.share.listenCount + 1 ∧
      (if s.share.listenCount < 2 then t.share.state = .listen ∧ t.share.silenceAt = s.share.silenceAt
      else if s.share.peerHeard = true ∨ s.cfg.stations = 1 then
        t.share.state = .joined ∧ Noticed s u .shareState none 1 ∧
          t.share.silenceAt = (if s.cfg.stations = 1 then none else some (s.clock + 3 * s.cfg.reportPeriod * 250))
      else t.share.state = .isolated ∧ Noticed s u .shareState none 2 ∧ t.share.silenceAt = none)
    else t.share.listenCount = s.share.listenCount ∧ t.share.state = s.share.state ∧ t.share.silenceAt = s.share.silenceAt
  room : s.line.needWaits = true ∨ s.line.generalUsed < 9 → t.line.needWaits = true ∨ t.line.generalUsed < 10

theorem changeShare_room {x : ShareState} {s : State} (room : s.line.needWaits = true ∨ s.line.generalUsed < 9) :
    (s.changeShare x).line.needWaits = true ∨ (s.changeShare x).line.generalUsed < 10 := by
  unfold State.changeShare
  split
  · exact room.imp_right fun free => free.trans (by decide)
  · exact notice_room room

theorem countListen_listened {s u : State} (grows : Grows s.countListen u) : Listened s s.countListen u := by
  by_cases listens : s.share.state = .listen
  · by_cases early : s.share.listenCount < 2
    · rw [countListen_waits listens early]
      exact ⟨rfl, rfl, by rw [if_pos listens, if_pos early]; exact ⟨rfl, listens, rfl⟩,
        fun room => room.imp_right fun free => free.trans (by decide)⟩
    · by_cases heard : s.share.peerHeard = true ∨ s.cfg.stations = 1
      · rw [countListen_joins listens early heard] at grows ⊢
        have share := enterJoined_share s.listened
        have noticed : Noticed s u .shareState none 1 := changeShare_noticed (u := s.listened.setSilence s.listened.freshSilence)
          rfl rfl (by show s.share.state ≠ .joined; rw [listens]; decide) grows
        refine ⟨by rw [share]; rfl, by rw [share]; rfl, ?_, changeShare_room (s := s.listened.setSilence _)⟩
        rw [if_pos listens, if_neg early, if_pos heard, share]
        exact ⟨rfl, rfl, noticed, freshSilence_eq _⟩
      · rw [countListen_isolates listens early heard] at grows ⊢
        have share := enterIsolated_share s.listened
        have noticed : Noticed s u .shareState none 2 := changeShare_noticed (u := s.listened.setSilence none)
          rfl rfl (by show s.share.state ≠ .isolated; rw [listens]; decide) grows
        refine ⟨by rw [share]; rfl, by rw [share]; rfl, ?_, changeShare_room (s := s.listened.setSilence _)⟩
        rw [if_pos listens, if_neg early, if_neg heard, share]
        exact ⟨rfl, rfl, noticed, rfl⟩
  · rw [countListen_other listens]
    exact ⟨rfl, rfl, by rw [if_neg listens]; exact ⟨rfl, rfl, rfl⟩, fun room => room.imp_right fun free => free.trans (by decide)⟩

/-- What was done before a computation joins it where it left the own sums, the allocations and what the slots' records depend
on. -/
theorem computed_of_results {n : Nat} {ps : List Part} {s u t : State} (h : Computed n u t) (k : Keeps ps s u)
    (d : ∀ p ∈ [Part.charge, .monitor, .runs, .cfg], p ∉ ps) (own : u.share.own = s.share.own)
    (alloc : u.share.alloc = s.share.alloc) (slots : u.share.slotAlloc = s.share.slotAlloc) : Computed n s t where
  floorShort := h.floorShort
  target := h.target
  within := h.within
  ramp := alloc ▸ h.ramp
  slots := h.slots
  own sums := h.own (by rw [own, sums, sums_of_eq (k .charge (d _ (by simp)))])
  follow := (AllFollow.of_keeps k (d _ (by simp))).trans h.follow
  made := by
    obtain ⟨v, b, hc, ha, ho, hl, hm, hp, hg, rest⟩ := h.made
    exact ⟨v, b, hc.trans (k .charge (d _ (by simp))), ha.trans slots, ho.trans own, hl.trans alloc,
      hm.trans (k .monitor (d _ (by simp))), hp.trans (k .runs (d _ (by simp))).1, hg.trans (k .cfg (d _ (by simp))), rest⟩

/-- The report timer has started again (R48). -/
def State.reportsAgain (s : State) : State :=
  { s.reach s.share.reportAt with
    share := { s.share with reportAt := momentAfter s.share.reportAt s.cfg.reportPeriod } }

/-- REPORT_TIMER_EXPIRY (R42, R48, R62). -/
theorem report_hands {s : State} (running : s.mode = .running) :
    ∃ t, exec .reportTimerExpiry s = .next t ∧ t.clock = max s.clock s.share.reportAt ∧
      t.share.reportAt = s.share.reportAt + s.cfg.reportPeriod * 250 ∧ t.share.peerHeard = s.share.peerHeard ∧
      (if s.share.state = .listen then
        t.share.listenCount = s.share.listenCount + 1 ∧
        (if s.share.listenCount < 2 then t.share.state = .listen ∧ t.share.silenceAt = s.share.silenceAt
        else if s.share.peerHeard = true ∨ s.cfg.stations = 1 then
          t.share.state = .joined ∧ Noticed s t .shareState none 1 ∧
            t.share.silenceAt = (if s.cfg.stations = 1 then none else some (t.clock + 3 * s.cfg.reportPeriod * 250))
        else t.share.state = .isolated ∧ Noticed s t .shareState none 2 ∧ t.share.silenceAt = none)
      else t.share.listenCount = s.share.listenCount ∧ t.share.state = s.share.state ∧
        t.share.silenceAt = s.share.silenceAt) ∧
      t.share.lastNeed = some t.clock ∧ t.share.lastSum = s.share.own.total ∧
      (s.line.needWaits = true ∨ s.line.generalUsed < 9 → t.Waits (.need t.share.state s.share.own)) ∧
      (∃ v : State, t = v.compute true ∧ v.share.earlyDue = false ∧ v.share.own = s.share.own ∧
        v.share.lastSum = s.share.own.total ∧ v.share.lastNeed = some v.clock) ∧
      Computed s.cfg.rampStep s t ∧ Keeps [.clock, .standing, .charge, .share, .queue] s t := by
  let w := s.reportsAgain
  let v := w.countListen.handNeed
  have acts : exec .reportTimerExpiry s = .next (v.compute true) :=
    show execReportTimerExpiry s = _ from whileRunning_next running rfl
  have again : Keeps [.clock, .standing] s w := by intro p hp; cases p <;> simp_all [same, w, State.reportsAgain, State.reach]
  have counted : Keeps [.clock, .standing, .queue] s w.countListen :=
    (again.mono (by decide)).trans ((countListen_keeps w).mono (by decide))
  have before : Keeps [.clock, .standing, .share, .queue] s v :=
    (counted.mono (by decide)).trans ((handNeed_keeps_records w.countListen).mono (by decide))
  have frame : Keeps [.clock, .standing, .charge, .share, .queue] s (v.compute true) :=
    (before.mono (by decide)).trans ((compute_keeps true v).mono (by decide))
  obtain ⟨own, _, _, _, _, alloc, _, slots⟩ := counted .share (by decide)
  have clock : w.countListen.clock = max s.clock s.share.reportAt := countListen_keeps w .clock (by decide)
  have last : (v.compute true).clock = v.clock := compute_keeps true v .clock (by decide)
  obtain ⟨state, heard, silence, report, listen⟩ := compute_keeps true v .standing (by decide)
  have computed := compute_computed true v
  rw [if_pos rfl, show v.cfg = s.cfg from before .cfg (by decide)] at computed
  have joined := computed_of_results computed before (by decide) own alloc slots
  have sent : v.JustSent (s.line.needWaits = true ∨ s.line.generalUsed < 9)
      (.need w.countListen.share.state w.countListen.share.own) w.countListen.share.own.total :=
    ⟨fun room => handNeed_waits ((countListen_listened (Grows.refl w.countListen)).room room), rfl, rfl⟩
  obtain ⟨waits, need, sum⟩ := (justSent_rounds _ _ _).compute true sent
  obtain ⟨heardHere, reportHere, outcome, _⟩ :=
    countListen_listened (s := w) (u := v.compute true) ((handNeed_grows w.countListen).trans (compute_grows true v))
  have made : ∃ x : State, v.compute true = x.compute true ∧ x.share.earlyDue = false ∧ x.share.own = s.share.own ∧
      x.share.lastSum = s.share.own.total ∧ x.share.lastNeed = some x.clock := ⟨v, rfl, rfl, own, congrArg Demand.total own, rfl⟩
  generalize v.compute true = t at *
  refine ⟨t, acts, last.trans clock, report.trans reportHere, heard.trans heardHere, ?_, need, by rw [sum, own], fun room => ?_, made,
    joined, frame⟩
  · rw [state, silence, listen, last.trans clock]
    exact outcome
  · rw [state]
    show t.Waits (.need w.countListen.share.state s.share.own)
    rw [← own]
    exact waits room

/-! ## A round of changed demands (R47, R49, R58, R63) -/

/-- The demands are handed and the own sums taken over them (R47). -/
def State.summed (s : State) : State :=
  { s.takeDemands with share := { s.share with own := s.takeDemands.sums } }

theorem takeDemands_sums (s : State) : s.takeDemands.sums =
    { floor := sumSix (fun k => (s.demandNow k).floor), urgent := sumSix (fun k => (s.demandNow k).urgent)
      normal := sumSix (fun k => (s.demandNow k).normal) } := by
  unfold State.sums
  simp only [takeDemands_record]

theorem demandRound_same {s : State} (sums : s.takeDemands.sums = s.share.own) : s.demandRound = s.takeDemands.distribute :=
  if_pos sums

theorem demandRound_moved {s : State} (sums : s.takeDemands.sums ≠ s.share.own) :
    s.demandRound = s.summed.judgeEarlyNeed.computeOnce false := if_neg sums

theorem demandRound_own (s : State) : s.demandRound.share.own = s.takeDemands.sums := by
  by_cases sums : s.takeDemands.sums = s.share.own
  · rw [demandRound_same sums, distribute_share]; exact sums.symm
  · obtain ⟨_, _, _, judged⟩ := judgeEarlyNeed_share s.summed
    rw [demandRound_moved sums, computeOnce_share, judged]; rfl

theorem takeDemands_keeps_results (s : State) : Keeps [.charge] s s.takeDemands := by
  intro p hp; cases p <;> simp_all [same, State.takeDemands]

/-- Entries that are NEEDs meet a condition. -/
def State.NeedEntries (Q : TxEntry → Prop) (s : State) : Prop := ∀ e ∈ s.line.queue, e.frame.isNeed = true → Q e

/-- One computation hands no NEED. -/
theorem needEntries_budgets (Q : TxEntry → Prop) : Budgets (State.NeedEntries Q) where
  notice k i d s held e queued need := by
    rcases notice_entry queued with old | new
    · exact held e old need
    · rw [new] at need; cases need
  charge _ _ held := held
  results _ _ _ _ _ held := held

theorem needSpaced_iff {s : State} : s.needSpaced = true ↔ ∀ u, s.share.lastNeed = some u → u + 50 * 250 ≤ s.clock := by
  unfold State.needSpaced
  cases s.share.lastNeed with
  | none => simp
  | some u => exact decide_eq_true_iff.trans ⟨fun h w eq => Option.some.inj eq ▸ h, fun h => h u rfl⟩

theorem needDiffers_iff {s : State} : s.needDiffers = true ↔
    s.share.lastSum + s.cfg.reportDelta < s.share.own.total ∨ s.share.own.total + s.cfg.reportDelta < s.share.lastSum :=
  decide_eq_true_iff

theorem judgeEarlyNeed_hands {s : State} (far : s.needDiffers = true) (spaced : s.needSpaced = true) :
    s.judgeEarlyNeed = s.handNeed := by rw [State.judgeEarlyNeed, if_pos far, if_pos spaced]

theorem judgeEarlyNeed_owes {s : State} (far : s.needDiffers = true) (close : ¬ s.needSpaced = true) :
    s.judgeEarlyNeed = { s with share := { s.share with earlyDue := true } } := by
  rw [State.judgeEarlyNeed, if_pos far, if_neg close]

theorem judgeEarlyNeed_near {s : State} (near : ¬ s.needDiffers = true) : s.judgeEarlyNeed = s := by
  rw [State.judgeEarlyNeed, if_neg near]

theorem summed_keeps (s : State) : Keeps [.charge, .share] s s.summed := by
  intro p hp; cases p <;> simp_all [same, State.summed, State.takeDemands]

theorem judgeEarlyNeed_keeps_records (s : State) : Keeps [.share, .queue] s s.judgeEarlyNeed := by
  unfold State.judgeEarlyNeed
  refine Keeps.ite (Keeps.ite (handNeed_keeps_records s) ?_) (Keeps.refl _ _)
  intro p hp; cases p <;> simp_all [same]

/-- A round of changed demands: the sums, the early NEED, and the computation or the distribution (R47, R49, R58, R63). -/
theorem demandRound_result (s : State) :
    let t := s.demandRound
    let spaced := ∀ u, s.share.lastNeed = some u → u + 50 * 250 ≤ s.clock
    let far := s.share.lastSum + s.cfg.reportDelta < t.share.own.total ∨
      t.share.own.total + s.cfg.reportDelta < s.share.lastSum
    let unsent := t.share.lastSum = s.share.lastSum ∧ t.share.lastNeed = s.share.lastNeed ∧
      ∀ e ∈ t.line.queue, e.frame.isNeed = true → e ∈ s.line.queue
    t.share.own = { floor := sumSix (fun k => (s.demandNow k).floor), urgent := sumSix (fun k => (s.demandNow k).urgent)
                    normal := sumSix (fun k => (s.demandNow k).normal) } ∧
    (t.share.own ≠ s.share.own → far → spaced →
      t.share.lastSum = t.share.own.total ∧ t.share.lastNeed = some s.clock ∧ t.share.earlyDue = false ∧
        (s.line.needWaits = true ∨ s.line.generalUsed < 10 → t.Waits (.need s.share.state t.share.own))) ∧
    (t.share.own ≠ s.share.own → far → ¬ spaced → t.share.earlyDue = true ∧ unsent) ∧
    (t.share.own = s.share.own ∨ ¬ far → t.share.earlyDue = s.share.earlyDue ∧ unsent) ∧
    ∃ v : State, (∀ k, v.charge.get k = { s.charge.get k with demand := s.demandNow k }) ∧
      v.share.target = s.share.target ∧ v.share.alloc = s.share.alloc ∧ v.share.slotAlloc = s.share.slotAlloc ∧
      v.share.floorShort = s.share.floorShort ∧ Keeps [.charge, .share, .queue] s v ∧
      (t.share.own ≠ s.share.own → t = v.computeOnce false) ∧
      (t.share.own = s.share.own → v.share = s.share ∧ v.line = s.line ∧ Divided v t ∧ t.share.alloc = s.share.alloc ∧
        t.share.target = s.share.target ∧ t.share.floorShort = s.share.floorShort ∧ Keeps powerParts s t) := by
  intro t spaced far unsent
  have own : t.share.own = s.takeDemands.sums := demandRound_own s
  refine ⟨own.trans (takeDemands_sums s), ?_⟩
  by_cases sums : s.takeDemands.sums = s.share.own
  · have same : t.share.own = s.share.own := own.trans sums
    have eq : t = s.takeDemands.distribute := demandRound_same sums
    have share := distribute_share s.takeDemands
    rw [← eq] at share
    have entries : t.NeedEntries (fun e => e ∈ s.line.queue) := by
      rw [eq]
      exact (needEntries_budgets _).distribute (fun e queued _ => queued)
    refine ⟨fun moved => absurd same moved, fun moved => absurd same moved, fun _ => ⟨by rw [share]; rfl, by rw [share]; rfl,
      by rw [share]; rfl, entries⟩, s.takeDemands, takeDemands_record s, rfl, rfl, rfl, rfl,
      (takeDemands_keeps_results s).mono (by decide), fun moved => absurd same moved, fun _ => ⟨rfl, rfl, ?_, by rw [share]; rfl,
      by rw [share]; rfl, by rw [share]; rfl, demandRound_keeps s⟩⟩
    rw [eq]
    exact distribute_divided (Keeps.refl _ _) rfl (Orderly.refl _)
  · have differs : t.share.own ≠ s.share.own := by rw [own]; exact sums
    have eq : t = s.summed.judgeEarlyNeed.computeOnce false := demandRound_moved sums
    have share := computeOnce_share false s.summed.judgeEarlyNeed
    rw [← eq] at share
    obtain ⟨a, b, c, judged⟩ := judgeEarlyNeed_share s.summed
    have farHere : s.summed.needDiffers = true ↔ far := by
      rw [needDiffers_iff]
      show _ ↔ s.share.lastSum + s.cfg.reportDelta < t.share.own.total ∨ t.share.own.total + s.cfg.reportDelta < s.share.lastSum
      rw [own]; rfl
    have spacedHere : s.summed.needSpaced = true ↔ spaced := needSpaced_iff
    refine ⟨fun _ isFar isSpaced => ?_, fun _ isFar close => ?_, fun stays => ?_, s.summed.judgeEarlyNeed, fun k => ?_,
      by rw [judged]; rfl, by rw [judged]; rfl, by rw [judged]; rfl, by rw [judged]; rfl,
      ((summed_keeps s).mono (by decide)).trans ((judgeEarlyNeed_keeps_records _).mono (by decide)), fun _ => eq,
      fun same => absurd same differs⟩
    · rw [judgeEarlyNeed_hands (farHere.mpr isFar) (spacedHere.mpr isSpaced)] at eq share
      refine ⟨by rw [share]; rfl, by rw [share]; rfl, by rw [share]; rfl, fun room => ?_⟩
      rw [own, eq]
      exact (waits_budgets _).computeOnce false (handNeed_waits (s := s.summed) room)
    · rw [judgeEarlyNeed_owes (farHere.mpr isFar) (fun h => close (spacedHere.mp h))] at eq share
      refine ⟨by rw [share], by rw [share]; rfl, by rw [share]; rfl, ?_⟩
      rw [eq]
      exact (needEntries_budgets (fun e => e ∈ s.line.queue)).computeOnce false (fun e queued _ => queued)
    · rw [judgeEarlyNeed_near (fun h => stays.elim differs fun near => near (farHere.mp h))] at eq share
      refine ⟨by rw [share]; rfl, by rw [share]; rfl, by rw [share]; rfl, ?_⟩
      rw [eq]
      exact (needEntries_budgets (fun e => e ∈ s.line.queue)).computeOnce false (fun e queued _ => queued)
    · rw [judgeEarlyNeed_charge]
      exact takeDemands_record s k

/-! ## A due early NEED (R49) -/

theorem earlyNeedSpacing_due {s : State} (running : s.mode = .running) : .earlyNeedSpacing ∈ s.dueNow ↔
    s.share.earlyDue = true ∧ ∃ u, s.share.lastNeed = some u ∧ u + 50 * 250 ≤ s.clock := by
  rw [mem_dueNow_iff running]
  show _ ∈ s.shareDue ↔ _
  have report : .earlyNeedSpacing ∉ due s.clock (some s.share.reportAt) .reportTimerExpiry := fun h => by
    cases (mem_due.mp h).1
  have silence : .earlyNeedSpacing ∉ if s.share.state = .joined then due s.clock s.share.silenceAt .silenceTimerExpiry else [] :=
    fun h => by cases (mem_due.mp (List.mem_ite_nil_right.mp h).2).1
  have ceilings : .earlyNeedSpacing ∉ s.share.ceilings.flatMap (fun r => due s.clock r.expires (.ceilingRecordExpiry r.source)) :=
    fun h => by
      obtain ⟨r, _, held⟩ := List.mem_flatMap.mp h
      cases (mem_due.mp held).1
  have spacing : .earlyNeedSpacing ∈ (if s.share.earlyDue then
      due s.clock (s.share.lastNeed.map (momentAfter · needSpacingMs)) .earlyNeedSpacing else []) ↔
      s.share.earlyDue = true ∧ ∃ u, s.share.lastNeed = some u ∧ u + 50 * 250 ≤ s.clock := by
    rw [List.mem_ite_nil_right, mem_due]
    cases s.share.lastNeed <;> simp [momentAfter_eq, needSpacingMs]
  unfold State.shareDue
  rw [List.mem_append, List.mem_append, List.mem_append, List.mem_append, spacing]
  refine ⟨fun h => ?_, fun h => .inl (.inl (.inl (.inr h)))⟩
  rcases h with (((first | second) | third) | fourth) | fifth
  · exact absurd first report
  · exact second
  · exact absurd third silence
  · obtain ⟨a, _, held⟩ := List.mem_flatMap.mp fourth
    split at held
    · cases (mem_due.mp (List.mem_ite_nil_right.mp held).2).1
    · cases held
  · exact absurd fifth ceilings

theorem earlyNeedSpacing_hands {s : State} {u : Nat} (running : s.mode = .running) (due : s.share.earlyDue = true)
    (need : s.share.lastNeed = some u) :
    ∃ t, exec .earlyNeedSpacing s = .next t ∧ t.clock = max s.clock (u + 50 * 250) ∧
      (if s.share.lastSum + s.cfg.reportDelta < s.share.own.total ∨
          s.share.own.total + s.cfg.reportDelta < s.share.lastSum then
        t.share = { s.share with lastSum := s.share.own.total, lastNeed := some t.clock, earlyDue := false } ∧
          (s.line.needWaits = true ∨ s.line.generalUsed < 10 → t.Waits (.need s.share.state s.share.own))
      else t.share = { s.share with earlyDue := false } ∧ t.line = s.line) ∧
      t.charge = s.charge ∧ Keeps [.clock, .share, .queue] s t := by
  let w := s.reach (u + 50 * 250)
  have acts : exec .earlyNeedSpacing s = .next w.spaceNeed :=
    show execEarlyNeedSpacing s = _ from whileRunning_next running (by simp only [due, need]; rfl)
  have reached : Keeps [.clock, .share, .queue] s w := (reach_keeps _ s).mono (by decide)
  by_cases far : s.share.lastSum + s.cfg.reportDelta < s.share.own.total ∨
      s.share.own.total + s.cfg.reportDelta < s.share.lastSum
  · have hands : w.spaceNeed = w.handNeed := if_pos (needDiffers_iff.mpr far)
    rw [hands] at acts
    refine ⟨_, acts, rfl, ?_, rfl, reached.trans ((handNeed_keeps_records w).mono (by decide))⟩
    rw [if_pos far]
    exact ⟨rfl, fun room => handNeed_waits (s := w) room⟩
  · have drops : w.spaceNeed = { w with share := { w.share with earlyDue := false } } :=
      if_neg fun h => far (needDiffers_iff.mp h)
    rw [drops] at acts
    refine ⟨_, acts, rfl, ?_, rfl, reached.trans ?_⟩
    · rw [if_neg far]
      exact ⟨rfl, rfl⟩
    · intro p hp; cases p <;> simp_all [same]

end Sys2Proof.Machine
end

section
/-! PROOF. Demands and own sums through every operation: none leaves a demand open (R28) nor a difference of the own sums from the
last sent sum without an early NEED due (R49). -/

namespace Sys2Proof.Machine

/-! ## What the demands are computed from -/

/-- What the demands read of the slots: the meters, the due marks and the plan floors. -/
structure State.DemandsSame (s t : State) : Prop where
  cfg : t.cfg = s.cfg
  meters : ∀ k, (t.monitor.get k).q = (s.monitor.get k).q ∧ (t.monitor.get k).amps = (s.monitor.get k).amps ∧
    (t.monitor.get k).cable = (s.monitor.get k).cable
  floors : ∀ k, (t.plans.slots.get k).floor = (s.plans.slots.get k).floor
  charge : t.charge = s.charge
  marks : ∀ k u, ((t.custody.slots.get k).dueUntil = some u ∧ t.clock < u) ↔ ((s.custody.slots.get k).dueUntil = some u ∧ s.clock < u)

theorem isUrgent_iff {cfg : Record} {now : Nat} {m : MonitorSlot} {due : Option Nat} :
    isUrgent cfg now m due = true ↔ m.q < cfg.urgentCharge ∨ ∃ u, due = some u ∧ now < u := by
  cases due <;> simp [isUrgent]

/-- The demand of a slot reads the meters, the due mark that is still ahead, the plan floor and the charge record (R24, R28). -/
theorem slotDemand_congr {cfg : Record} {now then_ : Nat} {m n : MonitorSlot} {due mark : Option Nat} (floor : Nat) (c : ChargeSlot)
    (meters : n.q = m.q ∧ n.amps = m.amps ∧ n.cable = m.cable)
    (marks : ∀ u, (mark = some u ∧ then_ < u) ↔ (due = some u ∧ now < u)) :
    slotDemand cfg then_ n mark floor c = slotDemand cfg now m due floor c := by
  obtain ⟨q, amps, cable⟩ := meters
  have urgent : isUrgent cfg then_ n mark = isUrgent cfg now m due := by
    rw [Bool.eq_iff_iff, isUrgent_iff, isUrgent_iff, q]
    exact or_congr_right (exists_congr marks)
  have phase : ∀ power ph, phaseDemand cfg then_ n mark floor power c ph = phaseDemand cfg now m due floor power c ph := fun power ph => by
    unfold phaseDemand
    rw [urgent, cable]
  unfold slotDemand
  rw [measuredPower, measuredPower, amps]
  simp only [phase]

theorem State.DemandsSame.demandNow {s t : State} (h : s.DemandsSame t) (k : SlotNo) : t.demandNow k = s.demandNow k := by
  rw [State.demandNow, State.demandNow, h.cfg, h.floors, h.charge]
  exact slotDemand_congr _ _ (h.meters k) (h.marks k)

theorem State.DemandsSame.demandsMoved {s t : State} (h : s.DemandsSame t) (rests : s.demandsMoved = false) :
    t.demandsMoved = false := by
  rw [demandsMoved_eq_false_iff] at rests ⊢
  intro k
  rw [h.demandNow, h.charge]
  exact rests k

theorem demandsSame_of_clock {s t : State} (cfg : t.cfg = s.cfg) (clock : t.clock = s.clock)
    (meters : ∀ k, (t.monitor.get k).q = (s.monitor.get k).q ∧ (t.monitor.get k).amps = (s.monitor.get k).amps ∧
      (t.monitor.get k).cable = (s.monitor.get k).cable)
    (floors : ∀ k, (t.plans.slots.get k).floor = (s.plans.slots.get k).floor) (charge : t.charge = s.charge)
    (marks : ∀ k, (t.custody.slots.get k).dueUntil = (s.custody.slots.get k).dueUntil) : s.DemandsSame t :=
  ⟨cfg, meters, floors, charge, fun k u => by rw [marks k, clock]⟩

/-! ## What every operation keeps of them -/

/-- A slot that charges keeps its output on, and a difference of the own sums keeps its early NEED due (R29, R49). -/
structure Lights (s t : State) : Prop where
  lit : s.Lit → t.Lit
  need : s.NeedRight → t.NeedRight

/-- And demands at rest stay at rest. -/
structure Attends (s t : State) : Prop extends Lights s t where
  rest : s.Lit → s.demandsMoved = false → t.demandsMoved = false

/-- And the demands come to rest. -/
structure Rests (s t : State) : Prop extends Lights s t where
  rests : s.Lit → t.demandsMoved = false

theorem Lights.refl (s : State) : Lights s s := ⟨id, id⟩

theorem Lights.trans {s t u : State} (h : Lights s t) (k : Lights t u) : Lights s u := ⟨k.lit ∘ h.lit, k.need ∘ h.need⟩

theorem Attends.refl (s : State) : Attends s s := ⟨.refl s, fun _ => id⟩

theorem Attends.trans {s t u : State} (h : Attends s t) (k : Attends t u) : Attends s u :=
  ⟨h.toLights.trans k.toLights, fun lit rest => k.rest (h.lit lit) (h.rest lit rest)⟩

theorem Rests.attends {s t : State} (h : Rests s t) : Attends s t := ⟨h.toLights, fun lit _ => h.rests lit⟩

theorem Lights.rests {s t u : State} (h : Lights s t) (k : Rests t u) : Rests s u := ⟨h.trans k.toLights, fun lit => k.rests (h.lit lit)⟩

theorem Rests.trans {s t u : State} (h : Rests s t) (k : Attends t u) : Rests s u :=
  ⟨h.toLights.trans k.toLights, fun lit => k.rest (h.lit lit) (h.rests lit)⟩

theorem Attends.ite {s t u : State} {c : Prop} [Decidable c] (h : Attends s t) (k : Attends s u) :
    Attends s (if c then t else u) := by split <;> assumption

theorem Lights.ite {s t u : State} {c : Prop} [Decidable c] (h : Lights s t) (k : Lights s u) :
    Lights s (if c then t else u) := by split <;> assumption

theorem Rests.ite {s t u : State} {c : Prop} [Decidable c] (h : Rests s t) (k : Rests s u) :
    Rests s (if c then t else u) := by split <;> assumption

theorem attends_foldl {α : Type} (f : State → α → State) (h : ∀ s a, Attends s (f s a)) :
    ∀ (l : List α) (s : State), Attends s (l.foldl f s)
  | [], s => Attends.refl s
  | a :: l, s => (h s a).trans (attends_foldl f h l (f s a))

theorem attends_forSlots (f : SlotNo → State → State) (h : ∀ i s, Attends s (f i s)) (ks : List SlotNo) (s : State) :
    Attends s (forSlots ks f s) := attends_foldl (fun t k => f k t) (fun t k => h k t) ks s

theorem lights_foldl {α : Type} (f : State → α → State) (h : ∀ s a, Lights s (f s a)) :
    ∀ (l : List α) (s : State), Lights s (l.foldl f s)
  | [], s => Lights.refl s
  | a :: l, s => (h s a).trans (lights_foldl f h l (f s a))

theorem needRight_of_eq {s t : State} (cfg : t.cfg = s.cfg) (own : t.share.own = s.share.own)
    (sum : t.share.lastSum = s.share.lastSum) (need : t.share.lastNeed = s.share.lastNeed)
    (due : t.share.earlyDue = s.share.earlyDue) (h : s.NeedRight) : t.NeedRight := by
  unfold State.NeedRight at *
  rw [cfg, own, sum, need, due]
  exact h

/-- A change that the own sums, the last NEED and the charge records do not see. -/
theorem lights_of_keeps {ps : List Part} {s t : State} (h : Keeps ps s t) (n : ∀ p ∈ [Part.cfg, .share, .charge], p ∉ ps) :
    Lights s t := by
  have share := h .share (n _ (by simp))
  obtain ⟨own, sum, need, due, _⟩ := share
  have charge : t.charge = s.charge := h .charge (n _ (by simp))
  refine ⟨fun lit k => ?_, needRight_of_eq (h .cfg (n _ (by simp))) own sum need due⟩
  rw [charge]
  exact lit k

theorem attends_of_same {ps : List Part} {s t : State} (h : Keeps ps s t) (n : ∀ p ∈ [Part.cfg, .share, .charge], p ∉ ps)
    (same : s.DemandsSame t) : Attends s t := ⟨lights_of_keeps h n, fun _ => same.demandsMoved⟩

/-- A change that the demands do not see. -/
theorem attends_of_keeps {ps : List Part} {s t : State} (h : Keeps ps s t)
    (n : ∀ p ∈ [Part.cfg, .share, .charge, .clock, .monitor, .custody, .runs], p ∉ ps) : Attends s t := by
  have monitor : t.monitor = s.monitor := h .monitor (n _ (by simp))
  have runs := (h .runs (n _ (by simp))).1
  have custody : t.custody.slots = s.custody.slots := h .custody (n _ (by simp))
  refine attends_of_same h (fun p m => n p (by simp at m ⊢; tauto)) (demandsSame_of_clock (h .cfg (n _ (by simp)))
    (h .clock (n _ (by simp))) (fun k => by rw [monitor]; exact ⟨rfl, rfl, rfl⟩) (fun k => by rw [runs])
    (h .charge (n _ (by simp))) fun k => by rw [custody])

/-! ## Records of one slot -/

/-- A slot's monitor record changes in what the demands do not read. -/
theorem setMonitor_attends (i : SlotNo) {m : MonitorSlot} {s : State} (q : m.q = (s.monitor.get i).q)
    (amps : m.amps = (s.monitor.get i).amps) (cable : m.cable = (s.monitor.get i).cable) : Attends s (s.setMonitor i m) := by
  refine attends_of_same (setMonitor_keeps i m s) (by decide) (demandsSame_of_clock rfl rfl (fun k => ?_) (fun _ => rfl) rfl
    fun _ => rfl)
  rw [setMonitor_monitor, get_setAt]
  split
  next mine => subst mine; exact ⟨q, amps, cable⟩
  next => exact ⟨rfl, rfl, rfl⟩

/-- A slot's hold changes. -/
theorem setCustody_attends (i : SlotNo) {c : CustodySlot} {s : State} (due : c.dueUntil = (s.custody.slots.get i).dueUntil) :
    Attends s (s.setCustody i c) := by
  refine attends_of_same (setCustody_keeps i c s) (by decide) (demandsSame_of_clock rfl rfl (fun _ => ⟨rfl, rfl, rfl⟩)
    (fun _ => rfl) rfl fun k => ?_)
  rw [setCustody_custody, get_setAt]
  split
  next mine => subst mine; exact due
  next => rfl

/-- A slot's runs change under the same plan floor. -/
theorem setPlan_attends (i : SlotNo) {x : PlanSlot} {s : State} (floor : x.floor = (s.plans.slots.get i).floor) :
    Attends s (s.setPlan i x) := by
  refine attends_of_same (setPlan_keeps i x s) (by decide) (demandsSame_of_clock rfl rfl (fun _ => ⟨rfl, rfl, rfl⟩)
    (fun k => ?_) rfl fun _ => rfl)
  rw [setPlan_plans, get_setAt]
  split
  next mine => subst mine; exact floor
  next => rfl

theorem setHold_attends (i : SlotNo) (h : Option Hold) (s : State) : Attends s (s.setHold i h) := setCustody_attends i rfl

theorem setRun_attends (i : SlotNo) (r : Run) (s : State) : Attends s (s.setRun i r) := setPlan_attends i rfl

theorem appendRun_attends (id : PlanId) (i : SlotNo) (s : State) : Attends s (s.appendRun id i) := setPlan_attends i rfl

theorem hand_attends (f : TxFrame) (s : State) : Attends s (s.hand f) := attends_of_keeps (hand_keeps f s) (by decide)

theorem notice_attends (k : NoticeKind) (i : Option SlotNo) (d : Nat) (s : State) : Attends s (s.notice k i d) :=
  attends_of_keeps (notice_keeps k i d s) (by decide)

theorem setLatch_attends (i : SlotNo) (l : LatchSlot) (s : State) : Attends s (s.setLatch i l) :=
  attends_of_keeps (setLatch_keeps i l s) (by decide)

/-! ## Computations and settlings -/

/-- A round judges the early NEED wherever it moves the own sums (R49). -/
theorem judgeEarlyNeed_right (s : State) : s.judgeEarlyNeed.NeedRight := by
  intro far
  unfold State.judgeEarlyNeed at far ⊢
  by_cases differs : s.needDiffers = true
  · rw [if_pos differs] at far ⊢
    by_cases spaced : s.needSpaced = true
    · rw [if_pos spaced] at far
      have sent : s.handNeed.share.lastSum = s.handNeed.share.own.total := rfl
      omega
    · rw [if_neg spaced]
      refine ⟨rfl, ?_⟩
      show s.share.lastNeed.isSome = true
      unfold State.needSpaced at spaced
      cases need : s.share.lastNeed with
      | none => rw [need] at spaced; exact absurd rfl spaced
      | some u => rfl
  · rw [if_neg differs] at far
    exact absurd (needDiffers_iff.mpr far) differs

theorem computeOnce_needRight {s : State} (r : Bool) (h : s.NeedRight) : (s.computeOnce r).NeedRight := by
  have share := computeOnce_share r s
  exact needRight_of_eq (computeOnce_keeps r s .cfg (by decide)) (by rw [share]) (by rw [share]) (by rw [share]) (by rw [share]) h

theorem demandRound_needRight {s : State} (h : s.NeedRight) : s.demandRound.NeedRight := by
  by_cases sums : s.takeDemands.sums = s.share.own
  · have share := distribute_share s.takeDemands
    have cfg : s.takeDemands.distribute.cfg = s.cfg := distribute_keeps s.takeDemands .cfg (by decide)
    rw [demandRound_same sums]
    exact needRight_of_eq cfg (by rw [share]; rfl) (by rw [share]; rfl) (by rw [share]; rfl) (by rw [share]; rfl) h
  · rw [demandRound_moved sums]
    exact computeOnce_needRight false (judgeEarlyNeed_right _)

theorem settle_needRight : ∀ (n : Nat) {s : State}, s.NeedRight → (settle n s).NeedRight
  | 0, _, h => h
  | n + 1, s, h => by
    unfold settle
    split
    · exact settle_needRight n (demandRound_needRight h)
    · exact h

theorem settled_rest (s : State) : Rests s s.settled := ⟨⟨settled_lit, settle_needRight _⟩, settled_rests⟩

theorem computeOnce_lights (r : Bool) (s : State) : Lights s (s.computeOnce r) := ⟨computeOnce_lit r, computeOnce_needRight r⟩

theorem compute_rest (r : Bool) (s : State) : Rests s (s.compute r) := (computeOnce_lights r s).rests (settled_rest _)

theorem compute_attends (r : Bool) (s : State) : Attends s (s.compute r) := (compute_rest r s).attends

/-- A charge record changes, its output on where it charges. -/
theorem updateCharge_lights (i : SlotNo) {f : ChargeSlot → ChargeSlot} {s : State}
    (lit : (s.charge.get i).Lit → (f (s.charge.get i)).Lit) : Lights s (s.updateCharge i f) := by
  refine ⟨fun all k => ?_, ?_⟩
  · by_cases mine : k = i
    · subst mine
      rw [updateCharge_same]
      exact lit (all k)
    · rw [updateCharge_others i f s k mine]
      exact all k
  · obtain ⟨own, sum, need, due, _⟩ := updateCharge_frame i f s .share (by decide)
    exact needRight_of_eq (updateCharge_frame i f s .cfg (by decide)) own sum need due

theorem chargeEvent_rest (i : SlotNo) {f : ChargeSlot → ChargeSlot} {s : State}
    (lit : (s.charge.get i).Lit → (f (s.charge.get i)).Lit) : Rests s (s.chargeEvent i f) :=
  (updateCharge_lights i lit).rests (settled_rest _)

/-! ## Moves of a charge record (R20 to R36) -/

theorem lit_of_phase {c : ChargeSlot} (h : ∀ ph, c.phase ≠ .charging ph) : c.Lit := fun ph charges => absurd charges (h ph)

theorem enter_lit (cfg : Record) (m : MonitorSlot) (p : Nat) (dest : ChargePhase) (c : ChargeSlot) : (c.enter cfg m p dest).Lit := by
  unfold ChargeSlot.enter
  split
  · exact fun _ _ => rfl
  · exact lit_of_phase nofun

theorem enterDetect_lit (now p : Nat) (c : ChargeSlot) : (c.enterDetect now p).Lit := by
  unfold ChargeSlot.enterDetect
  dsimp only
  split <;> exact lit_of_phase nofun

theorem enterFaulted_lit (now : Nat) (m : MonitorSlot) (kind : FaultKind) (c : ChargeSlot) : (c.enterFaulted now m kind).Lit :=
  lit_of_phase nofun

theorem onLane_lit (cfg : Record) (now : Nat) (m : MonitorSlot) (path : Path) (v : Volts) (c : ChargeSlot) :
    (c.onLane cfg now m path v).Lit := by
  unfold ChargeSlot.onLane
  split
  next off => exact lit_of_phase fun ph charges => by rw [show c.phase = .charging ph from charges] at off; cases off
  · exact lit_of_phase nofun
  · exact lit_of_phase nofun
  · exact lit_of_phase nofun
  · exact lit_of_phase nofun
  next k t faulted => exact lit_of_phase fun ph charges => by rw [show c.phase = .charging ph from charges] at faulted; cases faulted

theorem insert_lit (cfg : Record) (now p : Nat) (cable : CableClass) (c : ChargeSlot) : (c.insert cfg now p cable).Lit := by
  unfold ChargeSlot.insert
  dsimp only
  split
  · exact lit_of_phase nofun
  · exact enterDetect_lit _ _ _

end Sys2Proof.Machine
end

section
/-! PROOF. No operation leaves a demand open or a difference of the own sums without an early NEED due (R28, R49). -/

namespace Sys2Proof.Machine

/-- A change of the records that no demand reads. -/
theorem attends_of_parts {s t : State} (keeps : Keeps [.reserve, .requests, .claimList, .free, .permits, .queue, .linePhase, .lanes, .lamps,
    .standing, .peers, .ceilings] s t) : Attends s t := attends_of_keeps keeps (by decide)

theorem chargeEvent_attends (i : SlotNo) {f : ChargeSlot → ChargeSlot} {s : State}
    (lit : (s.charge.get i).Lit → (f (s.charge.get i)).Lit) : Attends s (s.chargeEvent i f) := (chargeEvent_rest i lit).attends

theorem setLanes_attends (x : Lanes) (s : State) : Attends s { s with lanes := x } :=
  attends_of_parts (by intro p hp; cases p <;> simp_all [same])

/-- The plan table changes under the same queues and floors. -/
theorem setTable_attends (table : List PlanRecord) (s : State) :
    Attends s { s with plans := { s.plans with table := table } } :=
  attends_of_same (ps := [.runs]) (by intro p hp; cases p <;> simp_all [same]) (by decide)
    (demandsSame_of_clock rfl rfl (fun _ => ⟨rfl, rfl, rfl⟩) (fun _ => rfl) rfl fun _ => rfl)

theorem setFloorOnly_lights (i : SlotNo) (x : PlanSlot) (s : State) : Lights s (s.setPlan i x) :=
  lights_of_keeps (setPlan_keeps i x s) (by decide)

theorem setMonitor_lights (i : SlotNo) (m : MonitorSlot) (s : State) : Lights s (s.setMonitor i m) :=
  lights_of_keeps (setMonitor_keeps i m s) (by decide)

theorem handNeed_attends (s : State) : Attends s s.handNeed where
  lit := id
  need _ far := by
    have sent : s.handNeed.share.lastSum = s.handNeed.share.own.total := rfl
    omega
  rest _ rests := rests

theorem jamReport_attends (i : SlotNo) (s : State) : Attends s (s.jamReport i) := setHold_attends _ _ _

theorem tamperReport_attends (i : SlotNo) (c : TamperCause) (found : Bool) (s : State) :
    Attends s (s.tamperReport i c found) := by
  unfold State.tamperReport
  exact Attends.ite (Attends.refl _) (((setHold_attends _ _ _)).trans (notice_attends _ _ _ _))

theorem reportReserve_attends (s : State) : Attends s s.reportReserve := by
  unfold State.reportReserve
  refine Attends.trans ?_ (compute_attends _ _)
  exact attends_of_parts (by intro p hp; cases p <;> simp_all [same])

theorem enterClaim_attends (e : ClaimEntry) (s : State) : Attends s (s.enterClaim e) := by
  unfold State.enterClaim
  refine Attends.trans ?_ (reportReserve_attends _)
  exact attends_of_parts (by intro p hp; cases p <;> simp_all [same])

theorem addRequest_attends (i : SlotNo) (op : LatchOp) (n : Nat) (s : State) :
    Attends s (s.addRequest i op n) :=
  ((attends_of_keeps (setRequests_keeps _ _) (by decide))).trans (attends_of_keeps (handClaims_keeps _) (by decide))

theorem grantRelease_attends (i : SlotNo) (s : State) : Attends s (s.grantRelease i) :=
  ((setLatch_attends _ _ _)).trans (addRequest_attends _ _ _ _)

theorem jam_attends (i : SlotNo) (op : LatchOp) (s : State) : Attends s (s.jam i op) :=
  (((attends_of_keeps (setLatchState_keeps _ _ _) (by decide))).trans (notice_attends _ _ _ _)).trans
    (jamReport_attends _ _)

theorem throwWait_attends (i : SlotNo) (n : Nat) (s : State) : Attends s (s.throwWait i n) :=
  ((setLatch_attends _ _ _)).trans (addRequest_attends _ _ _ _)

theorem withdrawEnded_attends (i : SlotNo) (n : Nat) (s : State) : Attends s (s.withdrawEnded i n) := by
  unfold State.withdrawEnded
  split
  · exact (attends_of_keeps (openLatch_keeps _ _) (by decide))
  · exact Attends.ite (((setLatch_attends _ _ _)).trans (addRequest_attends _ _ _ _))
      (jam_attends _ _ _)
  · exact (attends_of_keeps (setLatchState_keeps _ _ _) (by decide))

theorem endWithdraw_attends (i : SlotNo) (s : State) : Attends s (s.endWithdraw i) := by
  unfold State.endWithdraw
  have h : ∀ l, Attends s (s.setLatch i l) := fun l => (setLatch_attends _ _ _)
  have k : ∀ l a, Attends s
      (if a = true then (s.setLatch i l).learnLatch i else (s.setLatch i l).withdrawEnded i (s.latch.get i).attempt) :=
    fun l a => Attends.ite ((h l).trans ((attends_of_keeps (learnLatch_keeps _ _) (by decide)))) ((h l).trans (withdrawEnded_attends _ _ _))
  exact Attends.ite ((k _ _).trans (tamperReport_attends _ _ _ _)) (k _ _)

theorem endThrow_attends (i : SlotNo) (s : State) : Attends s (s.endThrow i) := by
  unfold State.endThrow
  refine Attends.trans ((attends_of_keeps (setLatch_keeps i _ s) (by decide))) (Attends.ite ((attends_of_keeps (learnLatch_keeps _ _) (by decide))) ?_)
  split
  · exact (setLatch_attends _ _ _)
  · exact Attends.ite (throwWait_attends _ _ _) (jam_attends _ _ _)
  · exact (attends_of_keeps (setLatchState_keeps _ _ _) (by decide))

theorem latchInsertion_attends (i : SlotNo) (f : Bool) (s : State) :
    Attends s (s.latchInsertion i f) := by
  unfold State.latchInsertion
  dsimp only
  split
  · exact (tamperReport_attends _ _ _ _)
  · exact (tamperReport_attends _ _ _ _)
  · exact (setLatch_attends _ _ _)
  · exact (attends_of_keeps (startOpenTimer_keeps _ _ _) (by decide))
  · exact Attends.refl _

theorem latchExtraction_attends (i : SlotNo) (s : State) : Attends s (s.latchExtraction i) := by
  unfold State.latchExtraction
  dsimp only
  split
  · exact (tamperReport_attends _ _ _ _)
  · exact (tamperReport_attends _ _ _ _)
  · exact (setLatch_attends _ _ _)
  · exact (attends_of_keeps (startOpenTimer_keeps _ _ _) (by decide))
  · exact Attends.refl _

theorem takeClaim_attends (e : ClaimEntry) (s : State) : Attends s (s.takeClaim e) :=
  Attends.ite (enterClaim_attends _ _) (Attends.refl _)

theorem ownAdmitted_attends (c : OwnClaim) (e : ClaimEntry) (s : State) : Attends s (s.ownAdmitted c e) := by
  unfold State.ownAdmitted
  have h : ∀ own : List OwnClaim, Attends s (({ s with claims := { s.claims with own := own } } : State).enterClaim e) := fun own =>
    (attends_of_parts (by intro p hp; cases p <;> simp_all [same])).trans (enterClaim_attends _ _)
  have marked := h (s.claims.own.map (fun x => if OwnClaim.matches c.tag c.op c.slot x then { x with expires := some e.expiry } else x))
  exact Attends.ite ((marked.trans (attends_of_keeps (setRequests_keeps _ _) (by decide))).trans (attends_of_keeps (drivePulse_keeps _ _ _ _) (by decide))) marked

theorem ownRefused_attends (c : OwnClaim) (s : State) : Attends s (s.ownRefused c) := by
  unfold State.ownRefused
  refine Attends.trans (Attends.ite ?_ ?_) (attends_of_keeps (handClaims_keeps _) (by decide))
  all_goals exact attends_of_parts (by intro p hp; cases p <;> simp_all [same])

theorem completeOwnClaim_attends (tag : Nat) (op : LatchOp) (i : SlotNo) (a d : Nat) (s : State) :
    Attends s (s.completeOwnClaim tag op i a d) := by
  unfold State.completeOwnClaim
  dsimp only
  split
  · exact takeClaim_attends _ _
  · exact Attends.ite (ownAdmitted_attends _ _ _) (ownRefused_attends _ _)

theorem expireClaims_attends (s : State) : Attends s s.expireClaims := by
  unfold State.expireClaims
  refine Attends.trans (Attends.trans ?_ (reportReserve_attends _)) (attends_of_keeps (handClaims_keeps _) (by decide))
  exact attends_of_parts (by intro p hp; cases p <;> simp_all [same])

theorem timeOutRelease_attends (i : SlotNo) (s : State) : Attends s (s.timeOutRelease i) := by
  unfold State.timeOutRelease
  exact ((((setLatch_attends _ _ _)).trans ((attends_of_keeps (setRequests_keeps _ _) (by decide)))).trans
    (notice_attends _ _ _ _)).trans
      ((attends_of_keeps (disownClaim_keeps _ _) (by decide)).trans (attends_of_keeps (handClaims_keeps _) (by decide)))

theorem laneDetached_attends (i : SlotNo) (s : State) : Attends s (s.laneDetached i) := by
  unfold State.laneDetached
  refine Attends.trans ?_ (chargeEvent_attends _ fun _ => onLane_lit _ _ _ _ _ _)
  exact attends_of_parts (by intro p hp; cases p <;> simp_all [same])

theorem laneAttached_attends (i : SlotNo) (s : State) : Attends s (s.laneAttached i) :=
  chargeEvent_attends _ fun _ => onLane_lit _ _ _ _ _ _

theorem detachLane_attends (l : LaneNo) (i : SlotNo) (s : State) :
    Attends s (s.detachLane l i) :=
  ((attends_of_keeps (moveLane_keeps _ _ _) (by decide))).trans (laneDetached_attends _ _)

theorem releaseLane_attends (i : SlotNo) (s : State) : Attends s (s.releaseLane i) := by
  unfold State.releaseLane
  split
  · exact detachLane_attends _ _ _
  · exact Attends.refl _

theorem forceRelease_attends (i : SlotNo) (s : State) : Attends s (s.forceRelease i) := by
  unfold State.forceRelease
  split
  · exact detachLane_attends _ _ _
  · exact Attends.refl _

theorem laneSide_attends (i : SlotNo) (x : LaneSide) (s : State) :
    Attends s (s.laneSide i x) := by
  cases x
  · exact releaseLane_attends _ _
  · exact forceRelease_attends _ _
  · exact Attends.refl _

theorem reportRun_attends (i : SlotNo) (r : Run) (o : Answer) (n : Nat) (s : State) : Attends s (s.reportRun i r o n) := by
  unfold State.reportRun
  split
  · exact Attends.refl _
  · exact (hand_attends _ s).trans (setTable_attends _ _)

theorem endRun_attends (i : SlotNo) (o : Answer) (n : Nat) (s : State) : Attends s (s.endRun i o n) := by
  unfold State.endRun
  split
  · exact Attends.refl _
  · exact (reportRun_attends _ _ _ _ _).trans (setPlan_attends _ (by rw [reportRun_slots]))

theorem setFloor_attends (i : SlotNo) (q : Nat) (s : State) : Attends s (s.setFloor i q) :=
  ((setFloorOnly_lights _ _ _).rests (settled_rest _)).attends

theorem finishHead_attends (i : SlotNo) (o : Answer) (x : LaneSide) (s : State) : Attends s (s.finishHead i o x) := by
  unfold State.finishHead
  split
  · exact Attends.refl _
  · exact (((setFloor_attends _ _ _).trans ((attends_of_keeps (leaveWaitList_keeps _ _) (by decide)))).trans
      (laneSide_attends _ _ _)).trans (endRun_attends _ _ _ _)

theorem begin_floor (id : PlanId) (phase : PlanPhase) (x : PlanSlot) : (x.begin_ id phase).floor = x.floor := by cases phase <;> rfl

theorem startRun_attends (i : SlotNo) (s : State) : Attends s (s.startRun i).1 := by
  unfold State.startRun
  split
  · exact Attends.refl _
  split
  · exact Attends.refl _
  split
  · exact Attends.refl _
  split
  · exact (endRun_attends _ _ _ _)
  · exact (setPlan_attends _ (begin_floor _ _ _))

theorem attachStep_attends (i : SlotNo) (r : Run) (p : PlanRecord) (s : State) : Attends s (s.attachStep i r p).1 := by
  unfold State.attachStep
  split
  · exact (setRun_attends _ _ _)
  split
  · exact finishHead_attends _ _ _ _
  · exact (setRun_attends _ _ _).trans <| setLanes_attends _ _

theorem performStep_attends (i : SlotNo) (s : State) : Attends s (s.performStep i).1 := by
  unfold State.performStep
  split
  · exact Attends.refl _
  split
  · exact Attends.refl _
  split
  · exact Attends.refl _
  split
  · exact Attends.refl _
  · exact attachStep_attends _ _ _ _
  · exact (setFloor_attends _ _ _)
  · exact (setRun_attends _ _ _)
  · split
    · exact Attends.refl _
    · exact (setRun_attends _ _ _)
  · exact (releaseLane_attends _ _).trans ((setRun_attends _ _ _))
  · exact (setPlan_attends _ rfl)

theorem advanceRun_attends (i : SlotNo) (s : State) : Attends s (s.advanceRun i).1 := by
  unfold State.advanceRun
  split
  · exact Attends.refl _
  split
  · exact Attends.refl _
  split
  · exact (setRun_attends _ _ _)
  · exact finishHead_attends _ _ _ _

theorem takeGrant_attends (i : SlotNo) (s : State) : Attends s (s.takeGrant i).1 := by
  unfold State.takeGrant
  split
  · exact Attends.refl _
  split
  · exact (setRun_attends _ _ _)
  · exact Attends.refl _

theorem grantStep_attends (s : State) : Attends s s.grantStep.1 := by
  unfold State.grantStep
  split
  · refine Attends.trans (Attends.trans (Attends.trans ?_ ((attends_of_keeps (moveLane_keeps _ _ _) (by decide))))
      (laneAttached_attends _ _)) (takeGrant_attends _ _)
    exact setLanes_attends _ _
  · exact ((attends_of_keeps (wakeLanes_keeps _) (by decide)).trans (attends_of_keeps (startIdle_keeps _) (by decide)))

theorem workStep_attends (w : Work) (s : State) : Attends s (s.workStep w).1 := by
  cases w
  · exact startRun_attends _ _
  · exact performStep_attends _ _
  · exact advanceRun_attends _ _
  · exact grantStep_attends _

theorem runWork_attends : ∀ (n : Nat) (ws : List Work) (s : State), Attends s (runWork n ws s)
  | 0, _, s => Attends.refl s
  | _ + 1, [], s => Attends.refl s
  | n + 1, w :: _, s => (workStep_attends w s).trans (runWork_attends n _ _)

theorem work_attends (ws : List Work) (s : State) : Attends s (s.work ws) := runWork_attends _ _ _

theorem finishAndStart_attends (i : SlotNo) (o : Answer) (x : LaneSide) (s : State) :
    Attends s (s.finishAndStart i o x) := (finishHead_attends _ _ _ _).trans (work_attends _ _)

theorem takePlan_attends (src : Source) (p : List Byte) (s : State) : Attends s (s.takePlan src p) := by
  unfold State.takePlan
  split
  · exact (hand_attends _ _)
  · refine Attends.trans (Attends.trans (Attends.trans ?_ (hand_attends _ _))
      ((attends_forSlots _ (fun i s => appendRun_attends _ i s) _ _))) (work_attends _ _)
    exact setTable_attends _ _

theorem takeGo_attends (p : List Byte) (s : State) : Attends s (s.takeGo p) := by
  unfold State.takeGo
  split
  · exact Attends.refl _
  split
  · exact Attends.refl _
  split
  · exact Attends.ite (work_attends _ _) (Attends.refl _)
  · exact Attends.refl _

theorem cancelSlot_attends (id : PlanId) (i : SlotNo) (s : State) : Attends s (s.cancelSlot id i) := by
  unfold State.cancelSlot
  split
  · exact Attends.refl _
  split
  · exact finishAndStart_attends _ _ _ _
  split
  · exact Attends.refl _
  · exact (reportRun_attends _ _ _ _ _).trans ((setPlan_attends _ (by rw [reportRun_slots])))

theorem takeCancel_attends (p : List Byte) (s : State) : Attends s (s.takeCancel p) :=
  Attends.ite (attends_forSlots _ (fun i s => cancelSlot_attends _ i s) _ _) (Attends.refl _)

theorem takeUnpin_attends (src : Source) (p : List Byte) (s : State) : Attends s (s.takeUnpin src p) := by
  unfold State.takeUnpin
  dsimp only
  split
  · exact (hand_attends _ _)
  · exact Attends.ite (hand_attends _ _)
      ((forceRelease_attends _ _).trans (hand_attends _ _))

theorem takeClass5_attends (src : Source) (p : List Byte) (s : State) : Attends s (s.takeClass5 src p) := by
  unfold State.takeClass5
  exact Attends.ite (Attends.refl _) (Attends.ite (Attends.ite ((attends_of_keeps (takeBuild_keeps _ _) (by decide))) (Attends.refl _))
    (Attends.ite (Attends.refl _) (Attends.ite (takePlan_attends _ _ _)
      (Attends.ite (takeGo_attends _ _) (Attends.ite (takeCancel_attends _ _)
        (takeUnpin_attends _ _ _))))))

theorem enumAsserted_attends (i : SlotNo) (s : State) : Attends s (s.enumAsserted i) := by
  unfold State.enumAsserted
  split
  · exact Attends.refl _
  split
  · exact work_attends _ _
  · exact (setRun_attends _ _ _)
  · exact (setRun_attends _ _ _)
  · exact Attends.refl _

theorem enumReleased_attends (i : SlotNo) (s : State) : Attends s (s.enumReleased i) := by
  unfold State.enumReleased
  split
  · exact Attends.refl _
  refine Attends.ite ?_ (Attends.refl _)
  split
  · exact (setRun_attends _ _ _)
  · exact (setRun_attends _ _ _)
  · exact Attends.refl _

theorem changeEnumerated_attends (l : LaneNo) (v : Level) (s : State) : Attends s (s.changeEnumerated l v) := by
  unfold State.changeEnumerated
  dsimp only
  split
  · exact ((attends_of_keeps (setLane_keeps _ _ _) (by decide))).trans (enumAsserted_attends _ _)
  · exact ((attends_of_keeps (setLane_keeps _ _ _) (by decide))).trans (enumReleased_attends _ _)
  · exact (attends_of_keeps (setLane_keeps _ _ _) (by decide))

theorem planLaneFault_attends (i : SlotNo) (s : State) : Attends s (s.planLaneFault i) :=
  Attends.ite (finishAndStart_attends _ _ _ _) (Attends.refl _)

theorem faultLane_attends (l : LaneNo) (s : State) : Attends s (s.faultLane l) := by
  unfold State.faultLane
  dsimp only
  have h : ∀ t : State, Attends s t →
      Attends s (match (s.lanes.table.get l).state.slot with
        | some i => (t.laneDetached i).planLaneFault i
        | none => t) := by
    intro t h
    split
    · exact (h.trans (laneDetached_attends _ _)).trans (planLaneFault_attends _ _)
    · exact h
  have k := h _ (attends_of_keeps (setLane_keeps l ({ s.lanes.table.get l with
    faults := (s.lanes.table.get l).faults + 1, faultIn := .asserted, faultPin := true, faultRun := {} }.move s.clock
      (if decide (faultLimit ≤ (s.lanes.table.get l).faults + 1) then .retired else .faulted none)) s) (by decide))
  exact Attends.ite ((k.trans (notice_attends _ _ _ _)).trans ((attends_of_keeps (wakeLanes_keeps _) (by decide))))
    (k.trans (notice_attends _ _ _ _))

theorem settleStart_attends (i : SlotNo) (s : State) : Attends s (s.settleStart i) := by
  unfold State.settleStart
  refine Attends.trans ?_ (attends_of_keeps (learnAtStart_keeps _ _) (by decide))
  exact setMonitor_attends i rfl rfl rfl

theorem changePresent_attends (i : SlotNo) (v : Level) (s : State) : Attends s (s.changePresent i v) := by
  unfold State.changePresent
  dsimp only
  split
  · refine Attends.trans ?_ (settleStart_attends _ _)
    exact setMonitor_attends i rfl rfl rfl
  · exact setMonitor_attends i rfl rfl rfl

theorem changeBolt_attends (i : SlotNo) (v : BoltReading) (s : State) : Attends s (s.changeBolt i v) := by
  unfold State.changeBolt
  dsimp only
  split
  · refine Attends.trans ?_ (attends_of_keeps (learnAtStart_keeps _ _) (by decide))
    exact setMonitor_attends i rfl rfl rfl
  · exact setMonitor_attends i rfl rfl rfl

theorem insert_rest (i : SlotNo) (code : Option Nat) (found : Bool) (s : State) : Rests s (s.insert i code found) := by
  unfold State.insert
  dsimp only
  have started : ∀ (m : MonitorSlot) (d : Nat) (p : Nat) (cable : CableClass) (u : State),
      Rests s ((((s.setMonitor i m).notice .inserted (some i) d).chargeEvent i
        (ChargeSlot.insert u.cfg u.clock p cable)).latchInsertion i found) := fun m d p cable u =>
    (((setMonitor_lights i m s).trans (notice_attends _ _ _ _).toLights).rests
      (chargeEvent_rest i fun _ => insert_lit _ _ _ _ _)).trans (latchInsertion_attends _ _ _)
  split
  · exact (started _ _ _ _ _).trans (settleStart_attends _ _)
  · exact started _ _ _ _ _

theorem failQueued_attends (i : SlotNo) (s : State) : Attends s (s.failQueued i) :=
  (attends_foldl _ (fun _ _ => reportRun_attends _ _ _ _ _) _ _).trans (setPlan_attends i (by rw [reportRuns_slots]))

theorem planExtraction_attends (i : SlotNo) (s : State) : Attends s (s.planExtraction i) := by
  unfold State.planExtraction
  refine Attends.trans (Attends.trans ?_ (finishHead_attends _ _ _ _)) (failQueued_attends _ _)
  exact setPlan_attends i rfl

/-- The due mark of a slot that is OFF counts for nothing (R28). -/
theorem setCustody_attends_of_off {i : SlotNo} {s : State} (c : CustodySlot) (off : (s.charge.get i).phase = .off) :
    Attends s (s.setCustody i c) := by
  refine ⟨lights_of_keeps (setCustody_keeps i c s) (by decide), fun _ rests => ?_⟩
  rw [demandsMoved_eq_false_iff] at rests ⊢
  intro k
  refine (rests k).trans ?_
  unfold State.demandNow
  rw [setCustody_custody, get_setAt]
  split
  next mine =>
    subst mine
    show slotDemand _ _ _ _ _ (s.charge.get k) = slotDemand _ _ _ _ _ (s.charge.get k)
    unfold slotDemand
    rw [off]
  next => rfl

theorem extract_lit (c : ChargeSlot) : c.extract.Lit := lit_of_phase fun _ charges => by cases charges

theorem extract_rest (i : SlotNo) (s : State) : Rests s (s.extract i) := by
  unfold State.extract
  dsimp only
  generalize hu : (s.setMonitor i (s.monitor.get i).clear).notice .extracted (some i) (s.monitor.get i).q = u
  have told : Lights s u := by
    rw [← hu]
    exact (setMonitor_lights _ _ _).trans (notice_attends _ _ _ _).toLights
  have started : Rests s ((u.chargeEvent i ChargeSlot.extract).latchExtraction i) :=
    (told.rests (chargeEvent_rest i fun _ => extract_lit _)).trans (latchExtraction_attends _ _)
  have off : (((u.chargeEvent i ChargeSlot.extract).latchExtraction i).charge.get i).phase = .off := by
    have kept : ((u.chargeEvent i ChargeSlot.extract).latchExtraction i).charge = (u.chargeEvent i ChargeSlot.extract).charge :=
      latchExtraction_keeps i _ .charge (by decide)
    rw [kept]
    exact (settled_isOff (s := u.updateCharge i ChargeSlot.extract) (by rw [updateCharge_same]; rfl)).1
  exact (((started.trans (setCustody_attends_of_off _ off)).trans (planExtraction_attends _ _)).trans
    (attends_of_keeps (leaveWaitList_keeps _ _) (by decide))).trans (forceRelease_attends _ _)

theorem faultSlot_rest (i : SlotNo) (k : FaultKind) (f : ChargeSlot → ChargeSlot) (s : State) : Rests s (s.faultSlot i k f) :=
  (notice_attends _ _ _ _).toLights.rests (chargeEvent_rest i fun _ => enterFaulted_lit _ _ _ _)

theorem publish_rest (i : SlotNo) (v a : Nat) (s : State) : Rests s (s.publish i v a) := by
  unfold State.publish
  dsimp only
  split
  · exact (setMonitor_lights _ _ _).rests (faultSlot_rest _ _ _ _)
  · exact (setMonitor_lights _ _ _).rests (chargeEvent_rest i fun lit => lit)

theorem integrate_rest (i : SlotNo) (m e : Nat) (s : State) : Rests s (s.integrate i m e) :=
  (setMonitor_lights _ _ _).rests (chargeEvent_rest i fun lit => lit)

theorem enterPhase_rest (i : SlotNo) (dest : ChargePhase) (s : State) : Rests s (s.enterPhase i dest) :=
  chargeEvent_rest i fun _ => enter_lit _ _ _ _ _

theorem endDetect_rest (i : SlotNo) (s : State) : Rests s (s.endDetect i) :=
  Rests.ite (chargeEvent_rest i fun _ => lit_of_phase nofun) (enterPhase_rest _ _ _)

theorem setCustody_lights (i : SlotNo) (c : CustodySlot) (s : State) : Lights s (s.setCustody i c) :=
  lights_of_keeps (setCustody_keeps i c s) (by decide)

theorem passDue_rest (i : SlotNo) (s : State) : Rests s (s.passDue i) := (setCustody_lights _ _ _).rests (settled_rest _)

theorem changeShare_attends (x : ShareState) (s : State) : Attends s (s.changeShare x) := by
  unfold State.changeShare
  refine Attends.ite (Attends.refl _) (Attends.trans ?_ (notice_attends _ _ _ _))
  exact attends_of_parts (by intro p hp; cases p <;> simp_all [same])

theorem enterJoined_attends (s : State) : Attends s s.enterJoined :=
  ((attends_of_keeps (setSilence_keeps _ _) (by decide))).trans (changeShare_attends _ _)

theorem enterIsolated_attends (s : State) : Attends s s.enterIsolated :=
  ((attends_of_keeps (setSilence_keeps _ _) (by decide))).trans (changeShare_attends _ _)

theorem countListen_attends (s : State) : Attends s s.countListen := by
  unfold State.countListen
  have h : ∀ n, Attends s { s with share := { s.share with listenCount := n } } := by
    exact fun n => attends_of_parts (by intro p hp; cases p <;> simp_all [same])
  exact Attends.ite (Attends.ite (h _) (Attends.ite ((h _).trans (enterJoined_attends _)) ((h _).trans (enterIsolated_attends _))))
    (Attends.refl _)

theorem report_attends (s : State) : Attends s s.report := by
  unfold State.report
  refine Attends.trans (Attends.trans (Attends.trans (t := { s with share := { s.share with
    reportAt := momentAfter s.share.reportAt s.cfg.reportPeriod } }) ?_ (countListen_attends _))
    (handNeed_attends _)) (compute_attends _ _)
  exact attends_of_parts (by intro p hp; cases p <;> simp_all [same])

theorem spaceNeed_attends (s : State) : Attends s s.spaceNeed := by
  unfold State.spaceNeed
  split
  next => exact handNeed_attends s
  next near => exact ⟨⟨id, fun _ far => absurd (needDiffers_iff.mpr far) near⟩, fun _ rests => rests⟩

theorem takeCeiling_attends (src : Source) (p : List Byte) (s : State) : Attends s (s.takeCeiling src p) := by
  unfold State.takeCeiling
  split
  next taken => exact (attends_of_keeps (setCeilings_keeps _ _) (by decide)).trans (compute_attends _ _)
  next => exact Attends.refl _

theorem takeNeed_attends (a : Station) (p : List Byte) (s : State) : Attends s (s.takeNeed a p) := by
  unfold State.takeNeed
  have h : ∀ x, Attends s (s.setPeer a x) := fun x => (attends_of_keeps (setPeer_keeps _ _ _) (by decide))
  exact (Attends.ite ((h _).trans (enterJoined_attends _)) (h _)).trans (compute_attends _ _)

theorem takeLeave_attends (a : Station) (s : State) : Attends s (s.takeLeave a) :=
  ((attends_of_keeps (setPeer_keeps _ _ _) (by decide))).trans (compute_attends _ _)

theorem clash_attends (s : State) : Attends s s.clash :=
  Attends.ite (Attends.refl _) (((((attends_of_keeps (setSilence_keeps _ _) (by decide))).trans
    (changeShare_attends _ _)).trans (attends_of_keeps (withdrawClaims_keeps _) (by decide))).trans
    (compute_attends _ _))

theorem watch_attends (src : Source) (s : State) : Attends s (s.watch src) := by
  unfold State.watch
  split
  · exact Attends.refl _
  · exact Attends.ite (clash_attends s) ((attends_of_keeps (watchPeer_keeps s) (by decide)))

theorem forceSlot_attends (i : SlotNo) (s : State) : Attends s (s.forceSlot i) :=
  (finishHead_attends _ _ _ _).trans (forceRelease_attends _ _)

theorem finishOpen_attends (k : PermitKind) (n : Nat) (i : SlotNo) (s : State) :
    Attends s (s.finishOpen k n i).1 := by
  unfold State.finishOpen
  split
  · exact Attends.refl _
  · exact grantRelease_attends _ _

theorem judgeOpen_attends (k : PermitKind) (n : Nat) (f : Bool) (i : SlotNo) (s : State) :
    Attends s (s.judgeOpen k n f i).1 := by
  unfold State.judgeOpen
  split
  · exact Attends.refl _
  split
  · split
    · exact (forceSlot_attends _ _).trans (finishOpen_attends _ _ _ _)
    · exact Attends.refl _
  · exact (finishOpen_attends _ _ _ _)

theorem judgeDue_attends (n : Nat) (i : SlotNo) (s : State) : Attends s (s.judgeDue n i).1 :=
  ((setCustody_lights _ _ _).rests (settled_rest _)).attends

theorem judgeLift_attends (n : Nat) (i : SlotNo) (s : State) : Attends s (s.judgeLift n i).1 := by
  unfold State.judgeLift
  split
  · exact Attends.refl _
  split
  · exact Attends.refl _
  split
  · exact (setHold_attends _ _ _).trans (attends_of_keeps (relearn_keeps _ _) (by decide))
  · exact setHold_attends _ _ _

theorem judgeSlot_attends (p : Permit) (k : PermitKind) (i : SlotNo) (s : State) :
    Attends s (s.judgeSlot p k i).1 := by
  unfold State.judgeSlot
  split
  · exact judgeOpen_attends _ _ _ _ _
  · exact judgeOpen_attends _ _ _ _ _
  · split
    · exact (judgeDue_attends _ _ _)
    · exact Attends.refl _
  · split
    · exact (setHold_attends _ _ _)
    · exact Attends.refl _
  · split
    · exact (judgeLift_attends _ _ _)
    · exact Attends.refl _
  · split <;> exact Attends.refl _

theorem judgeSlots_attends (p : Permit) (k : PermitKind) : ∀ (is : List SlotNo) (s : State),
    Attends s (judgeSlots p k is s)
  | [], s => Attends.refl s
  | i :: is, s => ((judgeSlot_attends p k i s).trans ((attends_of_keeps (addOutcome_keeps _ _) (by decide)))).trans
      (judgeSlots_attends p k is _)

theorem handVerdict_attends (n : Byte) (src : Source) (f : Nat) (s : State) : Attends s (s.handVerdict n src f) :=
  attends_of_keeps (handVerdict_keeps _ _ _ _) (by decide)

theorem afterPermit_attends (k : PermitKind) (is : List SlotNo) (s : State) :
    Attends s (s.afterPermit k is) := by
  unfold State.afterPermit
  split
  · exact attends_of_parts (by intro p hp; cases p <;> simp_all [same])
  · exact (work_attends _ _)

theorem judgeIn_attends (p : Permit) (f : SlotNo) (is : List SlotNo) (s : State) :
    Attends s (s.judgeIn p f is) := by
  unfold State.judgeIn
  dsimp only
  split
  · exact ((attends_foldl _ (fun _ _ => attends_of_keeps (addOutcome_keeps _ _) (by decide)) _ _)).trans
      (handVerdict_attends _ _ _ _)
  · exact ((judgeSlots_attends _ _ _ _).trans (handVerdict_attends _ _ _ _)).trans
      (afterPermit_attends _ _ _)

theorem judgePermit_attends (p : Permit) (s : State) : Attends s (s.judgePermit p) := by
  unfold State.judgePermit
  split
  · exact Attends.refl _
  · exact judgeIn_attends _ _ _ _

theorem takePermit_attends (src : Source) (p : List Byte) (s : State) : Attends s (s.takePermit src p) := by
  unfold State.takePermit
  refine Attends.ite ?_ (judgePermit_attends _ _)
  exact attends_of_parts (by intro p hp; cases p <;> simp_all [same])

theorem answer_attends (b : List Byte) (s : State) : Attends s (s.answer b) :=
  attends_of_keeps (answer_keeps _ _) (by decide)

theorem takeQuery_attends (src : Source) (p : List Byte) (s : State) : Attends s (s.takeQuery src p) := by
  unfold State.takeQuery
  refine Attends.ite (Attends.refl _) (Attends.ite (answer_attends _ _) (Attends.ite ?_ (Attends.refl _)))
  split
  · exact answer_attends _ _
  · exact Attends.refl _

theorem takeClass2_attends (src : Source) (p : List Byte) (s : State) : Attends s (s.takeClass2 src p) := by
  unfold State.takeClass2
  split
  · exact Attends.refl _
  · exact Attends.ite (takeNeed_attends _ _ _) (takeLeave_attends _ _)

theorem consume_attends (c : Nat) (src : Source) (p : List Byte) (s : State) : Attends s (s.consume c src p) := by
  unfold State.consume
  split
  · exact (takeClaim_attends _ _)
  · exact (takeCeiling_attends _ _ _)
  · exact (takeClass2_attends _ _ _)
  · exact (takePermit_attends _ _ _)
  · exact (takeClass5_attends _ _ _)
  · exact (takeQuery_attends _ _ _)
  · exact Attends.refl _

theorem frameEnds_attends (s : State) : Attends s { s with line := s.line.frameEnds } :=
  attends_of_keeps (frameEnds_keeps s) (by decide)

theorem takeFrame_attends (c : Nat) (src : Source) (p : List Byte) (s : State) : Attends s (s.takeFrame c src p) := by
  unfold State.takeFrame
  refine Attends.ite (Attends.refl _) (Attends.ite (attends_of_keeps (abandonFrame_keeps _) (by decide)) ?_)
  have h := (frameEnds_attends s).trans
    (watch_attends src { s with line := s.line.frameEnds })
  exact Attends.ite (h.trans ((attends_of_keeps (countError_keeps _) (by decide)))) (h.trans (consume_attends _ _ _ _))

theorem claimGone_attends (f : Bool) (x : TxFrame) (s : State) : Attends s (s.claimGone f x) := by
  unfold State.claimGone
  split
  · exact ((attends_of_keeps (endOwnClaim_keeps _ _ _ _ _) (by decide))).trans (attends_of_keeps (handClaims_keeps _) (by decide))
  · exact Attends.refl _

theorem restartShare_attends (s : State) : Attends s s.restartShare := by
  unfold State.restartShare
  exact Attends.trans (t := { s with share := { s.share with
    peerHeard := false, listenCount := 0, silenceAt := none, reportAt := momentAfter s.clock s.cfg.reportPeriod
    peers := #v[none, none, none, none, none, none, none, none], ceilings := [], floorShort := false } })
    ⟨⟨id, id⟩, fun _ rests => rests⟩ ((changeShare_attends _ _).trans (compute_attends _ _))

theorem restartClaims_attends (s : State) : Attends s s.restartClaims :=
  attends_of_keeps (ps := [.requests, .claimList, .queue]) (by intro p hp; cases p <;> simp_all [same, State.restartClaims]) (by decide)

theorem restartPulses_attends (s : State) : Attends s s.restartPulses :=
  ((restartClaims_attends s).trans ((attends_forSlots _ (fun i s => attends_of_keeps (restartLatch_keeps i s) (by decide)) _ _))).trans
    (reportReserve_attends _)

theorem reportRestarted_attends (i : SlotNo) : ∀ (rs : List Run) (s : State),
    Attends s (s.reportRestarted i rs)
  | [], s => Attends.refl s
  | _ :: _, _ => (reportRun_attends _ _ _ _ _).trans (attends_foldl _ (fun _ _ => reportRun_attends _ _ _ _ _) _ _)

theorem restartPlan_lights (i : SlotNo) (s : State) : Lights s (s.restartPlan i) :=
  (reportRestarted_attends _ _ _).toLights.trans (setFloorOnly_lights _ _ _)

theorem restartPlans_attends (s : State) : Attends s s.restartPlans := by
  unfold State.restartPlans
  have plans : Lights s (forSlots allSlots State.restartPlan s) := lights_foldl _ (fun s i => restartPlan_lights i s) _ _
  exact ((plans.trans (setTable_attends _ _).toLights).rests (settled_rest _)).attends

theorem restartLane_attends (l : LaneNo) (s : State) : Attends s (s.restartLane l) := by
  unfold State.restartLane
  dsimp only
  split
  · exact ((attends_of_keeps (setLane_keeps _ _ _) (by decide))).trans (detachLane_attends _ _ _)
  · exact ((attends_of_keeps (setLane_keeps _ _ _) (by decide))).trans ((attends_of_keeps (moveLane_keeps _ _ _) (by decide)))
  · exact (attends_of_keeps (setLane_keeps _ _ _) (by decide))

theorem restartLanes_attends (s : State) : Attends s s.restartLanes := by
  unfold State.restartLanes
  exact (setLanes_attends _ _).trans (attends_foldl _ (fun _ _ => restartLane_attends _ _) _ _)

theorem restartStages_attends (s : State) : Attends s s.restartStages :=
  ((((hand_attends _ _).trans (restartShare_attends _)).trans
    (restartPulses_attends _)).trans (restartPlans_attends _)).trans
    (restartLanes_attends _)

theorem judgeWaiting_attends : ∀ (ps : List (Source × List Byte)) (s : State), Attends s (judgeWaiting ps s)
  | [], s => Attends.refl s
  | (src, p) :: rest, s => by
    unfold judgeWaiting
    refine Attends.ite ?_ ((judgePermit_attends _ _).trans (judgeWaiting_attends rest _))
    exact attends_of_parts (by intro p hp; cases p <;> simp_all [same])

theorem completeRestart_attends (s : State) : Attends s s.completeRestart := by
  unfold State.completeRestart
  exact Attends.trans (t := { s with custody := { s.custody with restartDue := false, waiting := [] } })
    (attends_of_parts (by intro p hp; cases p <;> simp_all [same])) (judgeWaiting_attends _ _)

/-! ## Every act -/

theorem setLine_attends (l : Line) (s : State) : Attends s (s.setLine l) := attends_of_keeps (setLine_keeps _ _) (by decide)

theorem backToWaiting_attends (e : TxEntry) (s : State) : Attends s (s.backToWaiting e) := by
  unfold State.backToWaiting
  exact Attends.ite ((setLine_attends _ _).trans (claimGone_attends _ _ _)) (setLine_attends _ _)

theorem breakAttempt_attends (e : TxEntry) (s : State) : Attends s (s.breakAttempt e) := by
  unfold State.breakAttempt
  exact Attends.ite (((setLine_attends _ _).trans (setLine_attends _ _)).trans (claimGone_attends _ _ _))
    ((setLine_attends _ _).trans (backToWaiting_attends _ _))

theorem completeAttempt_attends (e : TxEntry) (s : State) : Attends s (s.completeAttempt e) := by
  unfold State.completeAttempt State.ownFrame
  split
  · exact (setLine_attends _ _).trans (completeOwnClaim_attends _ _ _ _ _ _)
  · exact setLine_attends _ _

theorem Act.attends {s t : State} (h : Act s t) : Attends s t := by
  cases h
  case still => exact Attends.refl s
  case changePresent i v _ => exact changePresent_attends i v s
  case changeBolt i v _ => exact changeBolt_attends i v s
  case insert i code u found settling => exact (insert_rest i code found s).attends
  case extract i u leaving => exact (extract_rest i s).attends
  case publish i volts amps => exact (publish_rest i volts amps s).attends
  case overCurrent i judged => exact (faultSlot_rest i _ _ s).attends
  case integrate i mean u => exact (integrate_rest i mean u s).attends
  case endDetect i u detects => exact (endDetect_rest i s).attends
  case enterPhase i dest charges _ => exact (enterPhase_rest i dest s).attends
  case retry i k u _ => exact chargeEvent_attends i fun _ => enterDetect_lit _ _ _
  case passDue i => exact (passDue_rest i s).attends
  case report => exact report_attends s
  case spaceNeed => exact spaceNeed_attends s
  case fallSilent => exact (enterIsolated_attends s).trans (compute_attends _ _)
  case agePeer a p => exact (attends_of_keeps (setPeer_keeps a p s) (by decide)).trans (compute_attends _ _)
  case dropCeiling src => exact (attends_of_keeps (setCeilings_keeps _ _) (by decide)).trans (compute_attends _ _)
  case frame cls src p => exact takeFrame_attends cls src p s
  case expireClaims u _ _ => exact expireClaims_attends s
  case endWithdraw i u _ => exact endWithdraw_attends i s
  case endThrow i u _ => exact endThrow_attends i s
  case timeOutRelease i u _ => exact timeOutRelease_attends i s
  case throwWait i x u _ => exact throwWait_attends i 1 s
  case restart _ => exact (restartStages_attends s).trans (completeRestart_attends _)
  case finish i outcome x _ _ _ => exact finishAndStart_attends i outcome .release s
  case endPause i u _ => exact work_attends _ s
  case changeEnumerated l v => exact changeEnumerated_attends l v s
  case faultAgain l u _ => exact attends_of_keeps (setLane_keeps l _ s) (by decide)
  case faultLane l _ _ => exact faultLane_attends l s
  case startClear l u _ => exact attends_of_keeps (setLane_keeps l _ s) (by decide)
  case releaseFault l => exact attends_of_keeps (setLane_keeps l _ s) (by decide)
  case endClear l u _ => exact attends_of_keeps (moveLane_keeps l _ s) (by decide)
  case endWake u => exact (attends_of_keeps (endWake_keeps u s) (by decide)).trans (work_attends _ _)
  case endIdle l u _ =>
    exact (attends_of_keeps (moveLane_keeps l _ s) (by decide)).trans (attends_of_keeps (wakeLanes_keeps _) (by decide))
  case endScrub l u _ => exact (attends_of_keeps (moveLane_keeps l _ s) (by decide)).trans (work_attends _ _)
  case abandon => exact attends_of_keeps (abandonFrame_keeps s) (by decide)
  case crcError => exact setLine_attends _ s
  case lineIdle => exact setLine_attends _ s
  case attempt e waits => exact attends_of_keeps (attempt_keeps e s) (by decide)
  case loseAttempt u read e _ sent => exact (setLine_attends _ s).trans (backToWaiting_attends e _)
  case breakAttempt u read e _ sent => exact breakAttempt_attends e s
  case completeAttempt u read e _ _ => exact completeAttempt_attends e s
  case tickLamps => exact attends_of_keeps (ps := [.lamps]) (by intro p hp; cases p <;> simp_all [same]) (by decide)

end Sys2Proof.Machine
end

section
/-! PROOF. Demands and early NEEDs through every step (R28, R49). -/

namespace Sys2Proof.Machine

/-! ## The moment of an act -/

theorem Act.clock {s t : State} (h : Act s t) : t.clock = s.clock := by
  cases h
  case still => rfl
  case changePresent i v _ => exact changePresent_keeps i v s .clock (by decide)
  case changeBolt i v _ => exact changeBolt_keeps i v s .clock (by decide)
  case insert i code u found settling => exact insert_keeps i code found s .clock (by decide)
  case extract i u leaving => exact extract_keeps i s .clock (by decide)
  case publish i volts amps => exact publish_keeps i volts amps s .clock (by decide)
  case overCurrent i judged => exact faultSlot_keeps i _ _ s .clock (by decide)
  case integrate i mean u => exact integrate_keeps i mean u s .clock (by decide)
  case endDetect i u detects => exact endDetect_keeps i s .clock (by decide)
  case enterPhase i dest charges _ => exact chargeEvent_keeps i _ s .clock (by decide)
  case retry i k u _ => exact chargeEvent_keeps i _ s .clock (by decide)
  case passDue i => exact passDue_keeps i s .clock (by decide)
  case report => exact report_keeps s .clock (by decide)
  case spaceNeed => exact spaceNeed_keeps s .clock (by decide)
  case fallSilent => exact Eq.trans (compute_keeps false s.enterIsolated .clock (by decide)) (enterIsolated_keeps s .clock (by decide))
  case agePeer a p => exact compute_keeps false (s.setPeer a p) .clock (by decide)
  case dropCeiling src => exact compute_keeps false (s.setCeilings _) .clock (by decide)
  case frame cls src p => exact takeFrame_keeps cls src p s .clock (by decide)
  case expireClaims u _ _ => exact expireClaims_keeps s .clock (by decide)
  case endWithdraw i u _ => exact endWithdraw_keeps i s .clock (by decide)
  case endThrow i u _ => exact endThrow_keeps i s .clock (by decide)
  case timeOutRelease i u _ => exact timeOutRelease_keeps i s .clock (by decide)
  case throwWait i x u _ => exact throwWait_keeps i 1 s .clock (by decide)
  case restart _ => exact Eq.trans (completeRestart_keeps s.restartStages .clock (by decide)) (restartStages_keeps s .clock (by decide))
  case finish i outcome x _ _ _ => exact finishAndStart_keeps i outcome .release s .clock (by decide)
  case endPause i u _ => exact work_keeps _ s .clock (by decide)
  case changeEnumerated l v => exact changeEnumerated_keeps l v s .clock (by decide)
  case faultAgain l u _ => rfl
  case faultLane l _ _ => exact faultLane_keeps l s .clock (by decide)
  case startClear l u _ => rfl
  case releaseFault l => rfl
  case endClear l u _ => exact moveLane_keeps l _ s .clock (by decide)
  case endWake u => exact Eq.trans (work_keeps [.grant] (s.endWake u) .clock (by decide)) (endWake_keeps u s .clock (by decide))
  case endIdle l u _ => exact Eq.trans (wakeLanes_keeps (s.moveLane l .dormant) .clock (by decide)) (moveLane_keeps l _ s .clock (by decide))
  case endScrub l u _ => exact Eq.trans (work_keeps [.grant] (s.moveLane l _) .clock (by decide)) (moveLane_keeps l _ s .clock (by decide))
  case abandon => exact abandonFrame_keeps s .clock (by decide)
  case crcError => exact setLine_keeps _ s .clock (by decide)
  case lineIdle => exact setLine_keeps _ s .clock (by decide)
  case attempt e waits => exact attempt_keeps e s .clock (by decide)
  case loseAttempt u read e _ sent =>
    exact Eq.trans (backToWaiting_keeps e _ .clock (by decide)) (setLine_keeps _ s .clock (by decide))
  case breakAttempt u read e _ sent => exact breakAttempt_keeps e s .clock (by decide)
  case completeAttempt u read e _ _ => exact completeAttempt_keeps e s .clock (by decide)
  case tickLamps => rfl

/-! ## No step leaves a demand open, but for the passing of a due mark -/

/-- No due mark that is ahead is reached between two moments. -/
def State.NoMarkPasses (s : State) (u : Nat) : Prop :=
  ∀ i w, (s.custody.slots.get i).dueUntil = some w → s.clock < w → u < w

theorem demandsSame_later {s t : State} (cfg : t.cfg = s.cfg)
    (meters : ∀ k, (t.monitor.get k).q = (s.monitor.get k).q ∧ (t.monitor.get k).amps = (s.monitor.get k).amps ∧
      (t.monitor.get k).cable = (s.monitor.get k).cable)
    (plans : t.plans.slots = s.plans.slots) (charge : t.charge = s.charge) (custody : t.custody.slots = s.custody.slots) (later : s.clock ≤ t.clock)
    (none_ : s.NoMarkPasses t.clock) : s.DemandsSame t where
  cfg := cfg
  meters := meters
  floors k := by rw [plans]
  charge := charge
  marks k u := by
    rw [custody]
    exact ⟨fun ⟨mark, ahead⟩ => ⟨mark, Nat.lt_of_le_of_lt later ahead⟩, fun ⟨mark, ahead⟩ => ⟨mark, none_ k u mark ahead⟩⟩

theorem reach_demandsSame {u : Nat} {s : State} (none_ : s.NoMarkPasses (max s.clock u)) : s.DemandsSame (s.reach u) :=
  demandsSame_later rfl (fun _ => ⟨rfl, rfl, rfl⟩) rfl rfl rfl (Nat.le_max_left _ _) none_

/-- A sample leaves a slot's meters. -/
theorem sample_meters (m : MonitorSlot) : m.sample.q = m.q ∧ m.sample.amps = m.amps ∧ m.sample.cable = m.cable := by
  unfold MonitorSlot.sample
  split <;> exact ⟨rfl, rfl, rfl⟩

theorem passBit_demandsSame {s : State} (none_ : s.NoMarkPasses (s.clock + 1)) : s.DemandsSame s.passBit := by
  have keeps := passBit_keeps s
  have clock := passBit_clock s
  refine demandsSame_later (keeps .cfg (by decide)) (fun k => ?_) (keeps .runs (by decide)).1 (keeps .charge (by decide))
    (keeps .custody (by decide))
    (by rw [clock]; exact Nat.le_succ _) (by rw [clock]; exact none_)
  rcases passBit_monitor s k with same | sampled
  · rw [same]; exact ⟨rfl, rfl, rfl⟩
  · rw [sampled]; exact sample_meters _

/-- Blocks at rest ask for nothing. -/
theorem State.AtRest.demandsMoved {s : State} (h : s.AtRest) : s.demandsMoved = false :=
  demandsMoved_eq_false_iff.mpr fun k => by rw [State.demandNow, h.charge k]; rfl

theorem loader_rests {c : Instr} {s t : State} (hc : isLoaderCommand c = true) (h : exec c s = .next t)
    (rests : s.demandsMoved = false) : t.demandsMoved = false := by
  rcases loader_cases c hc with rfl | ⟨low, rfl⟩ | ⟨x, y, z, rfl⟩ | ⟨how, rfl⟩ | ⟨b, rfl⟩ <;> cases h
  · exact (clearBlocks_atRest s).demandsMoved
  · split
    · exact rests
    · exact (clearBlocks_atRest s).demandsMoved
  · split
    · exact rests
    · exact rests
  · split
    · exact (startBlocks_atRest _ _ _ fun _ => rfl).demandsMoved
    · exact (startBlocks_atRest _ _ _ fun _ => rfl).demandsMoved
    · exact rests
  · split
    · unfold State.endReset
      split
      · exact (startBlocks_atRest _ _ false nofun).demandsMoved
      · exact (startBlocks_atRest _ _ _ fun _ => rfl).demandsMoved
    · exact rests

theorem exec_rests {c : Instr} {s t : State} (right : s.PowerRight) (rests : s.demandsMoved = false) (h : exec c s = .next t)
    (none_ : s.NoMarkPasses t.clock) : t.demandsMoved = false := by
  cases hc : isLoaderCommand c with
  | true => exact loader_rests hc h rests
  | false =>
    by_cases run : s.mode = .running
    · obtain ⟨u, act⟩ := exec_actsAt hc run h
      have reached : max s.clock u = t.clock := act.clock.symm
      exact act.attends.rest right.lit ((reach_demandsSame (by rw [reached]; exact none_)).demandsMoved rests)
    · cases (nonloader_waits c s hc run).symm.trans h
      exact rests

theorem step_rests {s t : State} (right : s.PowerRight) (rests : s.demandsMoved = false) (h : step s = .next t)
    (none_ : s.NoMarkPasses t.clock) : t.demandsMoved = false := by
  rcases step_cases h with ⟨c, rest, _, run⟩ | ⟨c, cs, _, _, rfl⟩ | ⟨_, _, rfl⟩
  · exact exec_rests (s := { s with pending := rest }) right rests run none_
  · exact rests
  · exact (passBit_demandsSame (by rw [← passBit_clock]; exact none_)).demandsMoved rests

/-! ## Each event of the Charge Controller leaves no demand open -/

theorem whileRunning_rests {s t : State} {f : State → State} (h : whileRunning s f = .next t)
    (acts : f s = s ∨ (f s).demandsMoved = false) : t = s ∨ t.demandsMoved = false := by
  unfold whileRunning at h
  split at h <;> cases h
  · exact acts
  · exact .inl rfl

theorem Rests.after {s t : State} (h : Rests s t) (lit : s.Lit) {u : State} : t = u ∨ t.demandsMoved = false :=
  .inr (h.rests lit)

theorem retry_rest (i : SlotNo) (s : State) : Rests s (s.chargeEvent i
    (fun c => { c with retries := c.retries + 1 }.enterDetect s.clock (s.share.slotAlloc.get i))) :=
  chargeEvent_rest i fun _ => enterDetect_lit _ _ _

theorem chargeCommand_rests {c : Instr} {s t : State} (right : s.PowerRight) (moves : changesDemand c = true)
    (h : exec c s = .next t) : t = s ∨ t.demandsMoved = false := by
  have lit : ∀ u, (s.reach u).Lit := fun _ => right.lit
  cases c <;> simp only [changesDemand, reduceCtorEq] at moves <;>
    simp only [exec, execInsertion, execExtraction, execMeasurementPublication, execOverCurrentCheck, execIntegrationPeriodEnd,
      execDetectTimerExpiry, execTaperDwell, execToppedDwell, execTaperToBulkDwell, execToppedToBulkDwell, execRestartHoldExpiry,
      execRetryWaitExpiry, execDueUntilPasses] at h <;>
    refine whileRunning_rests (s := s) h ?_
  case insertion i r =>
    split
    next u found _ => exact (insert_rest i r found _).after (lit u)
    next => exact .inl rfl
  case extraction i =>
    split
    next u _ => exact (extract_rest i _).after (lit u)
    next => exact .inl rfl
  case measurementPublication i v a =>
    split
    · exact (publish_rest i _ _ s).after right.lit
    · exact .inl rfl
  case overCurrentCheck i =>
    split
    · split
      · exact (faultSlot_rest i _ _ _).after (lit _)
      · exact .inl rfl
    · exact .inl rfl
  case integrationPeriodEnd i a =>
    split
    next u _ => exact (integrate_rest i _ u _).after (lit u)
    next => exact .inl rfl
  case detectTimerExpiry i =>
    split
    next u _ => exact (endDetect_rest i _).after (lit u)
    next => exact .inl rfl
  case taperDwell i =>
    split
    · exact (enterPhase_rest i _ _).after (lit _)
    · exact .inl rfl
  case toppedDwell i =>
    split
    · exact (enterPhase_rest i _ _).after (lit _)
    · exact .inl rfl
  case taperToBulkDwell i =>
    split
    · exact (enterPhase_rest i _ _).after (lit _)
    · exact .inl rfl
  case toppedToBulkDwell i =>
    split
    · exact (enterPhase_rest i _ _).after (lit _)
    · exact .inl rfl
  case restartHoldExpiry i =>
    split
    · exact (enterPhase_rest i _ _).after (lit _)
    · exact .inl rfl
  case retryWaitExpiry i =>
    split
    next k u _ => exact (retry_rest i (s.reach u)).after (lit u)
    next => exact .inl rfl
  case dueUntilPasses i =>
    split
    next u _ =>
      split
      · exact .inl rfl
      · exact (passDue_rest i _).after (lit u)
    next => exact .inl rfl

/-! ## The rows of the demand table (R28) -/

section
variable (cfg : Record) (now : Nat) (m : MonitorSlot) (due : Option Nat) (planFloor power : Nat) (c : ChargeSlot)

/-- The floor of a demand over a lowest value, within the maximum power. -/
def floorOver (low : Nat) : Nat := min (max low planFloor) (maxPower cfg c.path m.cable)

theorem phaseDemand_urgent (urgent : isUrgent cfg now m due = true) : phaseDemand cfg now m due planFloor power c .bulk =
    ⟨floorOver cfg m planFloor c (minFloor c.path m.cable),
      maxPower cfg c.path m.cable - floorOver cfg m planFloor c (minFloor c.path m.cable), 0⟩ := by
  unfold phaseDemand floorOver
  simp only [urgent, if_true, Demand.mk.injEq, true_and]
  omega

theorem phaseDemand_calm (calm : isUrgent cfg now m due = false) : phaseDemand cfg now m due planFloor power c .bulk =
    ⟨floorOver cfg m planFloor c (minFloor c.path m.cable), 0,
      maxPower cfg c.path m.cable - floorOver cfg m planFloor c (minFloor c.path m.cable)⟩ := by
  unfold phaseDemand floorOver
  simp only [calm, Bool.false_eq_true, if_false, Demand.mk.injEq, true_and]
  omega

theorem phaseDemand_taper : phaseDemand cfg now m due planFloor power c .taper =
    ⟨floorOver cfg m planFloor c (minFloor c.path m.cable), 0,
      min (maxPower cfg c.path m.cable) ((5 * power + 3) / 4) - floorOver cfg m planFloor c (minFloor c.path m.cable)⟩ := by
  unfold phaseDemand floorOver
  simp only [Demand.mk.injEq, true_and]
  omega

theorem phaseDemand_topped : phaseDemand cfg now m due planFloor power c .topped =
    ⟨floorOver cfg m planFloor c (maintenanceFloor cfg c.working), 0, 0⟩ := by
  unfold phaseDemand floorOver
  simp only [Demand.mk.injEq, true_and]
  omega

end

theorem minFloor_eq (path : Path) (cable : CableClass) :
    minFloor path cable = if path = .cable ∧ cable = .classC then 4 else 2 := by
  cases path <;> cases cable <;> rfl

theorem volts_value (v : Volts) : v.value = if v = .nine then 9 else 5 := by cases v <;> rfl

/-- Settles O22: a settling comes to rest and every act ends with one where a demand may have moved. -/
theorem demandFollowsPhase : Obligations.DemandFollowsPhase := by
  refine ⟨fun c s t right moves h => chargeCommand_rests right moves h, fun s t right rests h => ?_,
    fun s right => settle_settles _ s (settled_rests right.lit), fun _ _ => rfl, fun t rests i => ?_⟩
  · by_cases passes : s.NoMarkPasses t.clock
    · exact .inl (step_rests right rests h passes)
    · unfold State.NoMarkPasses at passes
      push Not at passes
      obtain ⟨i, u, mark, ahead, reached⟩ := passes
      exact .inr ⟨i, u, mark, ahead, reached⟩
  · intro c cable most usable maintenance over_ urgent charging
    have isMost : maxPower t.cfg c.path cable = most := by
      unfold most maxPower
      cases c.path <;> cases cable <;> rfl
    have isUsable : minFloor c.path cable = usable := minFloor_eq _ _
    have isMaintenance : maintenanceFloor t.cfg c.working = maintenance := by
      unfold maintenance
      rw [maintenanceFloor, volts_value]
    clear_value most usable maintenance
    have rows : ∀ power ph, phaseDemand t.cfg t.clock (t.monitor.get i) (t.custody.slots.get i).dueUntil
        (t.plans.slots.get i).floor power c ph = charging power ph := by
      intro power ph
      unfold charging over_
      cases ph with
      | bulk =>
        by_cases now : urgent
        · rw [phaseDemand_urgent _ _ _ _ _ _ _ (isUrgent_iff.mpr now), floorOver, isMost, isUsable]
          exact (if_pos now).symm
        · rw [phaseDemand_calm _ _ _ _ _ _ _ (Bool.eq_false_iff.mpr fun is => now (isUrgent_iff.mp is)), floorOver, isMost,
            isUsable]
          exact (if_neg now).symm
      | taper => rw [phaseDemand_taper, floorOver, isMost, isUsable]
      | topped => rw [phaseDemand_topped, floorOver, isMost, isMaintenance]
    show (t.charge.get i).demand = _
    rw [demandsMoved_eq_false_iff.mp rests i, State.demandNow]
    unfold slotDemand
    cases c.phase with
    | off => rfl
    | detect u => rfl
    | charging ph => exact rows _ ph
    | deferred back => exact rows _ back
    | restart _ _ held => rfl
    | faulted _ _ => rfl

/-! ## No step leaves a difference of the own sums without an early NEED due -/

theorem State.AtRest.needRight {s : State} (h : s.AtRest) : s.NeedRight := by
  obtain ⟨at_, share⟩ := h.share
  unfold State.NeedRight
  rw [share]
  intro far
  simp [Demand.total] at far

theorem needRight_lasting : Lasting State.NeedRight where
  reach u s before := before
  act s t _ act := act.attends.need
  pending s q before := before
  pass s before := by
    obtain ⟨own, sum, need, due, _⟩ := passBit_keeps s .share (by decide)
    exact needRight_of_eq (passBit_keeps s .cfg (by decide)) own sum need due before
  cleared s := (clearBlocks_atRest s).needRight
  released s x began _ before := before
  started s r d hd := (startBlocks_atRest s r d hd).needRight

/-- Settles O25: the own sums move in a demand round alone, and the round judges the early NEED. -/
theorem timersHandNeed : Obligations.TimersHandNeed :=
  ⟨fun _ running => report_hands running, demandRound_result, fun _ _ before h => needRight_lasting.step h before,
    fun _ running => earlyNeedSpacing_due running, fun _ _ running due need => earlyNeedSpacing_hands running due need⟩

end Sys2Proof.Machine
end

section
/-! PROOF. The handing of CLAIM frames and the retry hold through every step (R78, R81). -/

namespace Sys2Proof.Machine

/-! ## Handing one frame, and handing until a condition fails -/

/-- Nothing is to be handed exactly where one of the four conditions fails. -/
theorem handClaim_of_handed {s : State} (handed : s.ClaimsHanded) : s.handClaim = s := by
  unfold State.handClaim
  rcases handed with claimed | full | clashed | ⟨h, held, ahead⟩
  · split
    · have none_ : s.claims.requests.find? (fun r => !r.claimed) = none :=
        List.find?_eq_none.mpr fun r m => by simp [claimed r m]
      rw [none_]
    · rfl
  · exact if_neg fun may => absurd may.1 (Nat.not_lt.mpr full)
  · exact if_neg fun may => absurd clashed may.2.1
  · refine if_neg fun may => ?_
    have free : s.retryHeld = false := may.2.2
    rw [State.retryHeld, held] at free
    simp [ahead] at free

theorem handClaim_acts {s : State} {r : Request} (oldest : s.claims.requests.find? (fun x => !x.claimed) = some r)
    (room : s.claims.own.length < 2) (calm : s.share.state ≠ .clashed)
    (free : ∀ h, s.claims.retryHold = some h → h ≤ s.clock) : s.handClaim =
      { s with
        line := s.line.hand (.claim s.claims.tagCounter r.op r.slot (claimAmount s.cfg r.op) (claimDuration s.cfg))
        claims := { s.claims with
          requests := claimRequest r.slot s.claims.requests
          own := s.claims.own ++ [{ tag := s.claims.tagCounter, slot := r.slot, op := r.op, amount := claimAmount s.cfg r.op
                                    duration := claimDuration s.cfg, hasRequest := true, expires := none }]
          tagCounter := (s.claims.tagCounter + 1) % 256 } } := by
  have none_ : s.retryHeld = false := by
    unfold State.retryHeld
    cases held : s.claims.retryHold with
    | none => rfl
    | some h => simpa using free h held
  unfold State.handClaim
  rw [if_pos ⟨room, calm, none_⟩, oldest]

/-- Either a condition fails, or one frame is handed. -/
theorem handed_or_acts (s : State) : s.ClaimsHanded ∨ ∃ r, s.claims.requests.find? (fun x => !x.claimed) = some r ∧
    s.claims.own.length < 2 ∧ s.share.state ≠ .clashed ∧ ∀ h, s.claims.retryHold = some h → h ≤ s.clock := by
  by_cases full : 2 ≤ s.claims.own.length
  · exact .inl (.inr (.inl full))
  by_cases clashed : s.share.state = .clashed
  · exact .inl (.inr (.inr (.inl clashed)))
  by_cases held : ∃ h, s.claims.retryHold = some h ∧ s.clock < h
  · exact .inl (.inr (.inr (.inr held)))
  cases oldest : s.claims.requests.find? (fun x => !x.claimed) with
  | none =>
    refine .inl (.inl fun r m => ?_)
    simpa using List.find?_eq_none.mp oldest r m
  | some r => exact .inr ⟨r, rfl, Nat.lt_of_not_le full, clashed, fun h is => Nat.le_of_not_lt fun ahead => held ⟨h, is, ahead⟩⟩

theorem handClaim_own_grows {s : State} (moved : ¬ s.ClaimsHanded) : s.handClaim.claims.own.length = s.claims.own.length + 1 := by
  obtain ⟨r, oldest, room, calm, free⟩ := (handed_or_acts s).resolve_left moved
  rw [handClaim_acts oldest room calm free]
  exact List.length_append

theorem claimsHanded_iff (s : State) : s.ClaimsHanded ↔ s.handClaim = s := by
  refine ⟨handClaim_of_handed, fun still => by_contra fun moved => ?_⟩
  have grows := handClaim_own_grows moved
  rw [still] at grows
  omega

/-- At most two frames can be outstanding, so two rounds of handing leave none to hand (R78). -/
theorem handClaims_handed (s : State) : s.handClaims.ClaimsHanded := by
  unfold State.handClaims
  by_cases first : s.ClaimsHanded
  · rw [handClaim_of_handed first, handClaim_of_handed first]
    exact first
  by_cases second : s.handClaim.ClaimsHanded
  · rw [handClaim_of_handed second]
    exact second
  · refine .inr (.inl ?_)
    rw [handClaim_own_grows second, handClaim_own_grows first]
    omega

theorem handClaim_hold (s : State) : s.handClaim.claims.retryHold = s.claims.retryHold := by
  rcases handed_or_acts s with handed | ⟨r, oldest, room, calm, free⟩
  · rw [handClaim_of_handed handed]
  · rw [handClaim_acts oldest room calm free]

theorem handClaims_hold (s : State) : s.handClaims.claims.retryHold = s.claims.retryHold :=
  (handClaim_hold _).trans (handClaim_hold s)

/-- What is handed for the oldest unclaimed request. -/
theorem handClaim_result {s : State} {r : Request} (oldest : s.claims.requests.find? (fun x => !x.claimed) = some r)
    (room : s.claims.own.length < 2) (calm : s.share.state ≠ .clashed)
    (free : ∀ h, s.claims.retryHold = some h → h ≤ s.clock) :
    let amount := min (if r.op = .withdraw then s.cfg.withdrawAmount else s.cfg.throwAmount) s.cfg.pulseAllowance
    let duration := (s.cfg.pulseDuration + 9) / 10
    let t := s.handClaim
    t.Waits (.claim s.claims.tagCounter r.op r.slot amount duration) ∧
    t.claims.own = s.claims.own ++
      [{ tag := s.claims.tagCounter, slot := r.slot, op := r.op, amount := amount, duration := duration
         hasRequest := true, expires := none }] ∧
    t.claims.tagCounter = (s.claims.tagCounter + 1) % 256 ∧
    t.claims.requests = s.claims.requests.map (fun x => if x.slot = r.slot then { x with claimed := true } else x) ∧
    t.claims.retryHold = s.claims.retryHold ∧ t.line.lost = s.line.lost ∧ Keeps [.requests, .queue] s t := by
  have amount : min (if r.op = .withdraw then s.cfg.withdrawAmount else s.cfg.throwAmount) s.cfg.pulseAllowance =
      claimAmount s.cfg r.op := by cases r.op <;> rfl
  have keeps := handClaim_keeps s
  dsimp only
  rw [amount]
  rw [handClaim_acts oldest room calm free] at keeps ⊢
  exact ⟨hand_waits _ s (.inl rfl), rfl, rfl, rfl, rfl, lineHand_claim_lost rfl _, keeps⟩

/-! ## What every operation keeps -/

/-- No operation leaves a request for which a frame is to be handed, or a retry hold without its entry. -/
structure Hands (s t : State) : Prop where
  claims : s.ClaimsHanded → t.ClaimsHanded
  hold : s.HoldRight → t.HoldRight

theorem Hands.refl (s : State) : Hands s s := ⟨id, id⟩

theorem Hands.trans {s t u : State} (h : Hands s t) (k : Hands t u) : Hands s u := ⟨k.claims ∘ h.claims, k.hold ∘ h.hold⟩

theorem Hands.ite {s t u : State} {c : Prop} [Decidable c] (h : Hands s t) (k : Hands s u) : Hands s (if c then t else u) := by
  split <;> assumption

theorem hands_foldl {α : Type} (f : State → α → State) (h : ∀ s a, Hands s (f s a)) :
    ∀ (l : List α) (s : State), Hands s (l.foldl f s)
  | [], s => Hands.refl s
  | a :: l, s => (h s a).trans (hands_foldl f h l (f s a))

theorem holdRight_of_eq {s t : State} (hold : t.claims.retryHold = s.claims.retryHold) (entries : t.claims.entries = s.claims.entries)
    (h : s.HoldRight) : t.HoldRight := by
  unfold State.HoldRight
  rw [hold, entries]
  exact h

theorem claimsHanded_of_eq {s t : State} (requests : t.claims.requests = s.claims.requests) (own : t.claims.own = s.claims.own)
    (hold : t.claims.retryHold = s.claims.retryHold) (state : s.share.state = .clashed → t.share.state = .clashed)
    (clock : t.clock = s.clock) (h : s.ClaimsHanded) : t.ClaimsHanded := by
  unfold State.ClaimsHanded
  rw [requests, own, hold, clock]
  rcases h with claimed | full | clashed | held
  · exact .inl claimed
  · exact .inr (.inl full)
  · exact .inr (.inr (.inl (state clashed)))
  · exact .inr (.inr (.inr held))

/-- A change outside the Claim Unit that does not leave CLASHED. -/
theorem hands_of_state {ps : List Part} {s t : State} (h : Keeps ps s t) (n : ∀ p ∈ [Part.clock, .requests, .claimList], p ∉ ps)
    (state : s.share.state = .clashed → t.share.state = .clashed) : Hands s t := by
  obtain ⟨requests, own, _, hold⟩ := h .requests (n _ (by simp))
  exact ⟨claimsHanded_of_eq requests own hold state (h .clock (n _ (by simp))),
    holdRight_of_eq hold (h .claimList (n _ (by simp)))⟩

theorem hands_of_keeps {ps : List Part} {s t : State} (h : Keeps ps s t)
    (n : ∀ p ∈ [Part.clock, .requests, .claimList, .standing], p ∉ ps) : Hands s t :=
  hands_of_state h (fun p m => n p (by simp at m ⊢; tauto)) fun clashed => by
    rw [(h .standing (n _ (by simp))).1]; exact clashed

/-- A change of requests and own records that ends with the handing. -/
theorem hands_of_handing {ps : List Part} {s u : State} (h : Keeps ps s u) (n : Part.claimList ∉ ps)
    (hold : u.claims.retryHold = s.claims.retryHold) : Hands s u.handClaims where
  claims _ := handClaims_handed u
  hold right := holdRight_of_eq (handClaims_hold u) (handClaims_keeps u .claimList (by decide))
    (holdRight_of_eq hold (h .claimList n) right)

/-! ## The Latch Driver's requests -/

theorem addRequest_hands (i : SlotNo) (op : LatchOp) (n : Nat) (s : State) : Hands s (s.addRequest i op n) :=
  hands_of_handing (setRequests_keeps _ s) (by decide) rfl

theorem grantRelease_hands (i : SlotNo) (s : State) : Hands s (s.grantRelease i) :=
  (hands_of_keeps (setLatch_keeps i _ s) (by decide)).trans (addRequest_hands _ _ _ _)

theorem throwWait_hands (i : SlotNo) (n : Nat) (s : State) : Hands s (s.throwWait i n) :=
  (hands_of_keeps (setLatch_keeps i _ s) (by decide)).trans (addRequest_hands _ _ _ _)

theorem jam_hands (i : SlotNo) (op : LatchOp) (s : State) : Hands s (s.jam i op) :=
  ((hands_of_keeps (setLatchState_keeps i _ s) (by decide)).trans (hands_of_keeps (notice_keeps _ _ _ _) (by decide))).trans
    (hands_of_keeps (jamReport_keeps i _) (by decide))

theorem withdrawEnded_hands (i : SlotNo) (n : Nat) (s : State) : Hands s (s.withdrawEnded i n) := by
  unfold State.withdrawEnded
  split
  · exact hands_of_keeps (openLatch_keeps i s) (by decide)
  · exact Hands.ite ((hands_of_keeps (setLatch_keeps i _ s) (by decide)).trans (addRequest_hands _ _ _ _)) (jam_hands _ _ _)
  · exact hands_of_keeps (setLatchState_keeps i _ s) (by decide)

theorem endWithdraw_hands (i : SlotNo) (s : State) : Hands s (s.endWithdraw i) := by
  unfold State.endWithdraw
  dsimp only
  generalize hu : s.setLatch i _ = u
  have start : Hands s u := hu ▸ hands_of_keeps (setLatch_keeps i _ s) (by decide)
  have ended : Hands s (if (s.latch.get i).learnAtEnd = true then u.learnLatch i else u.withdrawEnded i (s.latch.get i).attempt) :=
    Hands.ite (start.trans (hands_of_keeps (learnLatch_keeps i u) (by decide))) (start.trans (withdrawEnded_hands _ _ _))
  exact Hands.ite (ended.trans (hands_of_keeps (tamperReport_keeps _ _ _ _) (by decide))) ended

theorem endThrow_hands (i : SlotNo) (s : State) : Hands s (s.endThrow i) := by
  unfold State.endThrow
  dsimp only
  refine (hands_of_keeps (setLatch_keeps i _ s) (by decide)).trans
    (Hands.ite (hands_of_keeps (learnLatch_keeps _ _) (by decide)) ?_)
  split
  · exact hands_of_keeps (setLatch_keeps _ _ _) (by decide)
  · exact Hands.ite (throwWait_hands _ _ _) (jam_hands _ _ _)
  · exact hands_of_keeps (setLatchState_keeps _ _ _) (by decide)

theorem disownClaim_hold (i : SlotNo) (s : State) : (s.disownClaim i).claims.retryHold = s.claims.retryHold := by
  unfold State.disownClaim
  split
  · rfl
  · split <;> rfl

theorem timeOutRelease_hands (i : SlotNo) (s : State) : Hands s (s.timeOutRelease i) := by
  unfold State.timeOutRelease
  dsimp only
  generalize hu : (State.setRequests _ _).notice _ _ _ = u
  have keeps : Keeps [.latch, .requests, .queue] s u := hu ▸ (((setLatch_keeps i _ s).mono (by decide)).trans
    ((setRequests_keeps _ _).mono (by decide))).trans ((notice_keeps _ _ _ _).mono (by decide))
  have hold : u.claims.retryHold = s.claims.retryHold := by
    rw [← hu]
    exact (notice_keeps _ _ _ _ .requests (by decide)).2.2.2
  exact hands_of_handing (keeps.trans ((disownClaim_keeps i u).mono (by decide))) (by decide)
    ((disownClaim_hold i u).trans hold)

/-! ## Claims at their line position -/

theorem reportReserve_hands (s : State) : Hands s s.reportReserve := hands_of_keeps (reportReserve_keeps s) (by decide)

/-- An entry more leaves a retry hold its entry. -/
theorem enterClaim_hands (e : ClaimEntry) (s : State) : Hands s (s.enterClaim e) := by
  refine Hands.trans (t := { s with claims := { s.claims with entries := s.claims.entries ++ [{ e with admitted := true }] } })
    ⟨id, fun right h held => ?_⟩ (reportReserve_hands _)
  obtain ⟨x, m, admitted, ends⟩ := right h held
  exact ⟨x, List.mem_append_left _ m, admitted, ends⟩

theorem takeClaim_hands (e : ClaimEntry) (s : State) : Hands s (s.takeClaim e) := Hands.ite (enterClaim_hands e s) (Hands.refl s)

/-- Fewer requests, or own records of the same number, leave nothing to hand. -/
theorem setRequests_hands {rs : List Request} {s : State} (less : ∀ r ∈ rs, r ∈ s.claims.requests) : Hands s (s.setRequests rs) where
  claims handed := by
    rcases handed with claimed | full | clashed | held
    · exact .inl fun r m => claimed r (less r m)
    · exact .inr (.inl full)
    · exact .inr (.inr (.inl clashed))
    · exact .inr (.inr (.inr held))
  hold := id

theorem setOwn_hands (f : OwnClaim → OwnClaim) (s : State) :
    Hands s { s with claims := { s.claims with own := s.claims.own.map f } } where
  claims handed := by
    rcases handed with claimed | full | clashed | held
    · exact .inl claimed
    · exact .inr (.inl (by rw [List.length_map]; exact full))
    · exact .inr (.inr (.inl clashed))
    · exact .inr (.inr (.inr held))
  hold := id

theorem ownAdmitted_hands (c : OwnClaim) (e : ClaimEntry) (s : State) : Hands s (s.ownAdmitted c e) := by
  unfold State.ownAdmitted
  dsimp only
  have entered := (setOwn_hands (fun x => if OwnClaim.matches c.tag c.op c.slot x then { x with expires := some e.expiry } else x)
    s).trans (enterClaim_hands e _)
  generalize State.enterClaim e _ = v at entered ⊢
  exact Hands.ite ((entered.trans (setRequests_hands fun r m => (List.mem_filter.mp m).1)).trans
    (hands_of_keeps (drivePulse_keeps _ _ _ _) (by decide))) entered

theorem earliest_mem : ∀ {l : List Nat} {u : Nat}, earliest l = some u → u ∈ l
  | t :: ts, u, h => by
    rw [earliest] at h
    split at h
    · cases h
      exact List.mem_cons_self
    next v rest =>
      cases h
      rcases Nat.le_total t v with le | le
      · rw [Nat.min_eq_left le]
        exact List.mem_cons_self
      · rw [Nat.min_eq_right le]
        exact List.mem_cons_of_mem _ (earliest_mem rest)

theorem earliest_le : ∀ {l : List Nat} {x : Nat}, x ∈ l → ∃ u, earliest l = some u ∧ u ≤ x
  | t :: ts, x, m => by
    rw [earliest]
    rcases List.mem_cons.mp m with rfl | later
    · split
      · exact ⟨x, rfl, Nat.le_refl x⟩
      · exact ⟨_, rfl, Nat.min_le_left _ _⟩
    · obtain ⟨u, is, le⟩ := earliest_le later
      rw [is]
      exact ⟨_, rfl, (Nat.min_le_right _ _).trans le⟩

/-- A retry hold ends with the earliest live entry (R81). -/
theorem earliestLive_entry {s : State} {h : Nat} (held : earliest ((liveClaims s.clock s.claims.entries).map ClaimEntry.expiry) = some h) :
    ∃ e ∈ s.claims.entries, e.admitted = true ∧ e.expiry = h := by
  obtain ⟨e, m, ends⟩ := List.mem_map.mp (earliest_mem held)
  obtain ⟨entry, live⟩ := List.mem_filter.mp m
  exact ⟨e, entry, (Bool.and_eq_true _ _ ▸ live).1, ends⟩

theorem ownRefused_hands (c : OwnClaim) (s : State) : Hands s (s.ownRefused c) where
  claims _ := handClaims_handed _
  hold right := by
    unfold State.ownRefused
    dsimp only
    refine fun h held => ?_
    rw [handClaims_hold] at held
    rw [Eq.trans (handClaims_keeps _ .claimList (by decide)) (show _ = s.claims.entries by split <;> rfl)]
    split at held
    · exact earliestLive_entry held
    · exact right h held

theorem completeOwnClaim_hands (tag : Nat) (op : LatchOp) (i : SlotNo) (a d : Nat) (s : State) :
    Hands s (s.completeOwnClaim tag op i a d) := by
  unfold State.completeOwnClaim
  dsimp only
  split
  · exact takeClaim_hands _ s
  · exact Hands.ite (ownAdmitted_hands _ _ s) (ownRefused_hands _ s)

/-- A retry hold that is ahead of the moment has an entry that does not expire yet. -/
theorem expireClaims_hands (s : State) : Hands s s.expireClaims where
  claims _ := handClaims_handed _
  hold right h held := by
    unfold State.expireClaims at held ⊢
    dsimp only at held ⊢
    rw [handClaims_hold, (reportReserve_keeps _ .requests (by decide)).2.2.2] at held
    have entries : (({ s with claims := { s.claims with
        entries := liveClaims s.clock s.claims.entries
        own := s.claims.own.filter (fun c => c.expires.all (fun t => s.clock < t))
        retryHold := s.claims.retryHold.filter (fun t => s.clock < t) } } : State).reportReserve.handClaims).claims.entries =
        liveClaims s.clock s.claims.entries :=
      Eq.trans (handClaims_keeps _ .claimList (by decide)) (reportReserve_keeps _ .claimList (by decide))
    rw [entries]
    obtain ⟨is, ahead⟩ := Option.filter_eq_some_iff.mp held
    obtain ⟨e, m, admitted, ends⟩ := right h is
    refine ⟨e, List.mem_filter.mpr ⟨m, ?_⟩, admitted, ends⟩
    rw [admitted, ends]
    exact ahead

theorem claimGone_hands (f : Bool) (x : TxFrame) (s : State) : Hands s (s.claimGone f x) := by
  unfold State.claimGone
  split
  next tag op i _ _ =>
    refine hands_of_handing (endOwnClaim_keeps f tag op i s) (by decide) ?_
    unfold State.endOwnClaim
    split <;> rfl
  · exact Hands.refl s

/-! ## The Share Unit's states -/

/-- A change of share state from one that is not CLASHED. -/
theorem changeShare_hands {x : ShareState} {s : State} (calm : s.share.state ≠ .clashed) : Hands s (s.changeShare x) :=
  hands_of_state (changeShare_keeps x s) (by decide) fun clashed => absurd clashed calm

theorem enterJoined_hands {s : State} (calm : s.share.state ≠ .clashed) : Hands s s.enterJoined :=
  (hands_of_state (setSilence_keeps s.freshSilence s) (by decide) id).trans
    (changeShare_hands (s := s.setSilence s.freshSilence) calm)

theorem enterIsolated_hands {s : State} (calm : s.share.state ≠ .clashed) : Hands s s.enterIsolated :=
  (hands_of_state (setSilence_keeps none s) (by decide) id).trans (changeShare_hands (s := s.setSilence none) calm)

theorem compute_hands (r : Bool) (s : State) : Hands s (s.compute r) := hands_of_keeps (compute_keeps r s) (by decide)

theorem setShare_hands {x : Share} {s : State} (state : x.state = s.share.state) : Hands s { s with share := x } :=
  ⟨claimsHanded_of_eq rfl rfl rfl (fun clashed => state.trans clashed) rfl, id⟩

theorem countListen_hands (s : State) : Hands s s.countListen := by
  unfold State.countListen
  split
  next listens =>
    have calm : s.share.state ≠ .clashed := by rw [listens]; nofun
    have counted : ∀ n, Hands s { s with share := { s.share with listenCount := n } } := fun n => setShare_hands rfl
    exact Hands.ite (counted _) (Hands.ite ((counted _).trans (enterJoined_hands calm)) ((counted _).trans (enterIsolated_hands calm)))
  next => exact Hands.refl s

theorem report_hands_claims (s : State) : Hands s s.report := by
  unfold State.report
  exact (((setShare_hands (s := s) (x := { s.share with reportAt := momentAfter s.share.reportAt s.cfg.reportPeriod }) rfl).trans
    (countListen_hands _)).trans (hands_of_keeps (handNeed_keeps _) (by decide))).trans (compute_hands _ _)

/-- An entry to CLASHED leaves nothing to hand (R84). -/
theorem clash_hands (s : State) : Hands s s.clash := by
  unfold State.clash
  refine Hands.ite (Hands.refl s) (Hands.trans (t := ((s.setSilence none).changeShare .clashed).withdrawClaims) ?_
    (compute_hands _ _))
  have silent := setSilence_keeps none s
  have keeps := changeShare_keeps .clashed (s.setSilence none)
  refine ⟨fun _ => .inr (.inr (.inl ?_)), holdRight_of_eq ?_ ?_⟩
  · exact Eq.trans (withdrawClaims_keeps _ .standing (by decide)).1 (by rw [changeShare_share])
  · exact (keeps .requests (by decide)).2.2.2
  · exact Eq.trans (withdrawClaims_keeps _ .claimList (by decide)) (keeps .claimList (by decide))

theorem watch_hands (src : Source) (s : State) : Hands s (s.watch src) := by
  unfold State.watch
  split
  · exact Hands.refl s
  · refine Hands.ite (clash_hands s) (hands_of_state (watchPeer_keeps s) (by decide) fun clashed => ?_)
    rw [watchPeer_state]
    exact clashed

theorem takeNeed_hands (a : Station) (p : List Byte) (s : State) : Hands s (s.takeNeed a p) := by
  unfold State.takeNeed
  dsimp only
  have entered := hands_of_keeps (setPeer_keeps a (some (s.peerEntry p)) s) (by decide)
  split
  next isolated => exact (entered.trans (enterJoined_hands (by rw [isolated]; nofun))).trans (compute_hands _ _)
  next => exact entered.trans (compute_hands _ _)

theorem takeCeiling_hands (src : Source) (p : List Byte) (s : State) : Hands s (s.takeCeiling src p) := by
  unfold State.takeCeiling
  split
  · exact (hands_of_keeps (setCeilings_keeps _ s) (by decide)).trans (compute_hands _ _)
  · exact Hands.refl s

theorem takeClass2_hands (src : Source) (p : List Byte) (s : State) : Hands s (s.takeClass2 src p) := by
  unfold State.takeClass2
  split
  · exact Hands.refl s
  · exact Hands.ite (takeNeed_hands _ _ _) ((hands_of_keeps (setPeer_keeps _ _ s) (by decide)).trans (compute_hands _ _))

/-! ## Permits -/

theorem finishOpen_hands (k : PermitKind) (n : Nat) (i : SlotNo) (s : State) : Hands s (s.finishOpen k n i).1 := by
  unfold State.finishOpen
  split
  · exact Hands.refl s
  · exact grantRelease_hands i s

theorem judgeOpen_hands (k : PermitKind) (n : Nat) (f : Bool) (i : SlotNo) (s : State) : Hands s (s.judgeOpen k n f i).1 := by
  unfold State.judgeOpen
  split
  · exact Hands.refl s
  split
  · split
    · exact (hands_of_keeps (forceSlot_keeps i s) (by decide)).trans (finishOpen_hands _ _ _ _)
    · exact Hands.refl s
  · exact finishOpen_hands _ _ _ _

theorem judgeLift_hands (n : Nat) (i : SlotNo) (s : State) : Hands s (s.judgeLift n i).1 :=
  hands_of_keeps (judgeLift_keeps n i s) (by decide)

theorem judgeSlot_hands (p : Permit) (k : PermitKind) (i : SlotNo) (s : State) : Hands s (s.judgeSlot p k i).1 := by
  unfold State.judgeSlot
  split
  · exact judgeOpen_hands _ _ _ _ _
  · exact judgeOpen_hands _ _ _ _ _
  · split
    · exact hands_of_keeps (judgeDue_keeps _ i s) (by decide)
    · exact Hands.refl s
  · split
    · exact hands_of_keeps (setHold_keeps i _ s) (by decide)
    · exact Hands.refl s
  · split
    · exact judgeLift_hands _ _ _
    · exact Hands.refl s
  · split <;> exact Hands.refl s

theorem judgeSlots_hands (p : Permit) (k : PermitKind) : ∀ (is : List SlotNo) (s : State), Hands s (judgeSlots p k is s)
  | [], s => Hands.refl s
  | i :: is, s => ((judgeSlot_hands p k i s).trans (hands_of_keeps (addOutcome_keeps _ _) (by decide))).trans
      (judgeSlots_hands p k is _)

theorem judgeIn_hands (p : Permit) (f : SlotNo) (is : List SlotNo) (s : State) : Hands s (s.judgeIn p f is) := by
  unfold State.judgeIn
  dsimp only
  have told : ∀ (n : Byte) (src : Source) (first : Nat) (t : State), Hands t (t.handVerdict n src first) :=
    fun n src first t => hands_of_keeps (handVerdict_keeps n src first t) (by decide)
  split
  · exact (hands_foldl _ (fun _ _ => hands_of_keeps (addOutcome_keeps _ _) (by decide)) _ _).trans (told _ _ _ _)
  · exact ((judgeSlots_hands _ _ _ _).trans (told _ _ _ _)).trans (hands_of_keeps (afterPermit_keeps _ _ _) (by decide))

theorem judgePermit_hands (p : Permit) (s : State) : Hands s (s.judgePermit p) := by
  unfold State.judgePermit
  split
  · exact Hands.refl s
  · exact judgeIn_hands _ _ _ _

theorem setCustodyUnit_hands (x : Custody) (s : State) : Hands s { s with custody := x } := ⟨id, id⟩

theorem takePermit_hands (src : Source) (p : List Byte) (s : State) : Hands s (s.takePermit src p) :=
  Hands.ite (setCustodyUnit_hands _ s) (judgePermit_hands _ s)

theorem consume_hands (c : Nat) (src : Source) (p : List Byte) (s : State) : Hands s (s.consume c src p) := by
  unfold State.consume
  split
  · exact takeClaim_hands _ s
  · exact takeCeiling_hands src p s
  · exact takeClass2_hands src p s
  · exact takePermit_hands src p s
  · exact hands_of_keeps (takeClass5_keeps src p s) (by decide)
  · exact hands_of_keeps (takeQuery_keeps src p s) (by decide)
  · exact Hands.refl s

theorem takeFrame_hands (c : Nat) (src : Source) (p : List Byte) (s : State) : Hands s (s.takeFrame c src p) := by
  unfold State.takeFrame
  refine Hands.ite (Hands.refl s) (Hands.ite (hands_of_keeps (abandonFrame_keeps s) (by decide)) ?_)
  have watched := (hands_of_keeps (frameEnds_keeps s) (by decide)).trans (watch_hands src { s with line := s.line.frameEnds })
  exact Hands.ite (watched.trans (hands_of_keeps (countError_keeps _) (by decide))) (watched.trans (consume_hands _ _ _ _))

/-! ## A restart -/

/-- The Claim Unit's restart values leave no request and no hold (R87). -/
theorem restartStages_claims (s : State) : s.restartStages.claims.requests = [] ∧ s.restartStages.claims.retryHold = none := by
  unfold State.restartStages
  generalize (s.hand .leave).restartShare = u
  have pulses : u.restartPulses.claims.requests = [] ∧ u.restartPulses.claims.retryHold = none := by
    have keeps : Keeps [.latch, .reserve, .charge, .share, .queue] u.restartClaims u.restartPulses :=
      (keeps_forSlots _ (fun i t => (restartLatch_keeps i t).mono (by decide)) _ _).trans ((reportReserve_keeps _).mono (by decide))
    obtain ⟨requests, _, _, hold⟩ := keeps .requests (by decide)
    exact ⟨requests, hold⟩
  have plans := restartPlans_keeps u.restartPulses .requests (by decide)
  have lanes := restartLanes_keeps u.restartPulses.restartPlans .requests (by decide)
  exact ⟨(lanes.1.trans plans.1).trans pulses.1, (lanes.2.2.2.trans plans.2.2.2).trans pulses.2⟩

theorem judgeWaiting_hands : ∀ (ps : List (Source × List Byte)) (s : State), Hands s (judgeWaiting ps s)
  | [], s => Hands.refl s
  | (src, p) :: rest, s => by
    unfold judgeWaiting
    exact Hands.ite (setCustodyUnit_hands _ s) ((judgePermit_hands _ s).trans (judgeWaiting_hands rest _))

theorem restart_hands (s : State) : Hands s s.restartStages.completeRestart := by
  obtain ⟨requests, hold⟩ := restartStages_claims s
  refine Hands.trans (t := s.restartStages) ⟨fun _ => .inl (by rw [requests]; nofun), fun _ h held => ?_⟩ ?_
  · rw [hold] at held
    cases held
  · exact (setCustodyUnit_hands _ _).trans (judgeWaiting_hands _ _)

/-! ## Every act -/

theorem backToWaiting_hands (e : TxEntry) (s : State) : Hands s (s.backToWaiting e) := by
  unfold State.backToWaiting
  exact Hands.ite ((hands_of_keeps (setLine_keeps _ s) (by decide)).trans (claimGone_hands _ _ _))
    (hands_of_keeps (setLine_keeps _ s) (by decide))

theorem breakAttempt_hands (e : TxEntry) (s : State) : Hands s (s.breakAttempt e) := by
  unfold State.breakAttempt
  have line : ∀ (l : Line) (t : State), Hands t (t.setLine l) := fun l t => hands_of_keeps (setLine_keeps l t) (by decide)
  exact Hands.ite (((line _ _).trans (line _ _)).trans (claimGone_hands _ _ _)) ((line _ _).trans (backToWaiting_hands _ _))

theorem completeAttempt_hands (e : TxEntry) (s : State) : Hands s (s.completeAttempt e) := by
  unfold State.completeAttempt State.ownFrame
  split
  · exact (hands_of_keeps (setLine_keeps _ s) (by decide)).trans (completeOwnClaim_hands _ _ _ _ _ _)
  · exact hands_of_keeps (setLine_keeps _ s) (by decide)

theorem Act.hands {s t : State} (h : Act s t) : Hands s t := by
  cases h
  case still => exact Hands.refl s
  case changePresent i v _ => exact hands_of_keeps (changePresent_keeps i v s) (by decide)
  case changeBolt i v _ => exact hands_of_keeps (changeBolt_keeps i v s) (by decide)
  case insert i code u found settling => exact hands_of_keeps (insert_keeps i code found s) (by decide)
  case extract i u leaving => exact hands_of_keeps (extract_keeps i s) (by decide)
  case publish i volts amps => exact hands_of_keeps (publish_keeps i volts amps s) (by decide)
  case overCurrent i judged => exact hands_of_keeps (faultSlot_keeps i _ _ s) (by decide)
  case integrate i mean u => exact hands_of_keeps (integrate_keeps i mean u s) (by decide)
  case endDetect i u detects => exact hands_of_keeps (endDetect_keeps i s) (by decide)
  case enterPhase i dest charges _ => exact hands_of_keeps (chargeEvent_keeps i _ s) (by decide)
  case retry i k u _ => exact hands_of_keeps (chargeEvent_keeps i _ s) (by decide)
  case passDue i => exact hands_of_keeps (passDue_keeps i s) (by decide)
  case report => exact report_hands_claims s
  case spaceNeed => exact hands_of_keeps (spaceNeed_keeps s) (by decide)
  case fallSilent joined => exact (enterIsolated_hands (by rw [joined]; nofun)).trans (compute_hands _ _)
  case agePeer a p => exact (hands_of_keeps (setPeer_keeps a p s) (by decide)).trans (compute_hands _ _)
  case dropCeiling src => exact (hands_of_keeps (setCeilings_keeps _ s) (by decide)).trans (compute_hands _ _)
  case frame cls src p => exact takeFrame_hands cls src p s
  case expireClaims u _ _ => exact expireClaims_hands s
  case endWithdraw i u _ => exact endWithdraw_hands i s
  case endThrow i u _ => exact endThrow_hands i s
  case timeOutRelease i u _ => exact timeOutRelease_hands i s
  case throwWait i x u _ => exact throwWait_hands i 1 s
  case restart _ => exact restart_hands s
  case finish i outcome x _ _ _ => exact hands_of_keeps (finishAndStart_keeps i outcome .release s) (by decide)
  case endPause i u _ => exact hands_of_keeps (work_keeps _ s) (by decide)
  case changeEnumerated l v => exact hands_of_keeps (changeEnumerated_keeps l v s) (by decide)
  case faultAgain l u _ => exact hands_of_keeps (setLane_keeps l _ s) (by decide)
  case faultLane l _ _ => exact hands_of_keeps (faultLane_keeps l s) (by decide)
  case startClear l u _ => exact hands_of_keeps (setLane_keeps l _ s) (by decide)
  case releaseFault l => exact hands_of_keeps (setLane_keeps l _ s) (by decide)
  case endClear l u _ => exact hands_of_keeps (moveLane_keeps l _ s) (by decide)
  case endWake u =>
    exact (hands_of_keeps (endWake_keeps u s) (by decide)).trans (hands_of_keeps (work_keeps _ _) (by decide))
  case endIdle l u _ =>
    exact (hands_of_keeps (moveLane_keeps l _ s) (by decide)).trans (hands_of_keeps (wakeLanes_keeps _) (by decide))
  case endScrub l u _ =>
    exact (hands_of_keeps (moveLane_keeps l _ s) (by decide)).trans (hands_of_keeps (work_keeps _ _) (by decide))
  case abandon => exact hands_of_keeps (abandonFrame_keeps s) (by decide)
  case crcError => exact hands_of_keeps (setLine_keeps _ s) (by decide)
  case lineIdle => exact hands_of_keeps (setLine_keeps _ s) (by decide)
  case attempt e waits => exact hands_of_keeps (attempt_keeps e s) (by decide)
  case loseAttempt u read e _ sent => exact (hands_of_keeps (setLine_keeps _ s) (by decide)).trans (backToWaiting_hands e _)
  case breakAttempt u read e _ sent => exact breakAttempt_hands e s
  case completeAttempt u read e _ _ => exact completeAttempt_hands e s
  case tickLamps => exact ⟨id, id⟩

/-! ## Every step -/

/-- Blocks at rest have nothing to hand and no hold. -/
theorem State.AtRest.claimsHanded {s : State} (h : s.AtRest) : s.ClaimsHanded := .inl (by rw [h.claims]; nofun)

theorem State.AtRest.holdRight {s : State} (h : s.AtRest) : s.HoldRight := fun x held => by
  rw [h.claims] at held
  cases held

theorem holdRight_lasting : Lasting State.HoldRight where
  reach u s before := before
  act s t _ act := act.hands.hold
  pending s q before := before
  pass s := holdRight_of_eq (passBit_keeps s .requests (by decide)).2.2.2 (passBit_keeps s .claimList (by decide))
  cleared s := (clearBlocks_atRest s).holdRight
  released s x began _ before := before
  started s r d hd := (startBlocks_atRest s r d hd).holdRight

/-- The retry hold does not end up to a moment. -/
def State.HoldStands (s : State) (u : Nat) : Prop := ∀ h, s.claims.retryHold = some h → s.clock < h → u < h

theorem claimsHanded_later {ps : List Part} {s t : State} (keeps : Keeps ps s t) (n : ∀ p ∈ [Part.requests, .standing], p ∉ ps)
    (stands : s.HoldStands t.clock) (h : s.ClaimsHanded) : t.ClaimsHanded := by
  obtain ⟨requests, own, _, hold⟩ := keeps .requests (n _ (by simp))
  unfold State.ClaimsHanded
  rw [requests, own, hold, (keeps .standing (n _ (by simp))).1]
  rcases h with claimed | full | clashed | ⟨x, held, ahead⟩
  · exact .inl claimed
  · exact .inr (.inl full)
  · exact .inr (.inr (.inl clashed))
  · exact .inr (.inr (.inr ⟨x, held, stands x held ahead⟩))

/-- A condition that the Loader's commands keep or set up anew. -/
theorem loader_claimsHanded {c : Instr} {s t : State} (hc : isLoaderCommand c = true) (h : exec c s = .next t)
    (before : s.ClaimsHanded) : t.ClaimsHanded := by
  rcases loader_cases c hc with rfl | ⟨low, rfl⟩ | ⟨x, y, z, rfl⟩ | ⟨how, rfl⟩ | ⟨b, rfl⟩ <;> cases h
  · exact (clearBlocks_atRest s).claimsHanded
  · split
    · exact before
    · exact (clearBlocks_atRest s).claimsHanded
  · split
    · exact before
    · exact before
  · split
    · exact (startBlocks_atRest _ _ _ fun _ => rfl).claimsHanded
    · exact (startBlocks_atRest _ _ _ fun _ => rfl).claimsHanded
    · exact before
  · split
    · unfold State.endReset
      split
      · exact (startBlocks_atRest _ _ false nofun).claimsHanded
      · exact (startBlocks_atRest _ _ _ fun _ => rfl).claimsHanded
    · exact before

theorem exec_claimsHanded {c : Instr} {s t : State} (before : s.ClaimsHanded) (h : exec c s = .next t)
    (stands : s.HoldStands t.clock) : t.ClaimsHanded := by
  cases hc : isLoaderCommand c with
  | true => exact loader_claimsHanded hc h before
  | false =>
    by_cases run : s.mode = .running
    · obtain ⟨u, act⟩ := exec_actsAt hc run h
      have reached : (s.reach u).clock = t.clock := act.clock.symm
      exact act.hands.claims (claimsHanded_later (reach_keeps u s) (by decide) (by rw [reached]; exact stands) before)
    · cases (nonloader_waits c s hc run).symm.trans h
      exact before

theorem step_claimsHanded {s t : State} (before : s.ClaimsHanded) (h : step s = .next t) (stands : s.HoldStands t.clock) :
    t.ClaimsHanded := by
  rcases step_cases h with ⟨c, rest, _, run⟩ | ⟨c, cs, _, _, rfl⟩ | ⟨_, _, rfl⟩
  · exact exec_claimsHanded (s := { s with pending := rest }) before run stands
  · exact before
  · exact claimsHanded_later (passBit_keeps s) (by decide) stands before

/-- Settles O32: whatever unclaims a request or frees a place ends with the handing, and a retry hold is the expiry of an entry. -/
theorem claimIsHandedForOldestRequest : Obligations.ClaimIsHandedForOldestRequest := by
  refine ⟨fun s t before h => ?_, fun s t before h => holdRight_lasting.step h before, fun s h running right held passed => ?_,
    fun s => ⟨claimsHanded_iff s, fun r oldest room calm free => handClaim_result oldest room calm free, fun reason => ?_,
      handClaim_of_handed (handClaims_handed s)⟩⟩
  · by_cases stands : s.HoldStands t.clock
    · exact .inl (step_claimsHanded before h stands)
    · unfold State.HoldStands at stands
      push Not at stands
      exact .inr stands
  · obtain ⟨e, m, _, ends⟩ := right h held
    obtain ⟨u, next, le⟩ := earliest_le (List.mem_append_left (s.claims.own.filterMap (·.expires))
      (List.mem_map.mpr ⟨e, m, ends⟩))
    rw [mem_dueNow_iff running]
    exact mem_due.mpr ⟨rfl, u, next, le.trans passed⟩
  · refine handClaim_of_handed ?_
    rcases reason with full | clashed | held | none_
    · exact .inr (.inl full)
    · exact .inr (.inr (.inl clashed))
    · exact .inr (.inr (.inr held))
    · exact .inl fun r m => by simpa using List.find?_eq_none.mp none_ r m

end Sys2Proof.Machine
end

section
/-! PROOF. Claims at their line position, the end of claims and the completion of an own CLAIM (R69, R78 to R83, R152). -/

namespace Sys2Proof.Machine

/-! ## Admission (R80) and the reserve (R82) -/

theorem admits_iff {s : State} {e : ClaimEntry} {at_ : Nat} (position : e.position = at_) :
    admits s.cfg.pulseAllowance s.claims.entries e = true ↔ s.Fits at_ e.owner e.amount := by
  subst position
  simp only [admits, State.Fits, Bool.and_eq_true, decide_eq_true_eq, and_assoc]
  rfl

theorem fits_congr {s t : State} {at_ : Nat} {owner : Source} {amount : Nat} (cfg : t.cfg = s.cfg)
    (entries : t.claims.entries = s.claims.entries) : t.Fits at_ owner amount ↔ s.Fits at_ owner amount := by
  unfold State.Fits
  rw [cfg, entries]

/-- A claim lives at its own position. -/
theorem expiry_after (e : ClaimEntry) : e.position < e.expiry := by
  unfold ClaimEntry.expiry
  rw [momentAfter_eq]
  have tail : claimTailMs = 100 := rfl
  omega

theorem liveClaims_newest {at_ : Nat} {es : List ClaimEntry} {e : ClaimEntry} (admitted : e.admitted = true)
    (position : e.position = at_) : liveClaims at_ (es ++ [e]) = liveClaims at_ es ++ [e] := by
  have lives : at_ < e.expiry := position ▸ expiry_after e
  rw [liveClaims_append]
  congr 1
  exact List.filter_cons_of_pos (by simp [admitted, lives])

theorem sumAmounts_append (es : List ClaimEntry) (e : ClaimEntry) : sumAmounts (es ++ [e]) = sumAmounts es + e.amount := by
  simp [sumAmounts]

theorem setReserve_keeps (n : Nat) (s : State) : Keeps [.reserve] s { s with share := { s.share with reserve := n } } := by
  intro p hp; cases p <;> simp_all [same]

theorem setEntries_keeps (es : List ClaimEntry) (s : State) : Keeps [.claimList] s { s with claims := { s.claims with entries := es } } := by
  intro p hp; cases p <;> simp_all [same]

/-- A report of R: the sum over the live entries, and a computation. -/
theorem reportReserve_result (s : State) :
    s.reportReserve.share.reserve = sumAmounts (liveClaims s.clock s.claims.entries) ∧ Computed 0 s s.reportReserve := by
  unfold State.reportReserve
  generalize sumAmounts (liveClaims s.clock s.claims.entries) = n
  exact ⟨compute_keeps false _ .reserve (by decide), (computed_after (setReserve_keeps n s) (by decide)).1⟩

/-- An admitted claim joins the list and the reserve (R79, R82). -/
theorem enterClaim_result {s : State} {e : ClaimEntry} (position : e.position = s.clock) :
    (s.enterClaim e).claims.entries = s.claims.entries ++ [{ e with admitted := true }] ∧
    (s.enterClaim e).share.reserve = sumAmounts (liveClaims s.clock s.claims.entries) + e.amount ∧
    Computed 0 s (s.enterClaim e) := by
  have set := setEntries_keeps (s.claims.entries ++ [{ e with admitted := true }]) s
  have newest : sumAmounts (liveClaims s.clock (s.claims.entries ++ [{ e with admitted := true }])) =
      sumAmounts (liveClaims s.clock s.claims.entries) + e.amount := by
    rw [liveClaims_newest (e := { e with admitted := true }) rfl position, sumAmounts_append]
  generalize hv : ({ s with claims := { s.claims with entries := s.claims.entries ++ [{ e with admitted := true }] } } : State) = v
    at set
  have made : s.enterClaim e = v.reportReserve := hv ▸ rfl
  have list : v.reportReserve.claims.entries = v.claims.entries := reportReserve_keeps v .claimList (by decide)
  obtain ⟨reserve, computed⟩ := reportReserve_result v
  rw [made]
  refine ⟨list.trans (hv ▸ rfl), reserve.trans ?_, computed.after set (by decide)⟩
  rw [← newest, ← hv]

/-- Settles O31: the frame is judged by the list as the watch leaves it, which is the list at its position. -/
theorem claimIsJudgedAtItsPosition : Obligations.ClaimIsJudgedAtItsPosition := by
  intro s src p running receives len
  have formed : malformed 0 p = false := by simp [malformed, len]
  have watched := watched_keeps src s
  have clock : (s.watched src).clock = s.clock := watched .clock (by decide)
  have entries : (s.watched src).claims.entries = s.claims.entries := watched .claimList (by decide)
  have cfg : (s.watched src).cfg = s.cfg := watched .cfg (by decide)
  let e := claimOf src p (s.watched src).clock
  have judged : admits (s.watched src).cfg.pulseAllowance (s.watched src).claims.entries e = true ↔ s.Fits s.clock src (byteAt p 2) :=
    (admits_iff (e := e) clock).trans (fits_congr cfg entries)
  refine ⟨_, exec_taken (c := .claim src p) rfl running receives (by omega) formed, fun fits => ?_, fun unfit => ?_⟩
  · have taken : (s.watched src).consume 0 src p = (s.watched src).enterClaim e := if_pos (judged.mpr fits)
    obtain ⟨list, reserve, computed⟩ := enterClaim_result (s := s.watched src) (e := e) rfl
    rw [taken, list, reserve, entries, clock]
    refine ⟨?_, rfl, computed, enterClaim_keeps e _⟩
    rw [← clock]
    rfl
  · exact if_neg fun fits => unfit (judged.mp fits)

/-! ## What the handing leaves -/

theorem claimRequest_asked (i : SlotNo) (rs : List Request) : (claimRequest i rs).map Request.asked = rs.map Request.asked := by
  rw [claimRequest, List.map_map]
  exact List.map_congr_left fun r _ => by show Request.asked (if r.slot = i then _ else r) = _; split <;> rfl

theorem handClaim_asked (s : State) : s.handClaim.claims.requests.map Request.asked = s.claims.requests.map Request.asked := by
  rcases handed_or_acts s with handed | ⟨r, oldest, room, calm, free⟩
  · rw [handClaim_of_handed handed]
  · rw [handClaim_acts oldest room calm free]
    exact claimRequest_asked _ _

theorem handClaims_asked (s : State) : s.handClaims.claims.requests.map Request.asked = s.claims.requests.map Request.asked :=
  (handClaim_asked _).trans (handClaim_asked s)

/-- A claim handed is not decided yet. -/
theorem handClaim_own_mem {s : State} {c : OwnClaim} (m : c ∈ s.handClaim.claims.own) : c ∈ s.claims.own ∨ c.expires = none := by
  rcases handed_or_acts s with handed | ⟨r, oldest, room, calm, free⟩
  · rw [handClaim_of_handed handed] at m
    exact .inl m
  · rw [handClaim_acts oldest room calm free] at m
    rcases List.mem_append.mp m with old | new
    · exact .inl old
    · rw [List.mem_singleton.mp new]
      exact .inr rfl

theorem handClaim_own_keeps {s : State} {c : OwnClaim} (m : c ∈ s.claims.own) : c ∈ s.handClaim.claims.own := by
  rcases handed_or_acts s with handed | ⟨r, oldest, room, calm, free⟩
  · rw [handClaim_of_handed handed]
    exact m
  · rw [handClaim_acts oldest room calm free]
    exact List.mem_append_left _ m

theorem handClaims_own_mem {s : State} {c : OwnClaim} (m : c ∈ s.handClaims.claims.own) : c ∈ s.claims.own ∨ c.expires = none := by
  rcases handClaim_own_mem m with old | new
  · exact handClaim_own_mem old
  · exact .inr new

theorem handClaims_own_keeps {s : State} {c : OwnClaim} (m : c ∈ s.claims.own) : c ∈ s.handClaims.claims.own :=
  handClaim_own_keeps (handClaim_own_keeps m)

/-! ## The end of claims (R79, R81, R82) -/

/-- Settles O33: all that has expired leaves at once; the report of R and the handing follow. -/
theorem claimsExpireTogether : Obligations.ClaimsExpireTogether := by
  intro s u running next
  let r := s.reach u
  let v : State := { r with claims := { r.claims with
    entries := liveClaims r.clock r.claims.entries
    own := r.claims.own.filter (fun c => c.expires.all (fun t => r.clock < t))
    retryHold := r.claims.retryHold.filter (fun t => r.clock < t) } }
  have acts : exec .claimExpiry s = .next v.reportReserve.handClaims :=
    show execClaimExpiry s = _ from whileRunning_next running (by simp only [next]; rfl)
  have set : Keeps [.clock, .requests, .claimList] s v :=
    ((reach_keeps u s).mono (by decide)).trans
      (show Keeps [.clock, .requests, .claimList] r v by intro p hp; cases p <;> simp_all [same, v])
  have reported := reportReserve_keeps v
  have handing := handClaims_keeps v.reportReserve
  obtain ⟨reserve, computed⟩ := reportReserve_result v
  have clock : v.reportReserve.handClaims.clock = max s.clock u :=
    Eq.trans (handing .clock (by decide)) (reported .clock (by decide))
  have entries : v.reportReserve.handClaims.claims.entries = liveClaims (max s.clock u) s.claims.entries :=
    Eq.trans (handing .claimList (by decide)) (reported .claimList (by decide))
  obtain ⟨requests, own, _, hold⟩ := reported .requests (by decide)
  have ends : v.reportReserve.handClaims.share.reserve = v.reportReserve.share.reserve := handing .reserve (by decide)
  refine ⟨_, acts, clock, ?_, ?_, fun c m x decided => ?_, fun c m lives => ?_, fun x => ?_, handClaims_handed _, ?_,
    (computed.after set (by decide)).before handing (by decide) (by decide),
    ((set.mono (by decide)).trans (reported.mono (by decide))).trans (handing.mono (by decide))⟩
  · rw [clock]; exact entries
  · rw [ends, reserve, entries]
    exact congrArg sumAmounts (liveClaims_idem _ _)
  · rcases handClaims_own_mem m with old | new
    · rw [own] at old
      have lives := (List.mem_filter.mp old).2
      rw [decided] at lives
      rw [clock]
      exact of_decide_eq_true lives
    · rw [new] at decided
      cases decided
  · refine handClaims_own_keeps ?_
    rw [own]
    refine List.mem_filter.mpr ⟨m, ?_⟩
    rw [Option.all_eq_true]
    intro x is
    rw [clock] at lives
    exact decide_eq_true (lives x is)
  · rw [handClaims_hold, hold, clock]
    show Option.filter _ s.claims.retryHold = some x ↔ _
    rw [Option.filter_eq_some_iff]
    exact and_congr_right fun _ => decide_eq_true_iff
  · rw [handClaims_asked, requests]
    rfl

end Sys2Proof.Machine
end

section
/-! PROOF. The completion of an own frame: its entry leaves the queue, and an own CLAIM is decided (R69, R81, R82, R152). -/

namespace Sys2Proof.Machine

/-! ## What handing does to the entries of the queue (R148, R149) -/

/-- Entries stay, a NEED perhaps with other sums, and those that join take later orders. -/
structure Line.Extends (l m : Line) : Prop where
  next : l.nextOrder ≤ m.nextOrder
  kept : ∀ x ∈ l.queue, ∃ y ∈ m.queue, y.order = x.order ∧ (x.frame.isNeed = false → y = x)
  later : ∀ y ∈ m.queue, (∃ x ∈ l.queue, y.order = x.order) ∨ l.nextOrder ≤ y.order

theorem Line.Extends.refl (l : Line) : l.Extends l := ⟨le_refl _, fun x m => ⟨x, m, rfl, fun _ => rfl⟩, fun y m => .inl ⟨y, m, rfl⟩⟩

theorem Line.Extends.trans {l m n : Line} (h : l.Extends m) (k : m.Extends n) : l.Extends n where
  next := h.next.trans k.next
  kept x held := by
    obtain ⟨y, my, oy, same⟩ := h.kept x held
    obtain ⟨z, mz, oz, again⟩ := k.kept y my
    refine ⟨z, mz, oz.trans oy, fun other => ?_⟩
    rw [same other] at again
    exact again other
  later z held := by
    rcases k.later z held with ⟨y, my, oz⟩ | late
    · rcases h.later y my with ⟨x, mx, oy⟩ | late
      · exact .inl ⟨x, mx, oz.trans oy⟩
      · exact .inr (oz ▸ late)
    · exact .inr (h.next.trans late)

theorem lineHand_extends (f : TxFrame) (l : Line) : l.Extends (l.hand f) := by
  unfold Line.hand
  split
  · exact ⟨le_refl _, fun x m => ⟨x, m, rfl, fun _ => rfl⟩, fun y m => .inl ⟨y, m, rfl⟩⟩
  · refine ⟨Nat.le_succ _, fun x m => ⟨x, (mem_insertEntry _ _ _).mpr (.inr m), rfl, fun _ => rfl⟩, fun y m => ?_⟩
    rcases (mem_insertEntry _ _ _).mp m with rfl | old
    · exact .inr (le_refl _)
    · exact .inl ⟨y, old, rfl⟩

theorem refreshNeed_extends {f : TxFrame} : ∀ q : List TxEntry,
    (∀ x ∈ q, ∃ y ∈ refreshNeed f q, y.order = x.order ∧ (x.frame.isNeed = false → y = x)) ∧
    ∀ y ∈ refreshNeed f q, ∃ x ∈ q, y.order = x.order
  | [] => ⟨nofun, nofun⟩
  | e :: es => by
    obtain ⟨kept, old⟩ := refreshNeed_extends (f := f) es
    rw [refreshNeed]
    split
    next waits =>
      have need : e.frame.isNeed = true := (Bool.and_eq_true _ _ ▸ waits).1
      refine ⟨fun x m => ?_, fun y m => ?_⟩
      · rcases List.mem_cons.mp m with rfl | m
        · exact ⟨_, List.mem_cons_self, rfl, fun other => by rw [need] at other; cases other⟩
        · exact ⟨x, List.mem_cons_of_mem _ m, rfl, fun _ => rfl⟩
      · rcases List.mem_cons.mp m with rfl | m
        · exact ⟨e, List.mem_cons_self, rfl⟩
        · exact ⟨y, List.mem_cons_of_mem _ m, rfl⟩
    next =>
      refine ⟨fun x m => ?_, fun y m => ?_⟩
      · rcases List.mem_cons.mp m with rfl | m
        · exact ⟨x, List.mem_cons_self, rfl, fun _ => rfl⟩
        · obtain ⟨y, my, same⟩ := kept x m
          exact ⟨y, List.mem_cons_of_mem _ my, same⟩
      · rcases List.mem_cons.mp m with rfl | m
        · exact ⟨y, List.mem_cons_self, rfl⟩
        · obtain ⟨x, mx, same⟩ := old y m
          exact ⟨x, List.mem_cons_of_mem _ mx, same⟩

theorem lineHandNeed_extends (f : TxFrame) (l : Line) : l.Extends (l.handNeed f) := by
  unfold Line.handNeed
  split
  · obtain ⟨kept, old⟩ := refreshNeed_extends (f := f) l.queue
    exact ⟨le_refl _, kept, fun y m => .inl (old y m)⟩
  · exact lineHand_extends f l

/-- A computation and a settling hand frames only. -/
theorem extends_rounds (l : Line) : Rounds (fun s => l.Extends s.line) where
  notice k i d s h := by
    unfold State.notice
    split
    · exact h.trans (lineHand_extends _ _)
    · exact h
  charge _ _ h := h
  results _ _ _ _ _ h := h
  sums o s h := by
    unfold State.judgeEarlyNeed
    split
    · split
      · exact h.trans (lineHandNeed_extends _ _)
      · exact h
    · exact h

theorem reportReserve_extends (s : State) : s.line.Extends s.reportReserve.line := by
  unfold State.reportReserve
  generalize sumAmounts (liveClaims s.clock s.claims.entries) = n
  exact (extends_rounds s.line).compute (s := { s with share := { s.share with reserve := n } }) false (.refl _)

theorem enterClaim_extends (e : ClaimEntry) (s : State) : s.line.Extends (s.enterClaim e).line := by
  unfold State.enterClaim
  exact reportReserve_extends { s with claims := { s.claims with entries := s.claims.entries ++ [{ e with admitted := true }] } }

theorem handClaim_extends (s : State) : s.line.Extends s.handClaim.line := by
  rcases handed_or_acts s with handed | ⟨r, oldest, room, calm, free⟩
  · rw [handClaim_of_handed handed]
    exact .refl _
  · rw [handClaim_acts oldest room calm free]
    exact lineHand_extends (.claim s.claims.tagCounter r.op r.slot (claimAmount s.cfg r.op) (claimDuration s.cfg)) s.line

theorem handClaims_extends (s : State) : s.line.Extends s.handClaims.line :=
  (handClaim_extends s).trans (handClaim_extends _)

theorem drivePulse_line (i : SlotNo) (op : LatchOp) (d : Nat) (s : State) : (s.drivePulse i op d).line = s.line := by
  unfold State.drivePulse
  dsimp only
  split <;> rfl

theorem ownAdmitted_extends (c : OwnClaim) (e : ClaimEntry) (s : State) : s.line.Extends (s.ownAdmitted c e).line := by
  unfold State.ownAdmitted
  dsimp only
  generalize s.claims.own.map _ = own
  have entered := enterClaim_extends e { s with claims := { s.claims with own := own } }
  change s.line.Extends _ at entered
  generalize State.enterClaim e _ = w at entered ⊢
  split
  · rw [drivePulse_line]
    exact entered
  · exact entered

theorem ownRefused_extends (c : OwnClaim) (s : State) : s.line.Extends (s.ownRefused c).line := by
  unfold State.ownRefused
  dsimp only
  generalize hu : (if c.hasRequest = true then _ else _ : State) = u
  have line : u.line = s.line := by
    rw [← hu]
    split <;> rfl
  rw [← line]
  exact handClaims_extends u

theorem completeOwnClaim_extends (tag : Nat) (op : LatchOp) (i : SlotNo) (a d : Nat) (s : State) :
    s.line.Extends (s.completeOwnClaim tag op i a d).line := by
  have taken : ∀ e, s.line.Extends (s.takeClaim e).line := fun e => by
    unfold State.takeClaim
    split
    · exact enterClaim_extends e s
    · exact .refl _
  unfold State.completeOwnClaim
  dsimp only
  split
  · exact taken _
  · split
    · exact ownAdmitted_extends _ _ s
    · exact ownRefused_extends _ s

/-! ## The decision on an own CLAIM (R81) -/

/-- The latch record once the admitted claim of its request drives the bolt (R69). -/
def LatchSlot.driven (op : LatchOp) (ends : Nat) (l : LatchSlot) : LatchSlot :=
  match op, l.state with
  | .withdraw, .withdrawWait _ => { l with state := .withdrawing ends, moved := false }
  | .throw_, .throwWait => { l with state := .throwing ends }
  | _, _ => l

theorem drivePulse_latch (i : SlotNo) (op : LatchOp) (d : Nat) (s : State) :
    (s.drivePulse i op d).latch = setAt s.latch i ((s.latch.get i).driven op (momentAfter s.clock (d * 10))) := by
  unfold State.drivePulse LatchSlot.driven
  dsimp only
  cases op with
  | withdraw =>
    cases (s.latch.get i).state with
    | withdrawWait u => rfl
    | _ => exact (setAt_get s.latch i).symm
  | throw_ =>
    cases (s.latch.get i).state with
    | throwWait => rfl
    | _ => exact (setAt_get s.latch i).symm

/-- The entry that an own CLAIM frame makes at a moment (R79). -/
def State.ownEntry (s : State) (tag : Nat) (op : LatchOp) (slot : SlotNo) (amount duration : Nat) : ClaimEntry :=
  { owner := ⟨s.address.val, by omega⟩, tag := tag, slot := slot.val, op := op, amount := amount, duration := duration
    position := s.clock, admitted := false }

section
variable {tag : Nat} {op : LatchOp} {slot : SlotNo} {amount duration : Nat} {v : State} {c : OwnClaim}

theorem ownMatches_iff : OwnClaim.matches tag op slot c = true ↔ c.tag = tag ∧ c.op = op ∧ c.slot = slot ∧ c.expires = none :=
  decide_eq_true_iff

theorem found_matches (found : v.claims.own.find? (OwnClaim.matches tag op slot) = some c) :
    c.tag = tag ∧ c.op = op ∧ c.slot = slot ∧ c.expires = none := ownMatches_iff.mp (List.find?_some found)

theorem completeOwnClaim_admitted (fits : admits v.cfg.pulseAllowance v.claims.entries (v.ownEntry tag op slot amount duration) = true)
    (found : v.claims.own.find? (OwnClaim.matches tag op slot) = some c) :
    v.completeOwnClaim tag op slot amount duration = v.ownAdmitted c (v.ownEntry tag op slot amount duration) := by
  unfold State.completeOwnClaim
  rw [found]
  exact if_pos fits

theorem completeOwnClaim_refused (unfit : admits v.cfg.pulseAllowance v.claims.entries (v.ownEntry tag op slot amount duration) = false)
    (found : v.claims.own.find? (OwnClaim.matches tag op slot) = some c) :
    v.completeOwnClaim tag op slot amount duration = v.ownRefused c := by
  unfold State.completeOwnClaim
  rw [found]
  exact if_neg (Bool.eq_false_iff.mp unfit)

theorem completeOwnClaim_orphan (none_ : v.claims.own.find? (OwnClaim.matches tag op slot) = none) :
    v.completeOwnClaim tag op slot amount duration = v.takeClaim (v.ownEntry tag op slot amount duration) := by
  unfold State.completeOwnClaim
  rw [none_]
  rfl

theorem map_decided_none {ends : Nat} (none_ : v.claims.own.find? (OwnClaim.matches tag op slot) = none) :
    v.claims.own.map (fun x => if OwnClaim.matches tag op slot x then { x with expires := some ends } else x) = v.claims.own := by
  refine (List.map_congr_left fun x m => ?_).trans (List.map_id _)
  rw [if_neg (List.find?_eq_none.mp none_ x m)]
  rfl

/-- What the admission of an own CLAIM leaves (R81, R82, R69). -/
structure OwnClaimAdmitted (mine : OwnClaim → Bool) (op : LatchOp) (slot : SlotNo) (e : ClaimEntry) (v t : State) : Prop where
  entries : t.claims.entries = v.claims.entries ++ [{ e with admitted := true }]
  reserve : t.share.reserve = sumAmounts (liveClaims v.clock v.claims.entries) + e.amount
  computed : Computed 0 v t
  own : t.claims.own = v.claims.own.map (fun x => if mine x then { x with expires := some e.expiry } else x)
  hold : t.claims.retryHold = v.claims.retryHold
  drives : ∀ c, v.claims.own.find? mine = some c → c.hasRequest = true →
    t.claims.requests = dropRequest slot v.claims.requests ∧
    t.latch = setAt v.latch slot ((v.latch.get slot).driven op (momentAfter v.clock (e.duration * 10)))
  still : (∀ c, v.claims.own.find? mine = some c → c.hasRequest = false) → t.latch = v.latch ∧ t.claims.requests = v.claims.requests

theorem setOwn_keeps (own : List OwnClaim) (s : State) : Keeps [.requests] s { s with claims := { s.claims with own := own } } := by
  intro p hp; cases p <;> simp_all [same]

/-- The admission of an own CLAIM before its request is looked at. -/
theorem enterOwn_result {own : List OwnClaim} {e : ClaimEntry} (position : e.position = v.clock) :
    let w := ({ v with claims := { v.claims with own := own } } : State).enterClaim e
    w.claims.entries = v.claims.entries ++ [{ e with admitted := true }] ∧
    w.share.reserve = sumAmounts (liveClaims v.clock v.claims.entries) + e.amount ∧ Computed 0 v w ∧
    w.claims.own = own ∧ w.claims.retryHold = v.claims.retryHold ∧ w.claims.requests = v.claims.requests ∧ w.latch = v.latch ∧
    w.clock = v.clock := by
  have set := setOwn_keeps own v
  generalize hx : ({ v with claims := { v.claims with own := own } } : State) = x at set
  have entries : x.claims.entries = v.claims.entries := set .claimList (by decide)
  have clock : x.clock = v.clock := set .clock (by decide)
  have latch : x.latch = v.latch := set .latch (by decide)
  obtain ⟨list, reserve, computed⟩ := enterClaim_result (s := x) (e := e) (position.trans clock.symm)
  have keeps := enterClaim_keeps e x
  obtain ⟨requests, owns, _, hold⟩ := keeps .requests (by decide)
  rw [entries] at list
  rw [entries, clock] at reserve
  exact ⟨list, reserve, computed.after set (by decide), owns.trans (hx ▸ rfl), hold.trans (hx ▸ rfl), requests.trans (hx ▸ rfl),
    Eq.trans (keeps .latch (by decide)) latch, Eq.trans (keeps .clock (by decide)) clock⟩

theorem completeOwnClaim_admits
    (fits : admits v.cfg.pulseAllowance v.claims.entries (v.ownEntry tag op slot amount duration) = true) :
    OwnClaimAdmitted (OwnClaim.matches tag op slot) op slot (v.ownEntry tag op slot amount duration) v
      (v.completeOwnClaim tag op slot amount duration) := by
  generalize he : v.ownEntry tag op slot amount duration = e at fits
  have position : e.position = v.clock := he ▸ rfl
  cases found : v.claims.own.find? (OwnClaim.matches tag op slot) with
  | none =>
    rw [completeOwnClaim_orphan found, he, State.takeClaim, if_pos fits]
    obtain ⟨list, reserve, computed⟩ := enterClaim_result position
    have keeps := enterClaim_keeps e v
    obtain ⟨requests, own, _, hold⟩ := keeps .requests (by decide)
    exact ⟨list, reserve, computed, own.trans (map_decided_none found).symm, hold,
      fun c is => (by rw [found] at is; cases is), fun _ => ⟨keeps .latch (by decide), requests⟩⟩
  | some c =>
    obtain ⟨isTag, isOp, isSlot, _⟩ := found_matches found
    rw [completeOwnClaim_admitted (he.symm ▸ fits) found, he]
    obtain ⟨list, reserve, computed, own, hold, requests, latch, clock⟩ := enterOwn_result (v := v)
      (own := v.claims.own.map (fun x => if OwnClaim.matches tag op slot x then { x with expires := some e.expiry } else x)) position
    unfold State.ownAdmitted
    rw [isTag, isOp, isSlot]
    dsimp only
    generalize State.enterClaim e _ = w at list reserve computed own hold requests latch clock ⊢
    split
    next asks =>
      let x := w.setRequests (dropRequest slot w.claims.requests)
      have driven : Keeps [.latch] x (x.drivePulse slot op e.duration) := drivePulse_keeps slot op e.duration x
      have keeps : Keeps [.requests, .latch] w (x.drivePulse slot op e.duration) :=
        ((setRequests_keeps _ w).mono (by decide)).trans (driven.mono (by decide))
      obtain ⟨sameRequests, sameOwn, _, sameHold⟩ := driven .requests (by decide)
      have sameEntries : (x.drivePulse slot op e.duration).claims.entries = w.claims.entries := keeps .claimList (by decide)
      have sameReserve : (x.drivePulse slot op e.duration).share.reserve = w.share.reserve := keeps .reserve (by decide)
      refine ⟨sameEntries.trans list, sameReserve.trans reserve, computed.before keeps (by decide) (by decide), sameOwn.trans own,
        sameHold.trans hold, fun _ _ _ => ⟨?_, ?_⟩, fun still => ?_⟩
      · rw [sameRequests]
        show dropRequest slot w.claims.requests = _
        rw [requests]
      · rw [drivePulse_latch]
        show setAt w.latch slot (LatchSlot.driven op (momentAfter w.clock _) (w.latch.get slot)) = _
        rw [latch, clock]
      · rw [still c found] at asks
        cases asks
    next orphan =>
      refine ⟨list, reserve, computed, own, hold, fun d is asks => ?_, fun _ => ⟨latch, requests⟩⟩
      rw [found] at is
      rw [← Option.some.inj is] at asks
      exact absurd asks orphan

/-- A claim that does not fit though its amount is within the allowance finds a live one. -/
theorem live_of_unfit {at_ : Nat} {owner : Source} (unfit : ¬ v.Fits at_ owner amount) (within : amount ≤ v.cfg.pulseAllowance) :
    liveClaims at_ v.claims.entries ≠ [] := by
  intro empty
  refine unfit ?_
  unfold State.Fits
  rw [empty]
  exact ⟨Nat.two_pos, by simpa [sumAmounts] using within, by decide⟩

/-- The retry hold of a refused claim: the earliest expiry of a live entry (R81). -/
theorem earliestLive {at_ : Nat} {es : List ClaimEntry} (some_ : liveClaims at_ es ≠ []) :
    ∃ h, earliest ((liveClaims at_ es).map ClaimEntry.expiry) = some h ∧ (∃ y ∈ liveClaims at_ es, y.expiry = h) ∧
      (∀ y ∈ liveClaims at_ es, h ≤ y.expiry) ∧ at_ < h := by
  obtain ⟨e, m⟩ := List.exists_mem_of_ne_nil _ some_
  obtain ⟨h, is, _⟩ := earliest_le (List.mem_map.mpr ⟨e, m, rfl⟩)
  obtain ⟨y, my, ends⟩ := List.mem_map.mp (earliest_mem is)
  refine ⟨h, is, ⟨y, my, ends⟩, fun z mz => ?_, ?_⟩
  · obtain ⟨u, isu, le⟩ := earliest_le (List.mem_map.mpr ⟨z, mz, rfl⟩)
    rw [is] at isu
    exact Option.some.inj isu ▸ le
  · have live := (List.mem_filter.mp my).2
    rw [← ends]
    exact of_decide_eq_true (Bool.and_eq_true _ _ ▸ live).2

theorem handClaims_of_handed {s : State} (handed : s.ClaimsHanded) : s.handClaims = s := by
  unfold State.handClaims
  rw [handClaim_of_handed handed, handClaim_of_handed handed]

/-- What the refusal of an own CLAIM leaves (R81). -/
structure OwnClaimRefused (mine : OwnClaim → Bool) (slot : SlotNo) (v t : State) : Prop where
  keeps : Keeps [.requests, .queue] v t
  waits : ∀ c, v.claims.own.find? mine = some c → c.hasRequest = true → liveClaims v.clock v.claims.entries ≠ [] →
    t.claims.own = v.claims.own.filter (fun y => !mine y) ∧ t.claims.requests = requestToFront slot v.claims.requests ∧
    t.claims.retryHold = earliest ((liveClaims v.clock v.claims.entries).map ClaimEntry.expiry)
  still : (∀ c, v.claims.own.find? mine = some c → c.hasRequest = false) →
    t.claims.retryHold = v.claims.retryHold ∧ t.claims.requests.map Request.asked = v.claims.requests.map Request.asked

theorem completeOwnClaim_refuses
    (unfit : admits v.cfg.pulseAllowance v.claims.entries (v.ownEntry tag op slot amount duration) = false) :
    OwnClaimRefused (OwnClaim.matches tag op slot) slot v (v.completeOwnClaim tag op slot amount duration) := by
  cases found : v.claims.own.find? (OwnClaim.matches tag op slot) with
  | none =>
    rw [completeOwnClaim_orphan found, State.takeClaim, if_neg (Bool.eq_false_iff.mp unfit)]
    exact ⟨Keeps.refl _ v, fun c is => (by rw [found] at is; cases is), fun _ => ⟨rfl, rfl⟩⟩
  | some c =>
    obtain ⟨isTag, isOp, isSlot, _⟩ := found_matches found
    rw [completeOwnClaim_refused unfit found]
    refine ⟨ownRefused_keeps c v, fun d is asks live => ?_, fun still => ?_⟩
    · rw [found] at is
      rw [← Option.some.inj is] at asks
      obtain ⟨h, held, _, _, ahead⟩ := earliestLive live
      unfold State.ownRefused
      rw [isTag, isOp, isSlot]
      dsimp only
      rw [if_pos asks]
      generalize hu : (State.mk _ _ _ _ _ _ _ _ _ _ _ _ _ _ _ _ _ _ _) = w
      have handed : w.ClaimsHanded := .inr (.inr (.inr ⟨h, by rw [← hu]; exact held, by rw [← hu]; exact ahead⟩))
      rw [handClaims_of_handed handed, ← hu]
      exact ⟨rfl, rfl, rfl⟩
    · unfold State.ownRefused
      dsimp only
      rw [if_neg (by rw [still c found]; exact Bool.false_ne_true)]
      exact ⟨handClaims_hold _, handClaims_asked _⟩

end

/-! ## The completion (R152) -/

/-- The state at the end of the end field of an own frame, its entry gone (R152). -/
def State.sentOut (e : TxEntry) (s : State) : State :=
  s.setLine { s.line with queue := removeEntry e s.line.queue, phase := .ended idleAfterFrame }

theorem sentOut_keeps (e : TxEntry) (s : State) : Keeps [.queue, .linePhase] s (s.sentOut e) := by
  intro p hp; cases p <;> simp_all [same, State.sentOut, State.setLine]

theorem completeAttempt_extends (e : TxEntry) (s : State) : (s.sentOut e).line.Extends (s.completeAttempt e).line := by
  unfold State.completeAttempt State.ownFrame
  split
  · exact completeOwnClaim_extends _ _ _ _ _ _
  · exact .refl _

theorem completeAttempt_phase (e : TxEntry) (s : State) : (s.completeAttempt e).line.phase = .ended 2 := by
  unfold State.completeAttempt State.ownFrame
  split
  · exact completeOwnClaim_keeps _ _ _ _ _ _ .linePhase (by decide)
  · rfl

/-- Settles O34: an own CLAIM is judged at the completion as any other, and its record says whose request it was. -/
theorem completionDecidesOwnClaim : Obligations.CompletionDecidesOwnClaim := by
  intro s u read e running sends sent
  let r := s.reach u
  have acts : exec .transmitComplete s = .next (r.completeAttempt e) :=
    show execTransmitComplete s = _ from whileRunning_next running (by simp only [sends, sent]; rfl)
  have whole := completeAttempt_keeps e r
  have clock : (r.completeAttempt e).clock = max s.clock u := whole .clock (by decide)
  have reached : Keeps [.clock] s r := reach_keeps u s
  have out : Keeps [.clock, .queue, .linePhase] s (r.sentOut e) :=
    (reached.mono (by decide)).trans ((sentOut_keeps e r).mono (by decide))
  refine ⟨_, acts, clock, completeAttempt_phase e r, fun right => ?_, fun other => ?_, fun tag op slot amount duration me frame own => ?_,
    (reached.mono (by decide)).trans (whole.mono (by decide))⟩
  · obtain ⟨_, kept, later⟩ := completeAttempt_extends e r
    refine ⟨fun x m => ?_, fun x m other => kept x (List.mem_filter.mpr ⟨m, decide_eq_true other⟩)⟩
    rcases later x m with ⟨y, my, order⟩ | late
    · rw [order]
      exact of_decide_eq_true (List.mem_filter.mp my).2
    · have below : e.order < s.line.nextOrder := right.2.2 e (List.mem_of_find?_eq_some sent)
      exact Nat.ne_of_gt (Nat.lt_of_lt_of_le below late)
  · have plain : r.completeAttempt e = r.sentOut e := by
      unfold State.completeAttempt State.ownFrame
      split
      next claim => rw [claim] at other; cases other
      next => rfl
    rw [plain]
    exact ⟨rfl, rfl, out⟩
  · let v := r.sentOut e
    have made : r.completeAttempt e = v.completeOwnClaim tag op slot amount duration := by
      unfold State.completeAttempt State.ownFrame
      rw [frame]
      rfl
    have owner : (v.ownEntry tag op slot amount duration).owner = me := Fin.ext own.symm
    have judged : admits v.cfg.pulseAllowance v.claims.entries (v.ownEntry tag op slot amount duration) = true ↔
        s.Fits (max s.clock u) me amount := by
      rw [← owner]
      exact admits_iff rfl
    subst owner
    rw [clock, made]
    intro live x mine
    have entry : { v.ownEntry tag op slot amount duration with admitted := true } = x := rfl
    refine ⟨fun fits => ?_, fun unfit => ?_⟩
    · obtain ⟨entries, reserve, computed, owns, hold, drives, still⟩ := completeOwnClaim_admits (judged.mpr fits)
      refine ⟨entries.trans (by rw [entry]; rfl), reserve, computed.after out (by decide), owns, hold, fun c found asks => ?_, still⟩
      obtain ⟨requests, latch⟩ := drives c found asks
      refine ⟨requests, ?_, fun k other => ?_⟩
      · rw [latch, get_setAt_same, momentAfter_eq]
        unfold LatchSlot.driven
        rfl
      · rw [latch, get_setAt_ne _ _ _ _ other]
        rfl
    · obtain ⟨keeps, waits, still⟩ := completeOwnClaim_refuses (Bool.eq_false_iff.mpr fun fits => unfit (judged.mp fits))
      refine ⟨(out.mono (by decide)).trans (keeps.mono (by decide)), fun c found asks within => ?_, still⟩
      have some_ : live ≠ [] := live_of_unfit unfit within
      obtain ⟨h, held, isLive, least, _⟩ := earliestLive some_
      obtain ⟨owns, requests, hold⟩ := waits c found asks some_
      exact ⟨owns, requests, h, hold.trans held, isLive, least⟩

end Sys2Proof.Machine
end

section
/-! PROOF. The ends of the pulses (R70, R71, R86, R101, R102), and the timers of the latch (R72, R73). -/

namespace Sys2Proof.Machine

/-! ## What an operation of the latch moves -/

/-- A latch record takes a state and an attempt; the other slots' records stay. -/
structure LatchMoves (i : SlotNo) (x : LatchState) (attempt : Nat) (s t : State) : Prop where
  record : t.latch.get i = { s.latch.get i with state := x, attempt := attempt }
  others : OthersSame i s.latch t.latch

theorem latchMoves_of_set {i : SlotNo} {x : LatchState} {attempt : Nat} {s t : State}
    (latch : t.latch = setAt s.latch i { s.latch.get i with state := x, attempt := attempt }) : LatchMoves i x attempt s t :=
  ⟨by rw [latch, get_setAt_same], fun k other => by rw [latch, get_setAt_ne _ _ _ _ other]⟩

theorem LatchMoves.keeps {ps : List Part} {i : SlotNo} {x : LatchState} {attempt : Nat} {s t u : State}
    (h : LatchMoves i x attempt s t) (k : Keeps ps t u) (n : .latch ∉ ps) : LatchMoves i x attempt s u := by
  have latch : u.latch = t.latch := k .latch n
  exact ⟨by rw [latch]; exact h.record, by rw [latch]; exact h.others⟩

/-- The Claim Unit's records where no part of them moves. -/
theorem claims_of_keeps {ps : List Part} {s t : State} (h : Keeps ps s t) (n : ∀ p ∈ [Part.requests, .claimList], p ∉ ps) :
    t.claims = s.claims := by
  obtain ⟨requests, own, tag, hold⟩ := h .requests (n _ (by simp))
  have entries : t.claims.entries = s.claims.entries := h .claimList (n _ (by simp))
  cases new : t.claims
  cases old : s.claims
  simp_all

theorem openState_congr {s t : State} (monitor : t.monitor = s.monitor) (clock : t.clock = s.clock) (cfg : t.cfg = s.cfg)
    (i : SlotNo) : t.openState i = s.openState i := by
  unfold State.openState State.isPresent
  rw [monitor, clock, cfg]

/-- What is read at entering OPEN stays where neither presence, clock nor record moves. -/
theorem openState_of_keeps {ps : List Part} {s t : State} (h : Keeps ps s t)
    (n : ∀ p ∈ [Part.monitor, .clock, .cfg], p ∉ ps) (i : SlotNo) : t.openState i = s.openState i :=
  openState_congr (h .monitor (n _ (by simp))) (h .clock (n _ (by simp))) (h .cfg (n _ (by simp))) i

section
variable (i : SlotNo) (s : State)

theorem learnLatch_moves : LatchMoves i (s.learntState i) 1 s (s.learnLatch i) :=
  ⟨by rw [learnLatch_latch, if_pos rfl], fun k other => by rw [learnLatch_latch, if_neg other]⟩

theorem openLatch_moves : LatchMoves i (s.openState i) (s.latch.get i).attempt s (s.openLatch i) :=
  ⟨by rw [openLatch_latch, if_pos rfl], fun k other => by rw [openLatch_latch, if_neg other]⟩

theorem setLatchState_moves (x : LatchState) : LatchMoves i x (s.latch.get i).attempt s (s.setLatchState i x) :=
  latchMoves_of_set rfl

/-- A request joins the tail of the queue (R77). -/
theorem addRequest_asks (op : LatchOp) (attempt : Nat) : Asks i op attempt s (s.addRequest i op attempt) := by
  unfold State.addRequest Asks
  rw [handClaims_asked]
  exact List.map_append

/-- A latch takes a state in which it waits for its claim, and asks for it (R68, R70, R71, R73). -/
theorem waits_moves (x : LatchState) (op : LatchOp) (attempt : Nat) :
    let t := (s.setLatch i { s.latch.get i with state := x, attempt := attempt }).addRequest i op attempt
    LatchMoves i x attempt s t ∧ Asks i op attempt s t :=
  ⟨(latchMoves_of_set (t := s.setLatch i { s.latch.get i with state := x, attempt := attempt }) rfl).keeps
    (addRequest_keeps i op attempt _) (by decide), addRequest_asks i _ op attempt⟩

/-- A jam: the state, the hold and the notice (R70, R71, R102). -/
theorem jam_result (op : LatchOp) :
    LatchMoves i .jammed (s.latch.get i).attempt s (s.jam i op) ∧ (s.jam i op).claims = s.claims ∧
    ∀ k, (s.jam i op).custody.slots.get k =
      if k = i then { s.custody.slots.get i with hold := some ⟨3, .jammed⟩ } else s.custody.slots.get k := by
  let u := (s.setLatchState i .jammed).notice .latchJammed (some i) (opCode op)
  have told : Keeps [.queue] (s.setLatchState i .jammed) u := notice_keeps _ _ _ _
  have reported : Keeps [.custody] u (s.jam i op) := jamReport_keeps i u
  have set : Keeps [.latch] s (s.setLatchState i .jammed) := setLatchState_keeps i .jammed s
  refine ⟨((setLatchState_moves i s .jammed).keeps told (by decide)).keeps reported (by decide), ?_, fun k => ?_⟩
  · rw [claims_of_keeps reported (by decide), claims_of_keeps told (by decide), claims_of_keeps set (by decide)]
  · have custody : u.custody.slots = s.custody.slots := told .custody (by decide)
    rw [State.jam, State.jamReport, setHold_slot, custody]

theorem jam_noticed {op : LatchOp} {s t v : State} (before : Orderly s v) (cfg : v.cfg = s.cfg) (after : Orderly (v.jam i op) t)
    (grows : Grows (v.jam i op) t) : NoticeHanded s t .latchJammed (some i) (opCode op) := by
  have reported := jamReport_keeps i ((v.setLatchState i .jammed).notice .latchJammed (some i) (opCode op))
  exact noticeHanded_of (u := v.setLatchState i .jammed)
    (before.trans (Orderly.of_keeps (setLatchState_keeps i _ v) (by decide))) cfg
    ((Orderly.of_keeps reported (by decide)).trans after) ((Grows.of_keeps reported (by decide)).trans grows)

end

/-! ## The end of a withdraw pulse (R70, R86) -/

/-- The slot whose pulse is over, before its bolt sense is read. -/
def State.pulseOver (i : SlotNo) (s : State) : State :=
  s.setLatch i { s.latch.get i with moved := false, learnAtEnd := false }

/-- What the bolt sense decides at the end of a withdraw pulse. -/
def State.withdrawRead (i : SlotNo) (s : State) : State :=
  if (s.latch.get i).learnAtEnd then (s.pulseOver i).learnLatch i
  else (s.pulseOver i).withdrawEnded i (s.latch.get i).attempt

theorem pulseOver_keeps (i : SlotNo) (s : State) : Keeps [.latch] s (s.pulseOver i) := setLatch_keeps i _ s

section
variable {i : SlotNo} {s : State}

theorem pulseOver_latch (k : SlotNo) : (s.pulseOver i).latch.get k =
    if k = i then { s.latch.get i with moved := false, learnAtEnd := false } else s.latch.get k := by
  rw [State.pulseOver, setLatch_latch]
  exact get_setAt _ _ _ _

theorem endWithdraw_eq : s.endWithdraw i =
    if (s.latch.get i).moved = true ∧ (s.monitor.get i).boltIn = .thrown then (s.withdrawRead i).tamperReport i .moved false
    else s.withdrawRead i := rfl

/-- After a pulse both marks of the record are gone. -/
theorem LatchMoves.marks {x : LatchState} {attempt : Nat} {t : State} (h : LatchMoves i x attempt (s.pulseOver i) t) :
    (t.latch.get i).state = x ∧ (t.latch.get i).attempt = attempt ∧ (t.latch.get i).moved = false ∧
      (t.latch.get i).learnAtEnd = false ∧ OthersSame i s.latch t.latch := by
  rw [h.record, pulseOver_latch, if_pos rfl]
  refine ⟨rfl, rfl, rfl, rfl, fun k other => ?_⟩
  rw [h.others k other, pulseOver_latch, if_neg other]

theorem pulseOver_learns (thrown : (s.monitor.get i).boltIn = .thrown) : (s.pulseOver i).learntState i = .locked := by
  unfold State.learntState
  rw [show (s.pulseOver i).monitor = s.monitor from rfl, thrown]

theorem pulseOver_opens (withdrawn : (s.monitor.get i).boltIn = .withdrawn) : (s.pulseOver i).learntState i = s.openState i := by
  unfold State.learntState
  rw [show (s.pulseOver i).monitor = s.monitor from rfl, withdrawn]
  rfl

theorem pulseOver_unlearns (unknown : (s.monitor.get i).boltIn = .unknown) : (s.pulseOver i).learntState i = .unlearned := by
  unfold State.learntState
  rw [show (s.pulseOver i).monitor = s.monitor from rfl, unknown]

theorem pulseOver_attempt : ((s.pulseOver i).latch.get i).attempt = (s.latch.get i).attempt := by
  rw [pulseOver_latch, if_pos rfl]

variable (i s)

theorem withdrawRead_withdrawn (withdrawn : (s.monitor.get i).boltIn = .withdrawn) :
    LatchMoves i (s.openState i) (if (s.latch.get i).learnAtEnd then 1 else (s.latch.get i).attempt) (s.pulseOver i)
      (s.withdrawRead i) ∧ Keeps [.latch] s (s.withdrawRead i) := by
  unfold State.withdrawRead
  cases (s.latch.get i).learnAtEnd with
  | true =>
    exact ⟨pulseOver_opens withdrawn ▸ learnLatch_moves i (s.pulseOver i), (pulseOver_keeps i s).trans (learnLatch_keeps i _)⟩
  | false =>
    have opens : (s.pulseOver i).withdrawEnded i (s.latch.get i).attempt = (s.pulseOver i).openLatch i := by
      rw [State.withdrawEnded, show (s.pulseOver i).monitor = s.monitor from rfl, withdrawn]
    simp only [Bool.false_eq_true, if_false]
    rw [opens]
    exact ⟨pulseOver_attempt (s := s) ▸ openLatch_moves i (s.pulseOver i), (pulseOver_keeps i s).trans (openLatch_keeps i _)⟩

theorem withdrawRead_learns (learns : (s.latch.get i).learnAtEnd = true) : s.withdrawRead i = (s.pulseOver i).learnLatch i := by
  rw [State.withdrawRead, if_pos learns]

theorem withdrawRead_first (thrown : (s.monitor.get i).boltIn = .thrown) (pulse : (s.latch.get i).learnAtEnd = false)
    (first : (s.latch.get i).attempt = 1) : s.withdrawRead i = ((s.pulseOver i).setLatch i { (s.pulseOver i).latch.get i with
      state := .withdrawWait (momentAfter s.clock claimWaitMs), attempt := 2 }).addRequest i .withdraw 2 := by
  rw [State.withdrawRead, pulse, if_neg Bool.false_ne_true, State.withdrawEnded,
    show (s.pulseOver i).monitor = s.monitor from rfl, thrown]
  exact if_pos first

theorem withdrawRead_again (thrown : (s.monitor.get i).boltIn = .thrown) (pulse : (s.latch.get i).learnAtEnd = false)
    (again : (s.latch.get i).attempt ≠ 1) : s.withdrawRead i = (s.pulseOver i).jam i .withdraw := by
  rw [State.withdrawRead, pulse, if_neg Bool.false_ne_true, State.withdrawEnded,
    show (s.pulseOver i).monitor = s.monitor from rfl, thrown]
  exact if_neg again

theorem withdrawRead_unknown (unknown : (s.monitor.get i).boltIn = .unknown) :
    (∃ attempt, LatchMoves i .unlearned attempt (s.pulseOver i) (s.withdrawRead i)) ∧ Keeps [.latch] s (s.withdrawRead i) := by
  unfold State.withdrawRead
  split
  · exact ⟨⟨1, pulseOver_unlearns unknown ▸ learnLatch_moves i (s.pulseOver i)⟩,
      (pulseOver_keeps i s).trans (learnLatch_keeps i _)⟩
  · have unlearns : (s.pulseOver i).withdrawEnded i (s.latch.get i).attempt = (s.pulseOver i).setLatchState i .unlearned := by
      rw [State.withdrawEnded, show (s.pulseOver i).monitor = s.monitor from rfl, unknown]
    rw [unlearns]
    exact ⟨⟨_, setLatchState_moves i _ _⟩, (pulseOver_keeps i s).trans (setLatchState_keeps i _ _)⟩

theorem withdrawRead_keeps : Keeps latchParts s (s.withdrawRead i) :=
  Keeps.ite (((pulseOver_keeps i s).trans (learnLatch_keeps i _)).mono (by decide))
    (((pulseOver_keeps i s).mono (by decide)).trans (withdrawEnded_keeps i _ _))

theorem withdrawRead_orderly : Orderly s (s.withdrawRead i) :=
  Orderly.ite (Orderly.of_keeps ((pulseOver_keeps i s).trans (learnLatch_keeps i _)) (by decide))
    ((Orderly.of_keeps (pulseOver_keeps i s) (by decide)).trans (withdrawEnded_orderly i _ _))

/-- The reports that follow a withdraw pulse leave latch and claims. -/
theorem endWithdraw_reports : Keeps [.custody, .queue] (s.withdrawRead i) (s.endWithdraw i) := by
  rw [endWithdraw_eq]
  exact Keeps.ite (tamperReport_keeps _ _ _ _) (Keeps.refl _ _)

theorem endWithdraw_custody (k : SlotNo) : (s.endWithdraw i).custody.slots.get k =
    if k = i ∧ (s.latch.get i).moved = true ∧ (s.monitor.get i).boltIn = .thrown then
      { (s.withdrawRead i).custody.slots.get i with hold := tamperHold ((s.withdrawRead i).custody.slots.get i).hold }
    else (s.withdrawRead i).custody.slots.get k := by
  rw [endWithdraw_eq]
  by_cases moved : (s.latch.get i).moved = true ∧ (s.monitor.get i).boltIn = .thrown
  · rw [if_pos moved, tamperReport_slot]
    exact if_congr (by simp [moved]) rfl rfl
  · rw [if_neg moved, if_neg fun h => moved h.2]

/-- The latch takes one state, and a jam alone sets a hold (R102). -/
def ReadingMoves (i : SlotNo) (s t : State) : Prop :=
  ∃ x attempt, LatchMoves i x attempt (s.pulseOver i) t ∧
    ((x ≠ .jammed ∧ t.custody.slots = s.custody.slots) ∨
      (x = .jammed ∧ ∀ k, t.custody.slots.get k =
        if k = i then { s.custody.slots.get i with hold := some ⟨3, .jammed⟩ } else s.custody.slots.get k))

theorem openState_ne_jammed : s.openState i ≠ .jammed := by
  unfold State.openState
  split <;> nofun

/-- A latch that waits for its claim. -/
theorem readingMoves_of_wait {x : LatchState} {op : LatchOp} (waits : x ≠ .jammed) : ReadingMoves i s
    (((s.pulseOver i).setLatch i { (s.pulseOver i).latch.get i with state := x, attempt := 2 }).addRequest i op 2) :=
  ⟨x, 2, (waits_moves i (s.pulseOver i) x op 2).1, .inl ⟨waits, ((((pulseOver_keeps i s).trans (setLatch_keeps i _ _)).mono
    (by decide)).trans ((addRequest_keeps i op 2 _).mono (qs := [.latch, .requests, .queue]) (by decide))) .custody (by decide)⟩⟩

theorem readingMoves_of_jam (op : LatchOp) : ReadingMoves i s ((s.pulseOver i).jam i op) :=
  have ⟨moves, _, custody⟩ := jam_result i (s.pulseOver i) op
  ⟨_, _, moves, .inr ⟨rfl, custody⟩⟩

theorem withdrawRead_moves : ReadingMoves i s (s.withdrawRead i) := by
  cases bolt : (s.monitor.get i).boltIn with
  | withdrawn =>
    obtain ⟨moves, keeps⟩ := withdrawRead_withdrawn i s bolt
    exact ⟨_, _, moves, .inl ⟨openState_ne_jammed i s, keeps .custody (by decide)⟩⟩
  | unknown =>
    obtain ⟨⟨_, moves⟩, keeps⟩ := withdrawRead_unknown i s bolt
    exact ⟨_, _, moves, .inl ⟨nofun, keeps .custody (by decide)⟩⟩
  | thrown =>
    cases pulse : (s.latch.get i).learnAtEnd with
    | true =>
      rw [withdrawRead_learns i s pulse]
      exact ⟨.locked, _, pulseOver_learns bolt ▸ learnLatch_moves i (s.pulseOver i), .inl ⟨nofun,
        ((pulseOver_keeps i s).trans (learnLatch_keeps i _)) .custody (by decide)⟩⟩
    | false =>
      by_cases first : (s.latch.get i).attempt = 1
      · rw [withdrawRead_first i s bolt pulse first]
        exact readingMoves_of_wait i s nofun
      · rw [withdrawRead_again i s bolt pulse first]
        exact readingMoves_of_jam i s .withdraw

end

/-- Settles O35: the reading decides, and the report of a moved tablet follows it. -/
theorem withdrawPulseEndReadsBolt : Obligations.WithdrawPulseEndReadsBolt := by
  intro i s u running pulse
  let r := s.reach u
  have acts : exec (.withdrawPulseEnd i) s = .next (r.endWithdraw i) :=
    show execWithdrawPulseEnd i s = _ from whileRunning_next running (by simp only [pulse]; rfl)
  have whole := endWithdraw_keeps i r
  have reports := endWithdraw_reports i r
  have clock : (r.endWithdraw i).clock = max s.clock u := whole .clock (by decide)
  have claims : (r.endWithdraw i).claims = (r.withdrawRead i).claims := claims_of_keeps reports (by decide)
  have opens : (r.endWithdraw i).openState i = r.openState i := openState_of_keeps whole (by decide) i
  have marks : ∀ {x a}, LatchMoves i x a (r.pulseOver i) (r.withdrawRead i) →
      ((r.endWithdraw i).latch.get i).state = x ∧ ((r.endWithdraw i).latch.get i).attempt = a ∧
      ((r.endWithdraw i).latch.get i).moved = false ∧ ((r.endWithdraw i).latch.get i).learnAtEnd = false ∧
      OthersSame i s.latch (r.endWithdraw i).latch := fun h => (h.keeps reports (by decide)).marks
  obtain ⟨x, a, moves, custody⟩ := withdrawRead_moves i r
  obtain ⟨state, _, moved, learn, others⟩ := marks moves
  have slots := endWithdraw_custody i r
  refine ⟨_, acts, clock, moved, learn, fun withdrawn => ?_, fun thrown learns => ?_, fun thrown pulse first => ?_,
    fun thrown pulse again => ?_, fun unknown => ?_, fun thrown hasMoved => ?_, fun sound => ?_, others, fun k other => ?_, ?_,
    ((reach_keeps u s).mono (by decide)).trans (whole.mono (by decide))⟩
  · obtain ⟨opened, keeps⟩ := withdrawRead_withdrawn i r withdrawn
    obtain ⟨state, attempt, _⟩ := marks opened
    exact ⟨state.trans opens.symm, claims.trans (claims_of_keeps (s := r) keeps (by decide)), attempt⟩
  · have read := withdrawRead_learns i r learns
    obtain ⟨state, attempt, _⟩ := marks (read ▸ learnLatch_moves i (r.pulseOver i))
    refine ⟨state.trans (pulseOver_learns thrown), attempt, claims.trans ?_⟩
    rw [read]
    exact claims_of_keeps (s := r) ((pulseOver_keeps i r).trans (learnLatch_keeps i _)) (by decide)
  · have read := withdrawRead_first i r thrown pulse first
    obtain ⟨waits, asks⟩ := waits_moves i (r.pulseOver i) (.withdrawWait (momentAfter r.clock claimWaitMs)) .withdraw 2
    obtain ⟨state, attempt, _⟩ := marks (read ▸ waits)
    refine ⟨state.trans ?_, attempt, ?_⟩
    · rw [clock, momentAfter_eq]
      rfl
    · unfold Asks
      rw [claims, read]
      exact asks
  · have read := withdrawRead_again i r thrown pulse again
    obtain ⟨jams, same, holds⟩ := jam_result i (r.pulseOver i) .withdraw
    obtain ⟨state, _⟩ := marks (read ▸ jams)
    refine ⟨state, (claims.trans (read ▸ same)).trans rfl, ?_, ?_⟩
    · refine jam_noticed (op := .withdraw) i (v := r.pulseOver i)
        ((Orderly.of_keeps (reach_keeps u s) (by decide)).trans (Orderly.of_keeps (pulseOver_keeps i r) (by decide))) rfl ?_ ?_
      · rw [← read, endWithdraw_eq]
        exact Orderly.ite (tamperReport_orderly _ _ _ _) (Orderly.refl _)
      · rw [← read, endWithdraw_eq]
        split
        · exact tamperReport_grows _ _ _ _
        · exact Grows.refl _
    · rw [slots, read, holds, if_pos rfl]
      split <;> rfl
  · obtain ⟨⟨_, unlearns⟩, keeps⟩ := withdrawRead_unknown i r unknown
    exact ⟨(marks unlearns).1, claims.trans (claims_of_keeps (s := r) keeps (by decide))⟩
  · have report : r.endWithdraw i = (r.withdrawRead i).tamperReport i .moved false := if_pos ⟨hasMoved, thrown⟩
    rw [report]
    exact tamperReport_handed (cause := .moved) ((Orderly.of_keeps (reach_keeps u s) (by decide)).trans (withdrawRead_orderly i r))
      (withdrawRead_keeps i r .cfg (by decide)) (Orderly.refl _) (Grows.refl _)
  · rcases custody with ⟨_, same⟩ | ⟨jammed, _⟩
    · rw [slots, same]
      by_cases report : (r.latch.get i).moved = true ∧ (r.monitor.get i).boltIn = .thrown
      · rw [if_pos ⟨rfl, report⟩]
        exact (if_pos (⟨report.2, report.1⟩ : (s.monitor.get i).boltIn = .thrown ∧ (s.latch.get i).moved = true)).symm
      · rw [if_neg fun h => report h.2]
        exact (if_neg fun h : (s.monitor.get i).boltIn = .thrown ∧ (s.latch.get i).moved = true => report ⟨h.2, h.1⟩).symm
    · exact absurd (state.trans jammed) sound
  · rw [slots, if_neg fun h => other h.1]
    rcases custody with ⟨_, same⟩ | ⟨_, holds⟩
    · rw [same]
      rfl
    · rw [holds, if_neg other]
      rfl
  · rw [slots]
    rcases custody with ⟨_, same⟩ | ⟨_, holds⟩
    · rw [same]
      split <;> rfl
    · rw [holds, if_pos rfl]
      split <;> rfl

/-! ## The end of a throw pulse (R71, R86) -/

section
variable (i : SlotNo) (s : State)

theorem endThrow_learns (learns : (s.latch.get i).learnAtEnd = true) : s.endThrow i = (s.pulseOver i).learnLatch i := by
  rw [State.endThrow]
  exact if_pos learns

theorem endThrow_thrown (thrown : (s.monitor.get i).boltIn = .thrown) (pulse : (s.latch.get i).learnAtEnd = false) :
    s.endThrow i = (s.pulseOver i).setLatch i { (s.pulseOver i).latch.get i with state := .locked, attempt := 1 } := by
  rw [State.endThrow, if_neg (by rw [pulse]; exact Bool.false_ne_true), show (s.setLatch i _).monitor = s.monitor from rfl, thrown]
  rfl

theorem endThrow_first (withdrawn : (s.monitor.get i).boltIn = .withdrawn) (pulse : (s.latch.get i).learnAtEnd = false)
    (first : (s.latch.get i).attempt = 1) : s.endThrow i = (s.pulseOver i).throwWait i 2 := by
  rw [State.endThrow, if_neg (by rw [pulse]; exact Bool.false_ne_true), show (s.setLatch i _).monitor = s.monitor from rfl, withdrawn]
  exact if_pos first

theorem endThrow_again (withdrawn : (s.monitor.get i).boltIn = .withdrawn) (pulse : (s.latch.get i).learnAtEnd = false)
    (again : (s.latch.get i).attempt ≠ 1) : s.endThrow i = (s.pulseOver i).jam i .throw_ := by
  rw [State.endThrow, if_neg (by rw [pulse]; exact Bool.false_ne_true), show (s.setLatch i _).monitor = s.monitor from rfl, withdrawn]
  exact if_neg again

theorem endThrow_unknown (unknown : (s.monitor.get i).boltIn = .unknown) (pulse : (s.latch.get i).learnAtEnd = false) :
    s.endThrow i = (s.pulseOver i).setLatchState i .unlearned := by
  rw [State.endThrow, if_neg (by rw [pulse]; exact Bool.false_ne_true), show (s.setLatch i _).monitor = s.monitor from rfl, unknown]
  rfl

/-- A learning or the setting of a state leaves everything but the latch. -/
theorem pulseOver_learnt_keeps : Keeps [.latch] s ((s.pulseOver i).learnLatch i) :=
  (pulseOver_keeps i s).trans (learnLatch_keeps i _)

theorem endThrow_moves : ReadingMoves i s (s.endThrow i) := by
  cases pulse : (s.latch.get i).learnAtEnd with
  | true =>
    rw [endThrow_learns i s pulse]
    refine ⟨_, _, learnLatch_moves i (s.pulseOver i), .inl ⟨?_, pulseOver_learnt_keeps i s .custody (by decide)⟩⟩
    cases bolt : (s.monitor.get i).boltIn with
    | withdrawn => rw [pulseOver_opens bolt]; exact openState_ne_jammed i s
    | thrown => rw [pulseOver_learns bolt]; nofun
    | unknown => rw [pulseOver_unlearns bolt]; nofun
  | false =>
    cases bolt : (s.monitor.get i).boltIn with
    | thrown =>
      rw [endThrow_thrown i s bolt pulse]
      exact ⟨.locked, 1, latchMoves_of_set rfl, .inl ⟨nofun, rfl⟩⟩
    | unknown =>
      rw [endThrow_unknown i s bolt pulse]
      exact ⟨.unlearned, _, setLatchState_moves i _ _, .inl ⟨nofun, rfl⟩⟩
    | withdrawn =>
      by_cases first : (s.latch.get i).attempt = 1
      · rw [endThrow_first i s bolt pulse first]
        exact readingMoves_of_wait i s (x := .throwWait) nofun
      · rw [endThrow_again i s bolt pulse first]
        exact readingMoves_of_jam i s .throw_

end

/-- Settles O36: the reading decides. -/
theorem throwPulseEndReadsBolt : Obligations.ThrowPulseEndReadsBolt := by
  intro i s u running pulse
  let r := s.reach u
  have acts : exec (.throwPulseEnd i) s = .next (r.endThrow i) :=
    show execThrowPulseEnd i s = _ from whileRunning_next running (by simp only [pulse]; rfl)
  have whole := endThrow_keeps i r
  have clock : (r.endThrow i).clock = max s.clock u := whole .clock (by decide)
  have opens : (r.endThrow i).openState i = r.openState i := openState_of_keeps whole (by decide) i
  have learnt : (r.latch.get i).learnAtEnd = true → (r.endThrow i).claims = s.claims := fun learns => by
    rw [endThrow_learns i r learns]
    exact claims_of_keeps (s := r) (pulseOver_learnt_keeps i r) (by decide)
  obtain ⟨x, a, moves, custody⟩ := endThrow_moves i r
  obtain ⟨state, _, moved, learn, others⟩ := moves.marks
  refine ⟨_, acts, clock, moved, learn, fun thrown => ?_, fun withdrawn learns => ?_, fun withdrawn pulse first => ?_,
    fun withdrawn pulse again => ?_, fun unknown => ?_, fun sound => ?_, others, fun k other => ?_,
    ((reach_keeps u s).mono (by decide)).trans (whole.mono (by decide))⟩
  · cases pulse : (r.latch.get i).learnAtEnd with
    | true =>
      obtain ⟨state, attempt, _⟩ := (endThrow_learns i r pulse ▸ learnLatch_moves i (r.pulseOver i) :
        LatchMoves i ((r.pulseOver i).learntState i) 1 (r.pulseOver i) (r.endThrow i)).marks
      exact ⟨state.trans (pulseOver_learns thrown), attempt, learnt pulse⟩
    | false =>
      rw [endThrow_thrown i r thrown pulse]
      obtain ⟨state, attempt, _⟩ := (latchMoves_of_set rfl : LatchMoves i .locked 1 (r.pulseOver i)
        ((r.pulseOver i).setLatch i { (r.pulseOver i).latch.get i with state := .locked, attempt := 1 })).marks
      exact ⟨state, attempt, rfl⟩
  · obtain ⟨state, attempt, _⟩ := (endThrow_learns i r learns ▸ learnLatch_moves i (r.pulseOver i) :
      LatchMoves i ((r.pulseOver i).learntState i) 1 (r.pulseOver i) (r.endThrow i)).marks
    exact ⟨(state.trans (pulseOver_opens withdrawn)).trans opens.symm, attempt, learnt learns⟩
  · rw [endThrow_first i r withdrawn pulse first]
    obtain ⟨waits, asks⟩ := waits_moves i (r.pulseOver i) .throwWait .throw_ 2
    exact ⟨waits.marks.1, waits.marks.2.1, asks⟩
  · rw [endThrow_again i r withdrawn pulse again]
    obtain ⟨jams, same, holds⟩ := jam_result i (r.pulseOver i) .throw_
    refine ⟨jams.marks.1, same, ?_, by rw [holds, if_pos rfl]; rfl⟩
    exact jam_noticed (op := .throw_) i (v := r.pulseOver i)
      ((Orderly.of_keeps (reach_keeps u s) (by decide)).trans (Orderly.of_keeps (pulseOver_keeps i r) (by decide))) rfl
      (Orderly.refl _) (Grows.refl _)
  · cases pulse : (r.latch.get i).learnAtEnd with
    | true =>
      have learns : LatchMoves i ((r.pulseOver i).learntState i) 1 (r.pulseOver i) (r.endThrow i) :=
        endThrow_learns i r pulse ▸ learnLatch_moves i (r.pulseOver i)
      exact ⟨learns.marks.1.trans (pulseOver_unlearns unknown), learnt pulse⟩
    | false =>
      rw [endThrow_unknown i r unknown pulse]
      exact ⟨(setLatchState_moves i (r.pulseOver i) .unlearned).marks.1, rfl⟩
  · rcases custody with ⟨_, same⟩ | ⟨jammed, _⟩
    · exact same
    · exact absurd (state.trans jammed) sound
  · rcases custody with ⟨_, same⟩ | ⟨_, holds⟩
    · rw [same]
      rfl
    · rw [holds, if_neg other]
      rfl

/-! ## The timers of the latch (R72, R73) -/

theorem notice_mem {k : NoticeKind} {i : Option SlotNo} {d : Nat} {s : State} {e : TxEntry} (m : e ∈ s.line.queue) :
    e ∈ (s.notice k i d).line.queue := by
  unfold State.notice
  split
  · exact lineHand_mem _ _ e m
  · exact m

/-- A notice is no CLAIM frame. -/
theorem notice_waits (c : OwnClaim) (k : NoticeKind) (i : Option SlotNo) (d : Nat) (s : State) :
    c.waits (s.notice k i d).line.queue = c.waits s.line.queue := by
  rw [Bool.eq_iff_iff]
  unfold OwnClaim.waits
  simp only [List.any_eq_true]
  constructor
  · rintro ⟨e, m, waits⟩
    rcases notice_entry m with old | new
    · exact ⟨e, old, waits⟩
    · rw [new] at waits
      cases waits
  · rintro ⟨e, m, waits⟩
    exact ⟨e, notice_mem m, waits⟩

/-- No request of a slot stands in the queue of requests. -/
def State.AsksNot (i : SlotNo) (s : State) : Prop := ∀ r ∈ s.claims.requests, r.slot ≠ i

theorem asksNot_of_asked {i : SlotNo} {s t : State} (asked : t.claims.requests.map Request.asked = s.claims.requests.map Request.asked)
    (h : s.AsksNot i) : t.AsksNot i := by
  intro r m
  obtain ⟨x, held, same⟩ := List.mem_map.mp (asked ▸ List.mem_map.mpr ⟨r, m, rfl⟩)
  have slot : x.slot = r.slot := congrArg (·.1) same
  exact slot ▸ h x held

section
variable {i : SlotNo} {s : State}

/-- A claim that is handed is another slot's. -/
theorem handClaim_others (asksNot : s.AsksNot i) :
    (∀ c ∈ s.handClaim.claims.own, c ∈ s.claims.own ∨ c.slot ≠ i) ∧
    ∀ e ∈ s.handClaim.line.queue, e ∈ s.line.queue ∨ ∀ c : OwnClaim, c.slot = i → c.isFrame e.frame = false := by
  rcases handed_or_acts s with handed | ⟨r, oldest, room, calm, free⟩
  · rw [handClaim_of_handed handed]
    exact ⟨fun c m => .inl m, fun e m => .inl m⟩
  · have other : r.slot ≠ i := asksNot r (List.mem_of_find?_eq_some oldest)
    rw [handClaim_acts oldest room calm free]
    refine ⟨fun c m => ?_, fun e m => ?_⟩
    · rcases List.mem_append.mp m with old | new
      · exact .inl old
      · rw [List.mem_singleton.mp new]
        exact .inr other
    · rcases lineHand_entry m with old | new
      · exact .inl old
      · refine .inr fun c mine => ?_
        rw [new, OwnClaim.isFrame, decide_eq_false_iff_not]
        exact fun h => other (h.2.2.trans mine)

theorem handClaims_others (asksNot : s.AsksNot i) :
    (∀ c ∈ s.handClaims.claims.own, c ∈ s.claims.own ∨ c.slot ≠ i) ∧
    ∀ e ∈ s.handClaims.line.queue, e ∈ s.line.queue ∨ ∀ c : OwnClaim, c.slot = i → c.isFrame e.frame = false := by
  obtain ⟨own, queue⟩ := handClaim_others asksNot
  obtain ⟨ownNext, queueNext⟩ := handClaim_others (asksNot_of_asked (handClaim_asked s) asksNot)
  exact ⟨fun c m => (ownNext c m).elim (own c) .inr, fun e m => (queueNext e m).elim (queue e) .inr⟩

theorem handClaim_queue_keeps {e : TxEntry} (m : e ∈ s.line.queue) : e ∈ s.handClaim.line.queue := by
  rcases handed_or_acts s with handed | ⟨r, oldest, room, calm, free⟩
  · rw [handClaim_of_handed handed]
    exact m
  · rw [handClaim_acts oldest room calm free]
    exact lineHand_mem _ _ e m

theorem handClaims_queue_keeps {e : TxEntry} (m : e ∈ s.line.queue) : e ∈ s.handClaims.line.queue :=
  handClaim_queue_keeps (handClaim_queue_keeps m)

/-- The undecided claim of a slot's request. -/
def OwnClaim.undecided (i : SlotNo) (x : OwnClaim) : Bool := decide (x.slot = i ∧ x.hasRequest = true ∧ x.expires = none)

theorem disownClaim_asked (i : SlotNo) (s : State) : (s.disownClaim i).claims.requests = s.claims.requests := by
  unfold State.disownClaim
  split
  · rfl
  · split <;> rfl

theorem disownClaim_none (none_ : s.claims.own.find? (OwnClaim.undecided i) = none) : s.disownClaim i = s := by
  have none_ : s.claims.own.find? (fun c => decide (c.slot = i ∧ c.hasRequest = true ∧ c.expires = none)) = none := none_
  rw [State.disownClaim, none_]

/-- What becomes of the undecided claim whose request is gone (R72). -/
theorem disownClaim_some {c : OwnClaim} (found : s.claims.own.find? (OwnClaim.undecided i) = some c) :
    (∀ x ∈ s.claims.own, x ≠ c → x ∈ (s.disownClaim i).claims.own) ∧
    (c.waits s.line.queue = true → c ∉ (s.disownClaim i).claims.own ∧
      ∀ e ∈ (s.disownClaim i).line.queue, c.isFrame e.frame = true → e.sending = true) ∧
    (c.waits s.line.queue = false → { c with hasRequest := false } ∈ (s.disownClaim i).claims.own ∧
      ∀ e ∈ s.line.queue, c.isFrame e.frame = true → { e with withdraw := true } ∈ (s.disownClaim i).line.queue) := by
  have held : c ∈ s.claims.own := List.mem_of_find?_eq_some found
  have found : s.claims.own.find? (fun c => decide (c.slot = i ∧ c.hasRequest = true ∧ c.expires = none)) = some c := found
  rw [State.disownClaim, found]
  dsimp only
  cases waits : c.waits s.line.queue with
  | true =>
    rw [if_pos rfl]
    refine ⟨fun x m other => List.mem_filter.mpr ⟨m, decide_eq_true other⟩, fun _ => ⟨fun m => ?_, fun e m mine => ?_⟩, nofun⟩
    · exact absurd rfl (of_decide_eq_true (List.mem_filter.mp m).2)
    · have stays := (List.mem_filter.mp m).2
      rw [mine] at stays
      simpa using stays
  | false =>
    rw [if_neg Bool.false_ne_true]
    refine ⟨fun x m other => List.mem_map.mpr ⟨x, m, if_neg other⟩, nofun, fun _ => ⟨List.mem_map.mpr ⟨c, held, if_pos rfl⟩,
      fun e m mine => List.mem_map.mpr ⟨e, m, if_pos mine⟩⟩⟩

end

/-- The state in which a timed-out release has lost its request, its notice handed (R72). -/
def State.releaseTaken (i : SlotNo) (s : State) : State :=
  ((s.setLatch i { s.latch.get i with state := .locked, attempt := 1 }).setRequests (dropRequest i s.claims.requests)).notice
    .latchTimeout (some i) (s.latch.get i).attempt

theorem releaseTaken_keeps (i : SlotNo) (s : State) : Keeps [.latch, .requests, .queue] s (s.releaseTaken i) :=
  (((setLatch_keeps i _ s).mono (by decide)).trans ((setRequests_keeps _ _).mono (by decide))).trans
    ((notice_keeps _ _ _ _).mono (by decide))

theorem releaseTaken_own (i : SlotNo) (s : State) : (s.releaseTaken i).claims.own = s.claims.own :=
  (notice_keeps _ _ _ _ .requests (by decide)).2.1

theorem releaseTaken_requests (i : SlotNo) (s : State) :
    (s.releaseTaken i).claims.requests = s.claims.requests.filter (fun r => r.slot ≠ i) :=
  (notice_keeps _ _ _ _ .requests (by decide)).1

/-- Settles O37: an expired release gives up its request, and its claim with it. -/
theorem latchTimersExpire : Obligations.LatchTimersExpire := by
  refine fun i s u running => ⟨fun timer opened => ?_, fun waits => ?_⟩
  · let r := s.reach u
    have acts : exec (.openTimerExpiry i) s = .next (r.throwWait i 1) :=
      show execOpenTimerExpiry i s = _ from whileRunning_next running (by simp only [opened]; rfl)
    obtain ⟨moves, asks⟩ := waits_moves i r .throwWait .throw_ 1
    have keeps : Keeps [.latch, .requests, .queue] r (r.throwWait i 1) := throwWait_keeps i 1 r
    exact ⟨_, acts, keeps .clock (by decide), moves.record, moves.others, asks,
      ((reach_keeps u s).mono (by decide)).trans (keeps.mono (by decide))⟩
  · let r := s.reach u
    let v := r.releaseTaken i
    have acts : exec (.claimWaitTimeout i) s = .next (v.disownClaim i).handClaims :=
      show execClaimWaitTimeout i s = _ from whileRunning_next running (by simp only [waits]; rfl)
    have taken : Keeps [.latch, .requests, .queue] r v := releaseTaken_keeps i r
    have after : Keeps [.requests, .queue] v (v.disownClaim i).handClaims :=
      (disownClaim_keeps i v).trans (handClaims_keeps _)
    have latch : (v.disownClaim i).handClaims.latch =
        setAt s.latch i { s.latch.get i with state := .locked, attempt := 1 } :=
      Eq.trans (after .latch (by decide)) (notice_keeps _ _ _ _ .latch (by decide))
    have clock : (v.disownClaim i).handClaims.clock = max s.clock u :=
      Eq.trans (after .clock (by decide)) (taken .clock (by decide))
    have own : v.claims.own = s.claims.own := releaseTaken_own i r
    have requests : v.claims.requests = s.claims.requests.filter (fun r => r.slot ≠ i) := releaseTaken_requests i r
    have asksNot : (v.disownClaim i).AsksNot i := by
      intro x m
      rw [disownClaim_asked, requests] at m
      exact of_decide_eq_true (List.mem_filter.mp m).2
    obtain ⟨othersOwn, othersQueue⟩ := handClaims_others asksNot
    have queued : ∀ e ∈ s.line.queue, e ∈ v.line.queue := fun e m => notice_mem m
    refine ⟨_, acts, clock, by rw [latch, get_setAt_same], fun k other => by rw [latch, get_setAt_ne _ _ _ _ other], ?_, ?_,
      fun c found => ?_, fun none_ => ?_, ((reach_keeps u s).mono (by decide)).trans
        ((taken.mono (by decide)).trans (after.mono (by decide)))⟩
    · rw [handClaims_asked, disownClaim_asked, requests]
    · have before : Orderly s ((r.setLatch i { r.latch.get i with state := .locked, attempt := 1 }).setRequests
          (dropRequest i r.claims.requests)) :=
        ((Orderly.of_keeps (reach_keeps u s) (by decide)).trans (Orderly.of_keeps (setLatch_keeps i _ r) (by decide))).trans
          (setRequests_orderly _ _)
      exact noticeHanded_of before rfl ((disownClaim_orderly i v).trans (handClaims_orderly _))
        ((disownClaim_grows i v).trans (handClaims_grows _))
    · have isUndecided := List.find?_some found
      have slot : c.slot = i := (of_decide_eq_true isUndecided).1
      have sameWaits : c.waits v.line.queue = c.waits s.line.queue := notice_waits c _ _ _ _
      obtain ⟨others, gone, marked⟩ := disownClaim_some (s := v) (i := i) (own.symm ▸ found)
      rw [sameWaits] at gone marked
      refine ⟨fun x m other => handClaims_own_keeps (others x (own.symm ▸ m) other), fun isWaiting => ?_, fun isSent => ?_⟩
      · obtain ⟨noRecord, noEntry⟩ := gone isWaiting
        refine ⟨fun m => ?_, fun e m mine => ?_⟩
        · rcases othersOwn c m with old | other
          · exact noRecord old
          · exact other slot
        · rcases othersQueue e m with old | other
          · exact noEntry e old mine
          · rw [other c slot] at mine
            cases mine
      · obtain ⟨record, entries⟩ := marked isSent
        exact ⟨handClaims_own_keeps record, fun e m mine => handClaims_queue_keeps (entries e (queued e m) mine)⟩
    · have still : v.disownClaim i = v := disownClaim_none (own.symm ▸ none_)
      rw [still]
      exact ⟨fun x m => handClaims_own_keeps (own.symm ▸ m), fun e m => handClaims_queue_keeps (queued e m)⟩

end Sys2Proof.Machine
end

section
/-! PROOF. The judgement of permits: check 0, the slots of the scope one after another, and the verdict (R68, R88 to R100). -/

namespace Sys2Proof.Machine

/-! ## Check 0 and the scope (R89, R91) -/

theorem trusts_iff {cfg : Record} {src : Source} {level : Nat} :
    Trusts cfg src level ↔ sourceLevel cfg src ≠ 0 ∧ level ≤ sourceLevel cfg src := by
  unfold sourceLevel
  constructor
  · rintro ⟨k, val, some_, le⟩
    have high : 8 ≤ src.val := by omega
    have place : (⟨src.val - 8, by omega⟩ : Fin 8) = k := Fin.ext (by show src.val - 8 = k.val; omega)
    rw [dif_pos high, place]
    exact ⟨some_, le⟩
  · rintro ⟨some_, le⟩
    split at some_
    next high =>
      rw [dif_pos high] at le
      exact ⟨⟨src.val - 8, by omega⟩, by show src.val = 8 + (src.val - 8); omega, some_, le⟩
    next low => exact absurd rfl some_

/-- The source carries a permit's level exactly where the first condition of check 0 passes. -/
theorem trusts_iff_not {cfg : Record} {src : Source} {level : Nat} :
    Trusts cfg src level ↔ ¬ (sourceLevel cfg src = 0 ∨ sourceLevel cfg src < level) := by
  rw [trusts_iff]
  omega

section
variable {cfg : Record} {src : Source} {p : List Byte}

theorem checkZero_strange (strange : ¬ Trusts cfg src (byteAt p 2 % 4)) : checkZero cfg (permitOf src p) = .inl .source :=
  if_pos (by rw [trusts_iff_not, not_not] at strange; exact strange)

theorem checkZero_of_kind {kind : Option PermitKind} (trusts : Trusts cfg src (byteAt p 2 % 4))
    (is : permitKindOf (byteAt p 1) = kind) : checkZero cfg (permitOf src p) =
      kind.elim (.inl .badPermit) fun k => if byteAt p 2 % 4 < k.minLevel then .inl .level else .inr k := by
  rw [trusts_iff_not] at trusts
  unfold checkZero
  rw [show (permitOf src p).source = src from rfl, show (permitOf src p).level = byteAt p 2 % 4 from rfl, if_neg trusts,
    show (permitOf src p).kind = permitKindOf (byteAt p 1) from rfl, is]
  cases kind <;> rfl

theorem checkZero_unknown (trusts : Trusts cfg src (byteAt p 2 % 4)) (unknown : byteAt p 1 = 0 ∨ 6 < byteAt p 1) :
    checkZero cfg (permitOf src p) = .inl .badPermit := by
  refine checkZero_of_kind (kind := none) trusts ?_
  rcases unknown with zero | above
  · rw [zero]; rfl
  · obtain ⟨n, eq⟩ := Nat.exists_eq_add_of_lt above
    rw [eq, show 6 + n + 1 = n + 7 by omega]
    rfl

theorem checkZero_low {k : PermitKind} (trusts : Trusts cfg src (byteAt p 2 % 4)) (kind : permitKindOf (byteAt p 1) = some k)
    (low : byteAt p 2 % 4 < k.minLevel) : checkZero cfg (permitOf src p) = .inl .level :=
  (checkZero_of_kind trusts kind).trans (if_pos low)

theorem checkZero_passed {k : PermitKind} (trusts : Trusts cfg src (byteAt p 2 % 4)) (kind : permitKindOf (byteAt p 1) = some k)
    (high : k.minLevel ≤ byteAt p 2 % 4) : checkZero cfg (permitOf src p) = .inr k :=
  (checkZero_of_kind trusts kind).trans (if_neg (Nat.not_lt.mpr high))

theorem permit_slots (a : Station) : (permitOf src p).slots a = scopeSlots a p :=
  List.filter_congr fun i _ => by
    rw [← Bool.decide_and]
    rfl

theorem scopeSlots_nodup (a : Station) : (scopeSlots a p).Nodup := (by decide : allSlots.Nodup).filter _

end

/-! ## A permit that the station takes (R89, R90) -/

section
variable {s : State} {c : Instr} {src : Source} {p : List Byte}

theorem exec_permit (carries : frameOf c = some (3, src, p)) (running : s.mode = .running)
    (receives : s.line.phase.receives = true) (len : p.length = 6) :
    exec c s = .next ((s.watched src).takePermit src p) :=
  exec_taken carries running receives (by omega) (by simp [malformed, len])

theorem watched_permits : (s.watched src).custody.verdict = s.custody.verdict ∧ (s.watched src).custody.waiting = s.custody.waiting ∧
    (s.watched src).custody.restartDue = s.custody.restartDue := watched_keeps src s .permits (by decide)

/-- A permit is judged where no restart is due. -/
theorem takePermit_of_free (free : s.custody.restartDue = false) :
    (s.watched src).takePermit src p = (s.watched src).judgePermit (permitOf src p) :=
  if_neg (by rw [watched_permits.2.2, free]; exact Bool.false_ne_true)

theorem watched_address : (s.watched src).address = s.address := watched_keeps src s .address (by decide)

theorem judgePermit_of_scope {first : SlotNo} (head : (scopeSlots s.address p).head? = some first) :
    (s.watched src).judgePermit (permitOf src p) = (s.watched src).judgeIn (permitOf src p) first (scopeSlots s.address p) := by
  unfold State.judgePermit
  rw [watched_address, permit_slots]
  cases scope : scopeSlots s.address p with
  | nil => rw [scope] at head; cases head
  | cons x xs =>
    rw [scope] at head
    cases head
    rfl

theorem judgeIn_failed {a : Answer} {w : State} (fails : checkZero w.cfg (permitOf src p) = .inl a) (first : SlotNo)
    (slots : List SlotNo) : w.judgeIn (permitOf src p) first slots =
      (slots.foldl (fun t _ => t.addOutcome a) w).handVerdict (p.getD 0 0) src (6 * w.address.val + first.val) := by
  unfold State.judgeIn
  rw [fails]
  rfl

theorem judgeIn_passed {k : PermitKind} {w : State} (passes : checkZero w.cfg (permitOf src p) = .inr k) (first : SlotNo)
    (slots : List SlotNo) : w.judgeIn (permitOf src p) first slots =
      ((judgeSlots (permitOf src p) k slots w).handVerdict (p.getD 0 0) src (6 * w.address.val + first.val)).afterPermit k slots := by
  unfold State.judgeIn
  rw [passes]
  rfl

/-- The verdict of a list of outcomes is handed once it is complete (R100). -/
theorem handVerdict_handed {w v : State} {answers : List Answer} (before : Orderly w v) (verdict : v.custody.verdict = answers)
    (n : Byte) (at_ : Nat) : Handed (.verdict n src at_ answers) w (v.handVerdict n src at_) := by
  refine handed_of (u := { v with custody := { v.custody with verdict := [] } })
    (before.trans (orderly_of_line (.refl _) rfl rfl)) ?_ (Orderly.refl _) (Grows.refl _) rfl rfl
  rw [← verdict]
  rfl

theorem addOutcomes_verdict (a : Answer) : ∀ (slots : List SlotNo) (w : State),
    (slots.foldl (fun t _ => t.addOutcome a) w).custody.verdict = w.custody.verdict ++ slots.map fun _ => a
  | [], w => (List.append_nil _).symm
  | i :: is, w => by
    rw [List.foldl_cons, addOutcomes_verdict a is]
    show (w.custody.verdict ++ [a]) ++ _ = _
    rw [List.append_assoc]
    rfl

/-- Joining outcomes to the verdict moves nothing else. -/
theorem addOutcomes_rest (a : Answer) : ∀ (slots : List SlotNo) (w : State),
    let t := slots.foldl (fun t _ => t.addOutcome a) w
    t.custody.waiting = w.custody.waiting ∧ t.custody.restartDue = w.custody.restartDue
  | [], _ => ⟨rfl, rfl⟩
  | _ :: is, w => addOutcomes_rest a is (w.addOutcome a)

end

/-- Settles O38: check 0 comes before every slot, and its outcome stands at every place. -/
theorem failedPermitAnswersEveryPlace : Obligations.FailedPermitAnswersEveryPlace := by
  intro s c src p running receives carries len clear
  have taken := exec_permit carries running receives len
  obtain ⟨verdict, waiting, due⟩ := watched_permits (s := s) (src := src)
  refine ⟨fun isDue => ?_, fun free none_ => ?_, fun first outcome free head cases_ => ?_⟩
  · have waits : (s.watched src).takePermit src p = { s.watched src with custody := { (s.watched src).custody with
        waiting := (s.watched src).custody.waiting ++ [(src, p)] } } := if_pos (due.trans isDue)
    rw [taken, waits]
    exact ⟨_, rfl, by rw [← waiting], due.trans isDue, verdict.trans clear, by intro q hq; cases q <;> simp_all [same]⟩
  · rw [taken, takePermit_of_free free, State.judgePermit, watched_address, permit_slots, none_]
  · have fails : checkZero (s.watched src).cfg (permitOf src p) = .inl outcome := by
      rw [watched_cfg]
      rcases cases_ with ⟨strange, rfl⟩ | ⟨trusts, unknown, rfl⟩ | ⟨trusts, low, rfl⟩
      · exact checkZero_strange strange
      · exact checkZero_unknown trusts unknown
      · rcases low with ⟨kind, low⟩ | ⟨kind, low⟩ | ⟨kind, low⟩
        · rcases kind with kind | kind
          · exact checkZero_low (k := .openSlot) trusts (by rw [kind]; rfl) low
          · exact checkZero_low (k := .return_) trusts (by rw [kind]; rfl) low
        · rcases kind with kind | kind | kind
          · exact checkZero_low (k := .due) trusts (by rw [kind]; rfl) low
          · exact checkZero_low (k := .hold) trusts (by rw [kind]; rfl) low
          · exact checkZero_low (k := .lift) trusts (by rw [kind]; rfl) low
        · exact checkZero_low (k := .restart) trusts (by rw [kind]; rfl) low
    rw [taken, takePermit_of_free free, judgePermit_of_scope head, judgeIn_failed fails, watched_address]
    have answered := addOutcomes_verdict outcome (scopeSlots s.address p) (s.watched src)
    rw [verdict, clear, List.nil_append] at answered
    obtain ⟨keptWaiting, keptDue⟩ := addOutcomes_rest outcome (scopeSlots s.address p) (s.watched src)
    have keeps : Keeps [.permits] (s.watched src) ((scopeSlots s.address p).foldl (fun t _ => t.addOutcome outcome) (s.watched src)) :=
      keeps_foldl _ (fun _ _ => addOutcome_keeps _ _) _ _
    exact ⟨_, rfl, handVerdict_handed (Orderly.of_keeps keeps (by decide)) answered _ _, rfl, keptDue.trans (due.trans free),
      keptWaiting.trans waiting, (keeps.mono (by decide)).trans (handVerdict_keeps _ _ _ _)⟩

/-! ## The slots of the scope (R90) -/

/-- What one slot's judgement leaves alone: the verdict, the waiting permits and the due restart. -/
theorem judgeSlot_keeps_permits (p : Permit) (k : PermitKind) (i : SlotNo) (s : State) :
    Keeps [.latch, .requests, .custody, .runs, .lanes, .free, .charge, .share, .queue] s (s.judgeSlot p k i).1 := by
  have opened : ∀ kind level force, Keeps [.latch, .requests, .custody, .runs, .lanes, .free, .charge, .share, .queue] s
      (s.judgeOpen kind level force i).1 := fun kind level force => by
    unfold State.judgeOpen
    split
    · exact Keeps.refl _ _
    · split
      · split
        · exact ((forceSlot_keeps _ _).mono (by decide)).trans ((finishOpen_keeps _ _ _ _).mono (by decide))
        · exact Keeps.refl _ _
      · exact (finishOpen_keeps _ _ _ _).mono (by decide)
  unfold State.judgeSlot
  split
  · exact opened _ _ _
  · exact opened _ _ _
  · split
    · exact (judgeDue_keeps _ _ _).mono (by decide)
    · exact Keeps.refl _ _
  · split
    · exact (setHold_keeps _ _ _).mono (by decide)
    · exact Keeps.refl _ _
  · split
    · exact (judgeLift_keeps _ _ _).mono (by decide)
    · exact Keeps.refl _ _
  · split <;> exact Keeps.refl _ _

/-- What holds of a judgement slot by slot: each slot that is not done yet gets its outcome, and is done then. -/
structure JudgedOnce (p : Permit) (k : PermitKind) (answer : SlotNo → Answer) (J : List SlotNo → State → Prop) : Prop where
  slot : ∀ done i t, i ∉ done → J done t → (t.judgeSlot p k i).2 = answer i ∧ J (done ++ [i]) (t.judgeSlot p k i).1
  told : ∀ done a t, J done t → J done (t.addOutcome a)

section
variable {p : Permit} {k : PermitKind} {answer : SlotNo → Answer} {J : List SlotNo → State → Prop}

theorem JudgedOnce.slots (h : JudgedOnce p k answer J) : ∀ (rest done : List SlotNo) (t : State), (done ++ rest).Nodup → J done t →
    J (done ++ rest) (judgeSlots p k rest t) ∧
      (judgeSlots p k rest t).custody.verdict = t.custody.verdict ++ rest.map answer ∧
      (judgeSlots p k rest t).custody.waiting = t.custody.waiting ∧
      (judgeSlots p k rest t).custody.restartDue = t.custody.restartDue
  | [], done, t, _, held => ⟨by rw [List.append_nil]; exact held, (List.append_nil _).symm, rfl, rfl⟩
  | i :: rest, done, t, once, held => by
    have shape : done ++ i :: rest = (done ++ [i]) ++ rest := by simp
    have fresh : i ∉ done := fun m => (List.nodup_append.mp once).2.2 i m i List.mem_cons_self rfl
    obtain ⟨outcome, next⟩ := h.slot done i t fresh held
    obtain ⟨verdict, waiting, due⟩ := judgeSlot_keeps_permits p k i t .permits (by decide)
    obtain ⟨final, told, keptWaiting, keptDue⟩ := JudgedOnce.slots h rest (done ++ [i])
      ((t.judgeSlot p k i).1.addOutcome (t.judgeSlot p k i).2) (shape ▸ once) (h.told _ _ _ next)
    rw [shape]
    refine ⟨final, told.trans ?_, keptWaiting.trans waiting, keptDue.trans due⟩
    show ((t.judgeSlot p k i).1.custody.verdict ++ [(t.judgeSlot p k i).2]) ++ rest.map answer = _
    rw [verdict, outcome, List.append_assoc]
    rfl

end

/-! ## The starts that follow a permit (R123) -/

/-- A slot whose head run is not QUEUED has none to start. -/
theorem startRun_idle {i : SlotNo} {s : State} (begun : s.headState i ≠ some .queued) : s.startRun i = (s, []) := by
  unfold State.startRun
  split
  · rfl
  next r head =>
    split
    · rfl
    · rw [if_pos fun queued => begun (by rw [State.headState, head, Option.map_some, queued])]

theorem runWork_idle {s : State} : ∀ (n : Nat) (is : List SlotNo), (∀ i ∈ is, s.headState i ≠ some .queued) →
    runWork n (is.map Work.start) s = s
  | 0, _, _ => rfl
  | _ + 1, [], _ => rfl
  | n + 1, i :: is, begun => by
    have idle : s.workStep (.start i) = (s, []) := startRun_idle (begun i List.mem_cons_self)
    rw [List.map_cons, runWork, idle]
    exact runWork_idle n is fun k m => begun k (List.mem_cons_of_mem _ m)

theorem work_idle {s : State} {is : List SlotNo} (begun : ∀ i ∈ is, s.headState i ≠ some .queued) :
    s.work (is.map Work.start) = s := runWork_idle _ is begun

/-! ## A permit judged (R89, R90, R100) -/

theorem afterPermit_starts {k : PermitKind} (acts : k ≠ .restart) (slots : List SlotNo) (s : State) :
    s.afterPermit k slots = s.work (slots.map Work.start) := by
  unfold State.afterPermit
  split
  · exact absurd rfl acts
  · rfl

section
variable {s : State} {c : Instr} {src : Source} {p : List Byte} {k : PermitKind} {answer : SlotNo → Answer}
  {J : List SlotNo → State → Prop} (carries : frameOf c = some (3, src, p)) (running : s.mode = .running)
  (receives : s.line.phase.receives = true) (len : p.length = 6) (free : s.custody.restartDue = false)
  (clear : s.custody.verdict = []) (passes : checkZero s.cfg (permitOf src p) = .inr k)
  (judged : JudgedOnce (permitOf src p) k answer J) (start : J [] (s.watched src))
include carries running receives len free clear passes judged start

/-- Each slot of the scope is judged, and the verdict is handed (R90, R100). -/
theorem judged_scope {first : SlotNo} (head : (scopeSlots s.address p).head? = some first) :
    ∃ v u, J (scopeSlots s.address p) v ∧ Keeps [.permits, .queue] v u ∧
      exec c s = .next (u.afterPermit k (scopeSlots s.address p)) ∧
      Handed (.verdict (p.getD 0 0) src (6 * s.address.val + first.val) ((scopeSlots s.address p).map answer)) (s.watched src) u ∧
      u.custody.verdict = [] ∧ u.custody.restartDue = false ∧ u.custody.waiting = s.custody.waiting ∧
      Orderly v u ∧ Grows v u := by
  obtain ⟨verdict, waiting, due⟩ := watched_permits (s := s) (src := src)
  obtain ⟨done, told, keptWaiting, keptDue⟩ := judged.slots (scopeSlots s.address p) [] (s.watched src) (scopeSlots_nodup _) start
  rw [verdict, clear, List.nil_append] at told
  rw [List.nil_append] at done
  have before := judgeSlots_orderly (permitOf src p) k (scopeSlots s.address p) (s.watched src)
  have result := (exec_permit carries running receives len).trans (congrArg _ ((takePermit_of_free free).trans
    ((judgePermit_of_scope head).trans (judgeIn_passed (by rw [watched_cfg]; exact passes) first _))))
  generalize judgeSlots (permitOf src p) k (scopeSlots s.address p) (s.watched src) = v at done told keptWaiting keptDue before result
  rw [watched_address] at result
  exact ⟨v, v.handVerdict (p.getD 0 0) src (6 * s.address.val + first.val), done, handVerdict_keeps _ _ _ v, result,
    handVerdict_handed before told _ _, rfl, keptDue.trans (due.trans free), keptWaiting.trans waiting,
    handVerdict_orderly _ _ _ v, handVerdict_grows _ _ _ v⟩

theorem permitJudged_of {ps : List Part} (acts : k ≠ .restart) (some_ : scopeSlots s.address p ≠ [])
    (frame : ∀ t, J (scopeSlots s.address p) t → Keeps (.permits :: .queue :: ps) (s.watched src) t) (runs : .runs ∉ ps) :
    ∃ v u, J (scopeSlots s.address p) v ∧ Keeps [.permits, .queue] v u ∧ PermitJudged s c src p answer ps u := by
  obtain ⟨first, rest, scope⟩ := List.exists_cons_of_ne_nil some_
  have head : (scopeSlots s.address p).head? = some first := by rw [scope]; rfl
  obtain ⟨v, u, done, after, result, handed, verdict, due, waiting, -, -⟩ :=
    judged_scope carries running receives len free clear passes judged start head
  have whole := (frame v done).trans (after.mono (by simp))
  have slots : u.plans.slots = s.plans.slots :=
    Eq.trans (whole .runs (by simpa using runs)).1 (watched_keeps src s .runs (by decide)).1
  refine ⟨v, u, done, after, result.trans ?_, fun begun => work_idle fun i m => ?_, fun x isFirst => ?_,
    ⟨verdict, due.trans free.symm, waiting⟩, whole⟩
  · rw [afterPermit_starts acts]
  · rw [State.headState, State.headRun, slots]
    exact begun i m
  · rw [head] at isFirst
    cases isFirst
    exact handed

end

end Sys2Proof.Machine
end

section
/-! PROOF. The permits by kind: OPEN and RETURN (R92 to R95), DUE, HOLD, LIFT and RESTART (R96 to R99). -/

namespace Sys2Proof.Machine

/-! ## OPEN and RETURN without a FORCE in force (R92 to R95) -/

/-- What the answer of a place reads. -/
theorem releaseAnswer_congr {s t : State} {i : SlotNo} (monitor : t.monitor = s.monitor) (latch : t.latch.get i = s.latch.get i)
    (custody : t.custody.slots.get i = s.custody.slots.get i) (run : t.headRun i = s.headRun i) (lane : t.laneOf i = s.laneOf i)
    (required : t.plans.required = s.plans.required) (tag : (t.plans.slots.get i).buildTag = (s.plans.slots.get i).buildTag)
    (ready : (t.charge.get i).ready = (s.charge.get i).ready) (kind : PermitKind) (level : Nat) :
    t.releaseAnswer kind level i = s.releaseAnswer kind level i := by
  unfold State.releaseAnswer State.fitted State.isPresent
  rw [monitor, latch, custody, run, lane, required, tag, ready]

theorem isEmpty_iff {x : Presence} : x.isEmpty = true ↔ x = .empty := by cases x <;> simp [Presence.isEmpty]

section
variable {kind : PermitKind} {level : Nat} {i : SlotNo} {s : State}

/-- Checks 1 to 4 in the words of the answer (R92). -/
theorem checkSlot_eq (release : kind = .openSlot ∨ kind = .return_) : s.checkSlot kind level i =
    if s.fitted i = false then some .unfitted
    else if (s.latch.get i).state ≠ .locked then some .notLocked
    else if (s.custody.slots.get i).hold.any (fun h => level < h.level) then some .held
    else if kind = .openSlot ∧ level < 3 ∧ s.isPresent i = false then some .empty
    else if kind = .return_ ∧ (s.monitor.get i).presence ≠ .empty then some .occupied
    else none := by
  unfold State.checkSlot presenceCheck State.isPresent
  rcases release with rfl | rfl
  · simp
  · cases (s.monitor.get i).presence <;> simp [Presence.isEmpty]

/-- Checks 6 and 7 with the grant (R94, R95). -/
theorem finishOpen_checks : s.finishOpen kind level i =
    if kind = .openSlot ∧ level = 1 ∧ s.plans.required ≠ none ∧ (s.plans.slots.get i).buildTag ≠ s.plans.required then
      (s, .staleBuild)
    else if kind = .openSlot ∧ level = 1 ∧ (s.charge.get i).ready = false then (s, .notReady)
    else (s.grantRelease i, .granted) := by
  unfold State.finishOpen State.checkoutCheck
  by_cases checkout : kind = .openSlot ∧ level = 1
  · rw [if_pos checkout]
    obtain ⟨rfl, rfl⟩ := checkout
    simp only [true_and]
    split_ifs <;> rfl
  · rw [if_neg checkout, if_neg fun h => checkout ⟨h.1, h.2.1⟩, if_neg fun h => checkout ⟨h.1, h.2.1⟩]

/-- One slot: granted with its request, or answered and left alone (R68). -/
def State.released (s : State) (kind : PermitKind) (level : Nat) (i : SlotNo) : State × Answer :=
  if s.releaseAnswer kind level i = .granted then (s.grantRelease i, .granted) else (s, s.releaseAnswer kind level i)

theorem busySlot_iff : s.busySlot i = true ↔ (s.headRun i).isSome = true ∨ (s.laneOf i).isSome = true := by
  rw [State.busySlot, Bool.or_eq_true]

theorem judgeOpen_eq {force : Bool} (release : kind = .openSlot ∨ kind = .return_) (gentle : ¬ (level = 3 ∧ force = true)) :
    s.judgeOpen kind level force i = s.released kind level i := by
  unfold State.judgeOpen State.released State.releaseAnswer
  rw [checkSlot_eq release, finishOpen_checks (s := s), if_neg gentle]
  simp only [busySlot_iff]
  split_ifs <;> simp_all

end

/-- Once the slots done have been judged: those granted wait for their claims, with a request each (R68, R77). -/
structure Grants (w : State) (answer : SlotNo → Answer) (done : List SlotNo) (t : State) : Prop where
  latch : ∀ i, t.latch.get i = if i ∈ done ∧ answer i = .granted then
    { w.latch.get i with state := .withdrawWait (momentAfter w.clock claimWaitMs), attempt := 1 } else w.latch.get i
  asked : t.claims.requests.map Request.asked = w.claims.requests.map Request.asked ++
    (done.filter (fun i => decide (answer i = .granted))).map (fun i => (i, .withdraw, 1))

section
variable {w t u : State} {answer : SlotNo → Answer} {done : List SlotNo} {i : SlotNo}

theorem Grants.start (w : State) (answer : SlotNo → Answer) : Grants w answer [] w :=
  ⟨fun i => (if_neg (by simp)).symm, (List.append_nil _).symm⟩

/-- What is done apart from the latch and the requests. -/
theorem Grants.of_keeps {ps : List Part} (h : Grants w answer done t) (keeps : Keeps ps t u) (latch : .latch ∉ ps)
    (requests : .requests ∉ ps) : Grants w answer done u := by
  have same : u.latch = t.latch := keeps .latch latch
  exact ⟨fun i => by rw [same, h.latch], by rw [(keeps .requests requests).1, h.asked]⟩

theorem Grants.granted (h : Grants w answer done t) (fresh : i ∉ done) (clock : t.clock = w.clock) (granted : answer i = .granted)
    (moves : LatchMoves i (.withdrawWait (momentAfter t.clock claimWaitMs)) 1 t u) (asks : Asks i .withdraw 1 t u) :
    Grants w answer (done ++ [i]) u := by
  refine ⟨fun k => ?_, ?_⟩
  · by_cases mine : k = i
    · subst mine
      rw [if_pos ⟨by simp, granted⟩, moves.record, h.latch, if_neg fun m => fresh m.1, clock]
    · rw [moves.others k mine, h.latch]
      exact if_congr (by simp [mine]) rfl rfl
  · rw [asks, h.asked, List.filter_append, List.map_append, List.append_assoc]
    simp [granted]

theorem Grants.refused (h : Grants w answer done t) (refused : answer i ≠ .granted) : Grants w answer (done ++ [i]) t := by
  refine ⟨fun k => ?_, ?_⟩
  · rw [h.latch]
    refine if_congr ?_ rfl rfl
    constructor
    · exact fun m => ⟨List.mem_append_left _ m.1, m.2⟩
    · rintro ⟨m, isGranted⟩
      rcases List.mem_append.mp m with m | m
      · exact ⟨m, isGranted⟩
      · rw [List.mem_singleton.mp m] at isGranted
        exact absurd isGranted refused
  · rw [h.asked, List.filter_append]
    simp [refused]

end

/-- And nothing else has moved. -/
structure Released (w : State) (kind : PermitKind) (level : Nat) (done : List SlotNo) (t : State) : Prop extends
    Grants w (w.releaseAnswer kind level) done t where
  keeps : Keeps [.permits, .queue, .latch, .requests] w t

theorem Released.start (w : State) (kind : PermitKind) (level : Nat) : Released w kind level [] w :=
  ⟨.start w _, Keeps.refl _ w⟩

theorem laneOf_of_keeps {ps : List Part} {s t : State} (h : Keeps ps s t) (n : .lanes ∉ ps) (i : SlotNo) : t.laneOf i = s.laneOf i := by
  have lanes : t.lanes = s.lanes := h .lanes n
  unfold State.laneOf
  rw [lanes]

/-- A slot not judged yet has the answer that it had at the start. -/
theorem Released.answer {w t : State} {kind : PermitKind} {level : Nat} {done : List SlotNo} (h : Released w kind level done t)
    {i : SlotNo} (fresh : i ∉ done) : t.releaseAnswer kind level i = w.releaseAnswer kind level i := by
  have plans : t.plans.slots = w.plans.slots := (h.keeps .runs (by decide)).1
  have custody : t.custody.slots = w.custody.slots := h.keeps .custody (by decide)
  have charge : t.charge = w.charge := h.keeps .charge (by decide)
  exact releaseAnswer_congr (h.keeps .monitor (by decide)) (by rw [h.latch, if_neg fun m => fresh m.1]) (by rw [custody])
    (by rw [State.headRun, plans]; rfl) (laneOf_of_keeps h.keeps (by decide) i) (h.keeps .required (by decide)) (by rw [plans])
    (by rw [charge]) kind level

theorem grantRelease_result (i : SlotNo) (s : State) :
    LatchMoves i (.withdrawWait (momentAfter s.clock claimWaitMs)) 1 s (s.grantRelease i) ∧ Asks i .withdraw 1 s (s.grantRelease i) :=
  waits_moves i s _ .withdraw 1

theorem Released.next {w t : State} {kind : PermitKind} {level : Nat} {done : List SlotNo} (h : Released w kind level done t)
    {i : SlotNo} (fresh : i ∉ done) : (t.released kind level i).2 = w.releaseAnswer kind level i ∧
      Released w kind level (done ++ [i]) (t.released kind level i).1 := by
  unfold State.released
  rw [h.answer fresh]
  by_cases granted : w.releaseAnswer kind level i = .granted
  · rw [if_pos granted]
    obtain ⟨moves, asks⟩ := grantRelease_result i t
    exact ⟨granted.symm, h.toGrants.granted fresh (h.keeps .clock (by decide)) granted moves asks,
      h.keeps.trans ((grantRelease_keeps i t).mono (by decide))⟩
  · rw [if_neg granted]
    exact ⟨rfl, h.toGrants.refused granted, h.keeps⟩

theorem Released.told {w t : State} {kind : PermitKind} {level : Nat} {done : List SlotNo} (h : Released w kind level done t)
    (a : Answer) : Released w kind level done (t.addOutcome a) :=
  ⟨h.toGrants.of_keeps (addOutcome_keeps a t) (by decide) (by decide), h.keeps.trans ((addOutcome_keeps a t).mono (by decide))⟩

theorem released_once {p : Permit} {kind : PermitKind} {w : State} (release : kind = .openSlot ∨ kind = .return_)
    (gentle : ¬ (p.level = 3 ∧ p.force = true)) :
    JudgedOnce p kind (w.releaseAnswer kind p.level) (Released w kind p.level) where
  slot done i t fresh h := by
    have judged : t.judgeSlot p kind i = t.released kind p.level i := by
      rw [← judgeOpen_eq release gentle]
      rcases release with rfl | rfl <;> rfl
    rw [judged]
    exact h.next fresh
  told done a t h := h.told a

/-- Settles O39: the answer of a slot does not depend on those judged before it. -/
theorem releasePermitIsJudgedSlotBySlot : Obligations.ReleasePermitIsJudgedSlotBySlot := by
  intro s c kind src p running receives len free clear row trusts high gentle some_
  have carries : frameOf c = some (3, src, p) := by rcases row with ⟨rfl, _⟩ | ⟨rfl, _⟩ <;> rfl
  have release : kind = .openSlot ∨ kind = .return_ := row.imp (·.2.2) (·.2.2)
  have known : permitKindOf (byteAt p 1) = some kind := by
    rcases row with ⟨_, is, rfl⟩ | ⟨_, is, rfl⟩ <;> rw [is] <;> rfl
  have low : kind.minLevel ≤ byteAt p 2 % 4 := by rcases release with rfl | rfl <;> exact high
  have acts : kind ≠ .restart := by rcases release with rfl | rfl <;> nofun
  have soft : ¬ ((permitOf src p).level = 3 ∧ (permitOf src p).force = true) := by
    rintro ⟨top, force⟩
    have top : byteAt p 2 % 4 = 3 := top
    have force : 128 ≤ byteAt p 2 := of_decide_eq_true force
    omega
  obtain ⟨v, u, done, after, judged⟩ := permitJudged_of (ps := [.latch, .requests]) carries running receives len free clear
    (checkZero_passed trusts known low) (released_once (w := s.watched src) release soft) (Released.start _ _ _) acts some_
    (fun t h => h.keeps) (by decide)
  have latch : u.latch = v.latch := after .latch (by decide)
  have clock : (s.watched src).clock = s.clock := watched_keeps src s .clock (by decide)
  have old : (s.watched src).latch = s.latch := watched_keeps src s .latch (by decide)
  refine ⟨u, judged, fun i => ?_, ?_⟩
  · rw [latch, done.latch, clock, old, momentAfter_eq]
    rfl
  · rw [(after .requests (by decide)).1]
    exact done.asked

/-! ## DUE (R28, R96) -/

/-- Once the slots done have been judged: the fitted ones bear the mark, and their demands are handed. -/
structure Due (w : State) (minutes : Nat) (done : List SlotNo) (t : State) : Prop where
  custody : ∀ i, t.custody.slots.get i = if i ∈ done ∧ w.fitted i = true then
    { w.custody.slots.get i with dueUntil := some (momentAfter w.clock (minutes * 60000)), duePassed := false }
    else w.custody.slots.get i
  lights : Lights w t
  rests : (∃ i ∈ done, w.fitted i = true) → w.Lit → t.demandsMoved = false
  follow : AllFollow w t
  keeps : Keeps [.permits, .queue, .custody, .charge, .share] w t

theorem fitted_of_keeps {ps : List Part} {s t : State} (h : Keeps ps s t) (n : .monitor ∉ ps) (i : SlotNo) : t.fitted i = s.fitted i := by
  have monitor : t.monitor = s.monitor := h .monitor n
  unfold State.fitted
  rw [monitor]

theorem due_once (p : Permit) (w : State) : JudgedOnce p .due (fun i => if w.fitted i = true then .applied else .unfitted)
    (Due w p.minutes) where
  slot done i t fresh h := by
    have fitted := fitted_of_keeps h.keeps (by decide) i
    have clock : t.clock = w.clock := h.keeps .clock (by decide)
    by_cases fits : w.fitted i = true
    · have judged : t.judgeSlot p .due i = t.judgeDue p.minutes i := if_pos (fitted.trans fits)
      rw [judged, if_pos fits]
      let x : CustodySlot := { t.custody.slots.get i with
        dueUntil := some (momentAfter t.clock (p.minutes * 60000)), duePassed := false }
      have set := setCustody_keeps i x t
      have rest : Rests t (t.setCustody i x).settled := (setCustody_lights i x t).rests (settled_rest _)
      refine ⟨rfl, fun k => ?_, h.lights.trans rest.toLights, fun _ lit => rest.rests (h.lights.lit lit),
        (h.follow.trans (AllFollow.of_keeps set (by decide))).trans (settled_follows _),
        (h.keeps.trans (set.mono (by decide))).trans ((settled_keeps _).mono (by decide))⟩
      show (t.setCustody i x).settled.custody.slots.get k = _
      rw [settled_custody, setCustody_custody, get_setAt]
      by_cases mine : k = i
      · subst mine
        rw [if_pos rfl, if_pos ⟨by simp, fits⟩]
        show ({ t.custody.slots.get k with dueUntil := _, duePassed := false } : CustodySlot) = _
        rw [h.custody, if_neg fun m => fresh m.1, clock]
      · rw [if_neg mine, h.custody]
        exact if_congr (by simp [mine]) rfl rfl
    · have judged : t.judgeSlot p .due i = (t, .unfitted) := if_neg (by rw [fitted]; exact fits)
      rw [judged, if_neg fits]
      refine ⟨rfl, fun k => ?_, h.lights, fun ⟨k, m, isFitted⟩ => ?_, h.follow, h.keeps⟩
      · rw [h.custody]
        refine if_congr ?_ rfl rfl
        constructor
        · exact fun m => ⟨List.mem_append_left _ m.1, m.2⟩
        · rintro ⟨m, isFitted⟩
          rcases List.mem_append.mp m with m | m
          · exact ⟨m, isFitted⟩
          · rw [List.mem_singleton.mp m] at isFitted
            exact absurd isFitted fits
      · rcases List.mem_append.mp m with m | m
        · exact h.rests ⟨k, m, isFitted⟩
        · rw [List.mem_singleton.mp m] at isFitted
          exact absurd isFitted fits
  told done a t h :=
    have told : Attends t (t.addOutcome a) := attends_of_keeps (addOutcome_keeps a t) (by decide)
    ⟨h.custody, h.lights.trans told.toLights, fun reached lit => told.rest (h.lights.lit lit) (h.rests reached lit),
      h.follow.trans (AllFollow.of_keeps (addOutcome_keeps a t) (by decide)), h.keeps.trans ((addOutcome_keeps a t).mono (by decide))⟩

/-! ## HOLD and LIFT (R97, R98) -/

/-- Once the slots done have been judged by a rule that sets holds. -/
structure HoldsSet (w : State) (rule : Option Hold → Option Hold) (done : List SlotNo) (t : State) : Prop where
  custody : ∀ i, t.custody.slots.get i = if i ∈ done ∧ w.fitted i = true then
    { w.custody.slots.get i with hold := rule (w.custody.slots.get i).hold } else w.custody.slots.get i

theorem HoldsSet.start (w : State) (rule : Option Hold → Option Hold) : HoldsSet w rule [] w :=
  ⟨fun i => (if_neg (by simp)).symm⟩

/-- One slot more. -/
theorem HoldsSet.next {w t u : State} {rule : Option Hold → Option Hold} {done : List SlotNo} (h : HoldsSet w rule done t)
    {i : SlotNo} (fresh : i ∉ done) (set : w.fitted i = true → u.custody.slots =
      setAt t.custody.slots i { t.custody.slots.get i with hold := rule (t.custody.slots.get i).hold })
    (still : w.fitted i = false → u.custody.slots = t.custody.slots) : HoldsSet w rule (done ++ [i]) u := by
  refine ⟨fun k => ?_⟩
  by_cases mine : k = i
  · subst mine
    have old : t.custody.slots.get k = w.custody.slots.get k := by rw [h.custody, if_neg fun m => fresh m.1]
    cases fits : w.fitted k with
    | true => rw [set fits, get_setAt_same, old, if_pos ⟨by simp, rfl⟩]
    | false => rw [still fits, old, if_neg (by simp)]
  · have kept : u.custody.slots.get k = t.custody.slots.get k := by
      cases fits : w.fitted i with
      | true => rw [set fits, get_setAt_ne _ _ _ _ mine]
      | false => rw [still fits]
    rw [kept, h.custody]
    exact if_congr (by simp [mine]) rfl rfl

/-- Once the slots done have been judged by a HOLD. -/
structure HeldBy (w : State) (level : Nat) (done : List SlotNo) (t : State) : Prop extends
    HoldsSet w (fun h => (raiseHold level h).1) done t where
  keeps : Keeps [.permits, .queue, .custody] w t

theorem hold_once (p : Permit) (w : State) : JudgedOnce p .hold
    (fun i => if w.fitted i = true then (raiseHold p.level (w.custody.slots.get i).hold).2 else .unfitted) (HeldBy w p.level) where
  slot done i t fresh h := by
    have fitted := fitted_of_keeps h.keeps (by decide) i
    have old : t.custody.slots.get i = w.custody.slots.get i := by rw [h.custody, if_neg fun m => fresh m.1]
    cases fits : w.fitted i with
    | true =>
      have judged : t.judgeSlot p .hold i = t.judgeHold p.level i := if_pos (fitted.trans fits)
      rw [judged, if_pos rfl]
      refine ⟨?_, h.toHoldsSet.next fresh (fun _ => rfl) (fun not_ => by rw [fits] at not_; cases not_),
        h.keeps.trans ((setHold_keeps i _ t).mono (by decide))⟩
      show (raiseHold p.level (t.custody.slots.get i).hold).2 = _
      rw [old]
    | false =>
      have judged : t.judgeSlot p .hold i = (t, .unfitted) := if_neg (by rw [fitted, fits]; exact Bool.false_ne_true)
      rw [judged]
      exact ⟨rfl, h.toHoldsSet.next fresh (fun is => by rw [fits] at is; cases is) (fun _ => rfl), h.keeps⟩
  told done a t h := ⟨⟨h.custody⟩, h.keeps.trans ((addOutcome_keeps a t).mono (by decide))⟩

/-- The hold that a LIFT of a level leaves (R98). -/
def liftHold (level : Nat) : Option Hold → Option Hold
  | none => none
  | some h => if level < h.level then some h else none

/-- A LIFT of a jam lets the latch learn (R76). -/
def State.Relearns (s : State) (level : Nat) (i : SlotNo) : Prop :=
  (¬ ∃ h, (s.custody.slots.get i).hold = some h ∧ level < h.level) ∧
    (s.custody.slots.get i).hold.map Hold.reason = some .jammed ∧ (s.latch.get i).state = .jammed

/-- Once the slots done have been judged by a LIFT. -/
structure Lifted (w : State) (level : Nat) (done : List SlotNo) (t : State) : Prop extends HoldsSet w (liftHold level) done t where
  relearnt : ∀ i, i ∈ done → w.fitted i = true → w.Relearns level i →
    t.latch.get i = { w.latch.get i with state := w.learntState i, attempt := 1 }
  kept : ∀ i, ¬ (i ∈ done ∧ w.fitted i = true ∧ w.Relearns level i) → t.latch.get i = w.latch.get i
  keeps : Keeps [.permits, .queue, .custody, .latch] w t

theorem relearn_latch (i : SlotNo) (s : State) (k : SlotNo) : (s.relearn i).latch.get k =
    if k = i ∧ (s.latch.get i).state = .jammed then { s.latch.get i with state := s.learntState i, attempt := 1 }
    else s.latch.get k := by
  unfold State.relearn
  by_cases jammed : (s.latch.get i).state = .jammed
  · rw [if_pos jammed, learnLatch_latch]
    exact if_congr (by simp [jammed]) rfl rfl
  · rw [if_neg jammed, if_neg fun h => jammed h.2]

theorem learntState_congr {s t : State} (monitor : t.monitor = s.monitor) (clock : t.clock = s.clock) (cfg : t.cfg = s.cfg)
    (i : SlotNo) : t.learntState i = s.learntState i := by
  unfold State.learntState State.isPresent
  rw [monitor, clock, cfg]

/-- What a LIFT does to one slot. -/
theorem judgeLift_result (level : Nat) (i : SlotNo) (s : State) :
    (s.judgeLift level i).2 = (if ∃ h, (s.custody.slots.get i).hold = some h ∧ level < h.level then .held else .applied) ∧
    (s.judgeLift level i).1.custody.slots =
      setAt s.custody.slots i { s.custody.slots.get i with hold := liftHold level (s.custody.slots.get i).hold } ∧
    (s.Relearns level i → (s.judgeLift level i).1.latch.get i = { s.latch.get i with state := s.learntState i, attempt := 1 }) ∧
    (¬ s.Relearns level i → (s.judgeLift level i).1.latch.get i = s.latch.get i) ∧
    OthersSame i s.latch (s.judgeLift level i).1.latch := by
  have same : ∀ h, (s.custody.slots.get i).hold = h →
      setAt s.custody.slots i { s.custody.slots.get i with hold := h } = s.custody.slots := fun h is => by
    rw [← is]
    exact setAt_get _ _
  unfold State.judgeLift
  cases hold : (s.custody.slots.get i).hold with
  | none =>
    have calm : ¬ s.Relearns level i := fun h => by
      have reason := h.2.1
      rw [hold] at reason
      cases reason
    exact ⟨by simp, (same none hold).symm, fun h => absurd h calm, fun _ => rfl, fun _ _ => rfl⟩
  | some h =>
    dsimp only
    by_cases low : level < h.level
    · have calm : ¬ s.Relearns level i := fun r => r.1 ⟨h, hold, low⟩
      rw [if_pos low, if_pos ⟨h, rfl, low⟩, liftHold, if_pos low]
      exact ⟨rfl, (same (some h) hold).symm, fun r => absurd r calm, fun _ => rfl, fun _ _ => rfl⟩
    · have open_ : ¬ ∃ x, some h = some x ∧ level < x.level := by
        rintro ⟨x, is, above⟩
        cases is
        exact low above
      rw [if_neg low, if_neg open_, liftHold, if_neg low]
      by_cases jam : h.reason = .jammed
      · rw [if_pos jam]
        have learnt : (s.setHold i none).learntState i = s.learntState i := learntState_congr rfl rfl rfl i
        refine ⟨rfl, relearn_keeps i _ .custody (by decide), fun r => ?_, fun calm => ?_, fun k other => ?_⟩
        · rw [relearn_latch, if_pos ⟨rfl, r.2.2⟩, learnt]
          rfl
        · rw [relearn_latch, if_neg fun at_ => calm ⟨by rw [hold]; exact open_, by rw [hold, Option.map_some, jam], at_.2⟩]
          rfl
        · rw [relearn_latch, if_neg fun at_ => other at_.1]
          rfl
      · rw [if_neg jam]
        have calm : ¬ s.Relearns level i := fun r => by
          have reason := r.2.1
          rw [hold, Option.map_some, Option.some.injEq] at reason
          exact jam reason
        exact ⟨rfl, rfl, fun r => absurd r calm, fun _ => rfl, fun _ _ => rfl⟩

theorem relearns_congr {s t : State} {level : Nat} {i : SlotNo} (custody : t.custody.slots.get i = s.custody.slots.get i)
    (latch : t.latch.get i = s.latch.get i) : t.Relearns level i ↔ s.Relearns level i := by
  unfold State.Relearns
  rw [custody, latch]

theorem lift_once (p : Permit) (w : State) : JudgedOnce p .lift
    (fun i => if w.fitted i = true then
      (if ∃ h, (w.custody.slots.get i).hold = some h ∧ p.level < h.level then .held else .applied) else .unfitted)
    (Lifted w p.level) where
  slot done i t fresh h := by
    have fitted := fitted_of_keeps h.keeps (by decide) i
    have old : t.custody.slots.get i = w.custody.slots.get i := by rw [h.custody, if_neg fun m => fresh m.1]
    have latch : t.latch.get i = w.latch.get i := h.kept i fun m => fresh m.1
    cases fits : w.fitted i with
    | true =>
      have judged : t.judgeSlot p .lift i = t.judgeLift p.level i := if_pos (fitted.trans fits)
      obtain ⟨answer, custody, relearnt, kept, others⟩ := judgeLift_result p.level i t
      rw [relearns_congr old latch] at relearnt kept
      rw [judged, if_pos rfl]
      refine ⟨by rw [answer, old], h.toHoldsSet.next fresh (fun _ => custody) (fun not_ => by rw [fits] at not_; cases not_),
        fun k m isFitted r => ?_, fun k calm => ?_, h.keeps.trans ((judgeLift_keeps p.level i t).mono (by decide))⟩
      · by_cases mine : k = i
        · subst mine
          rw [relearnt r, latch, learntState_congr (h.keeps .monitor (by decide)) (h.keeps .clock (by decide))
            (h.keeps .cfg (by decide))]
        · rw [others k mine]
          exact h.relearnt k (by simpa [mine] using m) isFitted r
      · by_cases mine : k = i
        · subst mine
          rw [kept fun r => calm ⟨by simp, fits, r⟩, latch]
        · rw [others k mine]
          exact h.kept k fun r => calm ⟨List.mem_append_left _ r.1, r.2⟩
    | false =>
      have judged : t.judgeSlot p .lift i = (t, .unfitted) := if_neg (by rw [fitted, fits]; exact Bool.false_ne_true)
      rw [judged]
      refine ⟨rfl, h.toHoldsSet.next fresh (fun is => by rw [fits] at is; cases is) (fun _ => rfl), fun k m isFitted r => ?_,
        fun k calm => h.kept k fun r => calm ⟨List.mem_append_left _ r.1, r.2⟩, h.keeps⟩
      rcases List.mem_append.mp m with m | m
      · exact h.relearnt k m isFitted r
      · rw [List.mem_singleton.mp m, fits] at isFitted
        cases isFitted
  told done a t h := ⟨⟨h.custody⟩, h.relearnt, h.kept, h.keeps.trans ((addOutcome_keeps a t).mono (by decide))⟩

end Sys2Proof.Machine
end

section
/-! PROOF. DUE, HOLD, LIFT and RESTART over their scope (R28, R76, R96 to R99). -/

namespace Sys2Proof.Machine

/-! ## DUE, HOLD, LIFT and RESTART over their scope -/

theorem watched_lit (src : Source) (s : State) (lit : s.Lit) : (s.watched src).Lit :=
  ((frameEnds_attends s).trans (watch_attends src _)).lit lit

theorem raiseHold_of_higher {level : Nat} {h : Option Hold} (held : ∃ x, h = some x ∧ level < x.level) :
    raiseHold level h = (h, .held) := by
  obtain ⟨x, rfl, above⟩ := held
  exact if_pos above

theorem raiseHold_of_lower {level : Nat} {h : Option Hold} (open_ : ¬ ∃ x, h = some x ∧ level < x.level) :
    raiseHold level h = (some ⟨level, (h.map Hold.reason).getD .admin⟩, .applied) := by
  cases h with
  | none => rfl
  | some x => exact if_neg fun above => open_ ⟨x, rfl, above⟩

theorem liftHold_of_higher {level : Nat} {h : Option Hold} (held : ∃ x, h = some x ∧ level < x.level) : liftHold level h = h := by
  obtain ⟨x, rfl, above⟩ := held
  exact if_pos above

theorem liftHold_of_lower {level : Nat} {h : Option Hold} (open_ : ¬ ∃ x, h = some x ∧ level < x.level) :
    liftHold level h = none := by
  cases h with
  | none => rfl
  | some x => exact if_neg fun above => open_ ⟨x, rfl, above⟩

theorem judgeSlot_restart (p : Permit) (i : SlotNo) (s : State) :
    s.judgeSlot p .restart i = (s, if s.fitted i = true then .applied else .unfitted) := by
  unfold State.judgeSlot
  dsimp only
  split <;> rfl

/-- A RESTART moves no slot (R99). -/
theorem restart_once (p : Permit) (w : State) : JudgedOnce p .restart (fun i => if w.fitted i = true then .applied else .unfitted)
    (fun _ t => Keeps [.permits, .queue] w t) where
  slot done i t _ h := by
    rw [judgeSlot_restart, fitted_of_keeps h (by decide)]
    exact ⟨rfl, h⟩
  told done a t h := h.trans ((addOutcome_keeps a t).mono (by decide))

section
variable {s : State} {src : Source} {p : List Byte} (running : s.mode = .running) (receives : s.line.phase.receives = true)
  (len : p.length = 6) (free : s.custody.restartDue = false) (clear : s.custody.verdict = [])
  (trusts : Trusts s.cfg src (byteAt p 2 % 4)) (high : 2 ≤ byteAt p 2 % 4) (some_ : scopeSlots s.address p ≠ [])
include running receives len free clear trusts high some_

theorem dueJudged (kind : byteAt p 1 = 3) :
    ∃ u, PermitJudged s (.permitDue src p) src p (fun i => if s.fitted i then .applied else .unfitted) [.custody, .charge, .share] u ∧
      (∀ i, (i ∈ scopeSlots s.address p ∧ s.fitted i = true → u.custody.slots.get i =
          { s.custody.slots.get i with dueUntil := some (s.clock + max (byteAt p 5) 1 * 60000 * 250), duePassed := false }) ∧
        (¬ (i ∈ scopeSlots s.address p ∧ s.fitted i = true) → u.custody.slots.get i = s.custody.slots.get i)) ∧
      (s.PowerRight → (∃ i, i ∈ scopeSlots s.address p ∧ s.fitted i = true) → u.demandsMoved = false) ∧
      AllFollow (s.watched src) u := by
  have watched := watched_keeps src s
  obtain ⟨v, u, done, after, judged⟩ := permitJudged_of (c := .permitDue src p) (ps := [.custody, .charge, .share]) rfl running
    receives len free clear (checkZero_passed (k := .due) trusts (by rw [kind]; rfl) high)
    (due_once (permitOf src p) (s.watched src))
    ⟨fun i => (if_neg (by simp)).symm, .refl _, fun ⟨_, m, _⟩ => absurd m (List.not_mem_nil), AllFollow.refl _, Keeps.refl _ _⟩
    (by nofun) some_ (fun t h => h.keeps) (by decide)
  have clock : (s.watched src).clock = s.clock := watched .clock (by decide)
  have custody : (s.watched src).custody.slots = s.custody.slots := watched .custody (by decide)
  have fitted := fitted_of_keeps watched (by decide)
  have slots : u.custody.slots = v.custody.slots := after .custody (by decide)
  have marks := done.custody
  simp only [fitted] at judged
  rw [clock, custody] at marks
  have told : Attends v u := attends_of_keeps after (by decide)
  refine ⟨u, judged, fun i => ⟨fun reached => ?_, fun spared => ?_⟩, fun right ⟨i, m, isFitted⟩ => ?_,
    done.follow.trans (AllFollow.of_keeps after (by decide))⟩
  · rw [slots, marks, fitted, if_pos reached, momentAfter_eq]
    rfl
  · rw [slots, marks, fitted, if_neg spared]
  · have lit := watched_lit src s right.lit
    exact told.rest (done.lights.lit lit) (done.rests ⟨i, m, (fitted i).trans isFitted⟩ lit)

theorem holdJudged (kind : byteAt p 1 = 4) :
    ∃ u answer, PermitJudged s (.permitHold src p) src p answer [.custody] u ∧
      ∀ i, let held := ∃ h, (s.custody.slots.get i).hold = some h ∧ byteAt p 2 % 4 < h.level
        (s.fitted i = false → answer i = .unfitted) ∧
        (s.fitted i = true → held → answer i = .held) ∧ (s.fitted i = true → ¬ held → answer i = .applied) ∧
        (i ∈ scopeSlots s.address p ∧ s.fitted i = true → ¬ held → u.custody.slots.get i =
          { s.custody.slots.get i with
            hold := some ⟨byteAt p 2 % 4, ((s.custody.slots.get i).hold.map Hold.reason).getD .admin⟩ }) ∧
        (¬ (i ∈ scopeSlots s.address p ∧ s.fitted i = true) ∨ held → u.custody.slots.get i = s.custody.slots.get i) := by
  have watched := watched_keeps src s
  obtain ⟨v, u, done, after, judged⟩ := permitJudged_of (c := .permitHold src p) (ps := [.custody]) rfl running
    receives len free clear (checkZero_passed (k := .hold) trusts (by rw [kind]; rfl) high)
    (hold_once (permitOf src p) (s.watched src)) ⟨.start _ _, Keeps.refl _ _⟩ (by nofun) some_ (fun t h => h.keeps) (by decide)
  have custody : (s.watched src).custody.slots = s.custody.slots := watched .custody (by decide)
  have fitted := fitted_of_keeps watched (by decide)
  have slots : u.custody.slots = v.custody.slots := after .custody (by decide)
  have holds := done.custody
  simp only [fitted, custody] at judged holds
  refine ⟨u, _, judged, fun i => ⟨fun not_ => if_neg (by rw [not_]; exact Bool.false_ne_true),
    fun is held => ?_, fun is open_ => ?_, fun reached open_ => ?_, fun spared => ?_⟩⟩
  · exact (if_pos is).trans (congrArg Prod.snd (raiseHold_of_higher held))
  · exact (if_pos is).trans (congrArg Prod.snd (raiseHold_of_lower open_))
  · rw [slots, holds, if_pos reached]
    exact congrArg (fun h : Option Hold × Answer => { s.custody.slots.get i with hold := h.1 }) (raiseHold_of_lower open_)
  · rw [slots, holds]
    split
    next reached =>
      exact congrArg (fun h : Option Hold × Answer => { s.custody.slots.get i with hold := h.1 })
        (raiseHold_of_higher (spared.resolve_left fun spared => spared reached))
    next => rfl

theorem liftJudged (kind : byteAt p 1 = 5) :
    ∃ u answer, PermitJudged s (.permitLift src p) src p answer [.custody, .latch] u ∧
      ∀ i, let held := ∃ h, (s.custody.slots.get i).hold = some h ∧ byteAt p 2 % 4 < h.level
        (s.fitted i = false → answer i = .unfitted) ∧
        (s.fitted i = true → held → answer i = .held) ∧ (s.fitted i = true → ¬ held → answer i = .applied) ∧
        (i ∈ scopeSlots s.address p ∧ s.fitted i = true → ¬ held → u.custody.slots.get i =
          { s.custody.slots.get i with hold := none }) ∧
        (¬ (i ∈ scopeSlots s.address p ∧ s.fitted i = true) ∨ held → u.custody.slots.get i = s.custody.slots.get i) ∧
        (i ∈ scopeSlots s.address p ∧ s.fitted i = true → s.Relearns (byteAt p 2 % 4) i →
          u.latch.get i = { s.latch.get i with state := s.learntState i, attempt := 1 }) ∧
        (¬ (i ∈ scopeSlots s.address p ∧ s.fitted i = true ∧ s.Relearns (byteAt p 2 % 4) i) → u.latch.get i = s.latch.get i) := by
  have watched := watched_keeps src s
  obtain ⟨v, u, done, after, judged⟩ := permitJudged_of (c := .permitLift src p) (ps := [.custody, .latch]) rfl running
    receives len free clear (checkZero_passed (k := .lift) trusts (by rw [kind]; rfl) high)
    (lift_once (permitOf src p) (s.watched src))
    ⟨.start _ _, fun i m => absurd m (List.not_mem_nil), fun _ _ => rfl, Keeps.refl _ _⟩ (by nofun) some_
    (fun t h => h.keeps) (by decide)
  have custody : (s.watched src).custody.slots = s.custody.slots := watched .custody (by decide)
  have latch : (s.watched src).latch = s.latch := watched .latch (by decide)
  have fitted := fitted_of_keeps watched (by decide)
  have relearns : ∀ i, (s.watched src).Relearns (permitOf src p).level i ↔ s.Relearns (byteAt p 2 % 4) i := fun i =>
    relearns_congr (by rw [custody]) (by rw [latch])
  have learnt : ∀ i, (s.watched src).learntState i = s.learntState i :=
    learntState_congr (watched .monitor (by decide)) (watched .clock (by decide)) (watched .cfg (by decide))
  have slots : u.custody.slots = v.custody.slots := after .custody (by decide)
  have latches : u.latch = v.latch := after .latch (by decide)
  have holds := done.custody
  have moved := done.relearnt
  have kept := done.kept
  simp only [fitted, custody] at judged holds
  simp only [fitted, relearns, latch, learnt] at moved kept
  refine ⟨u, _, judged, fun i => ⟨fun not_ => if_neg (by rw [not_]; exact Bool.false_ne_true),
    fun is held => (if_pos is).trans (if_pos held), fun is open_ => (if_pos is).trans (if_neg open_), fun reached open_ => ?_,
    fun spared => ?_, fun reached r => ?_, fun calm => ?_⟩⟩
  · rw [slots, holds, if_pos reached, show (permitOf src p).level = byteAt p 2 % 4 from rfl, liftHold_of_lower open_]
  · rw [slots, holds]
    split
    next reached =>
      rw [show (permitOf src p).level = byteAt p 2 % 4 from rfl,
        liftHold_of_higher (spared.resolve_left fun spared => spared reached)]
    next => rfl
  · rw [latches, moved i reached.1 reached.2 r]
  · rw [latches, kept i calm]

omit high in
theorem restartJudged (kind : byteAt p 1 = 6) (top : byteAt p 2 % 4 = 3) :
    ∃ t first, exec (.permitRestart src p) s = .next t ∧ (scopeSlots s.address p).head? = some first ∧
      Handed (.verdict (p.getD 0 0) src (6 * s.address.val + first.val)
        ((scopeSlots s.address p).map (fun i => if s.fitted i then .applied else .unfitted))) (s.watched src) t ∧
      t.custody.restartDue = true ∧ t.custody.verdict = [] ∧ t.custody.waiting = s.custody.waiting ∧
      Keeps [.permits, .queue] (s.watched src) t := by
  obtain ⟨first, rest, scope⟩ := List.exists_cons_of_ne_nil some_
  have head : (scopeSlots s.address p).head? = some first := by rw [scope]; rfl
  obtain ⟨v, u, keeps, after, result, handed, verdict, -, waiting, -, -⟩ := judged_scope (c := .permitRestart src p) (k := .restart) rfl
    running receives len free clear (checkZero_passed trusts (by rw [kind]; rfl) (by rw [top]; exact Nat.le_refl 3))
    (restart_once (permitOf src p) (s.watched src)) (Keeps.refl _ _) head
  simp only [fitted_of_keeps (watched_keeps src s) (by decide)] at handed
  refine ⟨_, first, result, head, handed, rfl, verdict, waiting, ?_⟩
  exact (keeps.trans after).trans (by intro q hq; cases q <;> simp_all [same, State.afterPermit])

end

/-- Settles O41: the judgement of each slot reads that slot alone, so each of the scope has the effect of its own judgement. -/
theorem custodyPermitsActOnFittedSlots : Obligations.CustodyPermitsActOnFittedSlots := by
  intro s src p running receives len free clear trusts high some_
  refine ⟨dueJudged running receives len free clear trusts high some_, holdJudged running receives len free clear trusts high some_,
    fun kind => ?_, restartJudged running receives len free clear trusts some_⟩
  obtain ⟨u, answer, judged, slots⟩ := liftJudged running receives len free clear trusts high some_ kind
  refine ⟨u, answer, judged, fun i => ?_⟩
  obtain ⟨unfitted, held, applied, lifted, spared, learnt, kept⟩ := slots i
  exact ⟨unfitted, held, applied, lifted, spared, fun ⟨reached, relearns⟩ => learnt reached relearns,
    fun calm => kept fun ⟨m, fits, relearns⟩ => calm ⟨⟨m, fits⟩, relearns⟩⟩

end Sys2Proof.Machine
end

section
/-! PROOF. A level-3 FORCE takes the slots of its scope away from provisioning (R93, R95, R123, R136). -/

namespace Sys2Proof.Machine

/-! ## The answer at level 3 (R92, R93) -/

section
variable {kind : PermitKind} {i : SlotNo} {s : State}

/-- At level 3 no check reads the tablet of an OPEN, its build or its charge. -/
theorem releaseAnswer_top : s.releaseAnswer kind 3 i =
    if s.fitted i = false then .unfitted
    else if (s.latch.get i).state ≠ .locked then .notLocked
    else if (s.custody.slots.get i).hold.any (fun h => 3 < h.level) then .held
    else if kind = .return_ ∧ (s.monitor.get i).presence ≠ .empty then .occupied
    else if (s.headRun i).isSome ∨ (s.laneOf i).isSome then .busy
    else .granted := by
  unfold State.releaseAnswer
  simp only [Nat.lt_irrefl, false_and, and_false, if_false, show ((3 : Nat) = 1) = False from eq_false (by decide)]

theorem topAnswer_congr {t : State} (monitor : t.monitor = s.monitor) (latch : t.latch.get i = s.latch.get i)
    (custody : t.custody.slots.get i = s.custody.slots.get i) (run : t.headRun i = s.headRun i) (lane : t.laneOf i = s.laneOf i) :
    t.releaseAnswer kind 3 i = s.releaseAnswer kind 3 i := by
  rw [releaseAnswer_top, releaseAnswer_top]
  unfold State.fitted
  rw [monitor, latch, custody, run, lane]

theorem finishOpen_top : s.finishOpen kind 3 i = (s.grantRelease i, .granted) := by
  rw [finishOpen_checks, if_neg (by simp), if_neg (by simp)]

/-- A FORCE takes a busy slot away from provisioning and grants it; it judges every other as without it. -/
theorem judgeOpen_force (release : kind = .openSlot ∨ kind = .return_) : s.judgeOpen kind 3 true i =
    if s.releaseAnswer kind 3 i = .busy then ((s.forceSlot i).grantRelease i, .granted) else s.released kind 3 i := by
  unfold State.judgeOpen State.released
  rw [checkSlot_eq release, releaseAnswer_top]
  simp only [busySlot_iff, finishOpen_top]
  split_ifs <;> simp_all

end

/-! ## The lane of a slot -/

theorem State.LanesRight.laneOf_eq_some_iff {s : State} (right : s.LanesRight) {i : SlotNo} {l : LaneNo} {q : Bool} :
    s.laneOf i = some (l, q) ↔ (s.lanes.table.get l).state = .attached i q := by
  refine ⟨laneOf_attached, fun attached => ?_⟩
  cases found : s.laneOf i with
  | none => exact absurd attached (laneOf_eq_none_iff.mp found l q)
  | some x =>
    obtain ⟨m, p⟩ := x
    have other := laneOf_attached found
    cases right.2.2 l m i q p attached other
    rw [attached] at other
    cases other
    rfl

theorem State.LanesRight.laneTaken_iff {s : State} (right : s.LanesRight) {i : SlotNo} {l : LaneNo} :
    s.laneTaken i .force = some l ↔ ∃ q, (s.lanes.table.get l).state = .attached i q := by
  refine ⟨laneTaken_attached, fun ⟨q, attached⟩ => ?_⟩
  unfold State.laneTaken
  rw [right.laneOf_eq_some_iff.mpr attached]

theorem laneTaken_force_isSome {s : State} {i : SlotNo} : (s.laneTaken i .force).isSome = (s.laneOf i).isSome := by
  unfold State.laneTaken
  cases s.laneOf i <;> rfl

theorem lanesRight_of_keeps {ps : List Part} {s t : State} (right : s.LanesRight) (h : Keeps ps s t) (lanes : .lanes ∉ ps)
    (runs : .runs ∉ ps) : t.LanesRight := by
  have slots : t.plans.slots = s.plans.slots := (h .runs runs).1
  exact right.of_eases (eases_of_same (h .lanes lanes) fun k => by unfold State.headState State.headRun; rw [slots])

/-- The state of a lane once the slots taken have lost theirs (R136). -/
def LaneState.freedFrom (taken : SlotNo → Bool) (u : Nat) : LaneState → LaneState
  | .attached i q => if taken i then .scrubbing u else .attached i q
  | x => x

theorem freedFrom_attached {taken : SlotNo → Bool} {u : Nat} {x : LaneState} {k : SlotNo} {q : Bool} :
    x.freedFrom taken u = .attached k q ↔ x = .attached k q ∧ taken k = false := by
  cases x <;> simp only [LaneState.freedFrom, reduceCtorEq, false_and]
  case attached i p =>
    cases isTaken : taken i with
    | true =>
      rw [if_pos rfl]
      constructor
      · nofun
      · rintro ⟨same, free⟩
        cases same
        rw [isTaken] at free
        cases free
    | false =>
      rw [if_neg Bool.false_ne_true]
      constructor
      · intro same
        cases same
        exact ⟨rfl, isTaken⟩
      · exact fun same => same.1

/-- One slot more loses its lane. -/
theorem freedFrom_more {taken more : SlotNo → Bool} {i : SlotNo} {u : Nat} (fresh : taken i = false)
    (is : ∀ k, more k = if k = i then true else taken k) (x : LaneState) :
    x.freedFrom more u = if ∃ q, x.freedFrom taken u = .attached i q then .scrubbing u else x.freedFrom taken u := by
  simp only [freedFrom_attached, fresh, and_true]
  cases x <;> try exact (if_neg (by simp)).symm
  case attached k q =>
    simp only [LaneState.freedFrom, is]
    by_cases mine : k = i
    · simp [mine]
    · simp [mine]

/-! ## One slot is taken away from provisioning (R93, R123) -/

/-- The plan table once the head run of a slot, if it has one, has finished. -/
def closeHead (head : Option Run) (table : List PlanRecord) : List PlanRecord :=
  match head with
  | some r => closeRun r.plan table
  | none => table

section
variable {i : SlotNo} {s : State}

theorem forceSlot_of_none (head : s.headRun i = none) : s.forceSlot i = s.laneSide i .force := by
  unfold State.forceSlot
  rw [finishHead_of_none _ _ head]
  rfl

/-- The end of the head run has taken the lane already. -/
theorem forceSlot_of_head (lanes : s.LanesRight) {r : Run} (head : s.headRun i = some r) :
    s.forceSlot i = s.finishHead i .forced .force := by
  have gone : (s.finishHead i .forced .force).laneOf i = none := by
    refine laneOf_eq_none_iff.mpr fun l q attached => ?_
    rw [finishHead_state .forced .force head] at attached
    split at attached
    next => cases attached
    next free => exact free (lanes.laneTaken_iff.mpr ⟨q, attached⟩)
  unfold State.forceSlot State.forceRelease
  rw [gone]

theorem forceSlot_parts (lanes : s.LanesRight) : LaneParts s (s.forceSlot i) i (s.laneTaken i .force) := by
  cases head : s.headRun i with
  | none =>
    rw [forceSlot_of_none head]
    exact laneSide_parts i .force s
  | some r =>
    rw [forceSlot_of_head lanes head]
    exact finishHead_parts .forced .force head

theorem forceSlot_slots (lanes : s.LanesRight) (k : SlotNo) : (s.forceSlot i).plans.slots.get k =
    if k = i then { s.plans.slots.get i with
      runs := (s.plans.slots.get i).runs.tail, floor := if (s.headRun i).isSome then 0 else (s.plans.slots.get i).floor }
    else s.plans.slots.get k := by
  cases head : s.headRun i with
  | none =>
    have empty : (s.plans.slots.get i).runs = [] := List.head?_eq_none_iff.mp head
    have same : (s.laneSide i .force).plans.slots = s.plans.slots := (laneSide_keeps i .force s .runs (by decide)).1
    rw [forceSlot_of_none head, same]
    split
    next mine =>
      rw [mine, if_neg (by simp), empty, List.tail_nil, ← empty]
    next => rfl
  | some r =>
    rw [forceSlot_of_head lanes head, finishHead_slot .forced .force head]
    rfl

theorem forceSlot_table (lanes : s.LanesRight) : (s.forceSlot i).plans.table = closeHead (s.headRun i) s.plans.table := by
  cases head : s.headRun i with
  | none =>
    rw [forceSlot_of_none head]
    exact (laneSide_keeps i .force s .runs (by decide)).2
  | some r =>
    rw [forceSlot_of_head lanes head]
    exact finishHead_table .forced .force head

/-- A slot without a head run does not wait for a lane (R132). -/
theorem forceSlot_waitList (lanes : s.LanesRight) :
    (s.forceSlot i).lanes.waitList = s.lanes.waitList.filter (fun e => e.1 ≠ i) := by
  cases head : s.headRun i with
  | none =>
    rw [forceSlot_of_none head, laneSide_waitList]
    refine (List.filter_eq_self.mpr fun e m => by_contra fun not_ => ?_).symm
    have mine : e.1 = i := by simpa using not_
    have waits := (lanes.2.1 e m).2
    rw [mine, State.headState, head] at waits
    cases waits
  | some r =>
    rw [forceSlot_of_head lanes head]
    exact finishHead_waitList .forced .force head

end

/-- A frame handed stays handed. -/
theorem Handed.later {f : TxFrame} {s t u : State} (h : Handed f s t) (before : Orderly s t) (after : Orderly t u) (grows : Grows t u)
    (claim : f.isClaim = false) (need : f.isNeed = false) : Handed f s u := by
  intro within
  obtain ⟨-, most⟩ := before.line.lost within.2
  obtain ⟨later, last⟩ := after.line.lost most
  rcases h within with waits | lost | full
  · exact .inl (Waits.grows waits claim need grows)
  · exact .inr (.inl (lost.trans_le later))
  · exact .inr (.inr (last.antisymm (full ▸ later)))

/-! ## Plans whose runs close one after another (R110) -/

/-- A record that stays keeps its plan's id and source. -/
theorem source_closeRun {id : PlanId} {x : PlanRecord} : ∀ {table : List PlanRecord}, x ∈ closeRun id table →
    ∃ y ∈ table, y.id = x.id ∧ y.source = x.source
  | [], member => absurd member List.not_mem_nil
  | r :: rs, member => by
    have tail : x ∈ rs → ∃ y ∈ r :: rs, y.id = x.id ∧ y.source = x.source := fun m => ⟨x, List.mem_cons_of_mem _ m, rfl, rfl⟩
    rw [closeRun] at member
    split at member
    · split at member
      · exact tail member
      · rcases List.mem_cons.mp member with rfl | later
        · exact ⟨r, List.mem_cons_self, rfl, rfl⟩
        · exact tail later
    · rcases List.mem_cons.mp member with rfl | later
      · exact ⟨x, List.mem_cons_self, rfl, rfl⟩
      · obtain ⟨y, held, same⟩ := source_closeRun later
        exact ⟨y, List.mem_cons_of_mem _ held, same⟩

/-- While a run stands in its queue, its plan is found with the source it had. -/
theorem planOf_of_sources {w t : State} (right : w.RunsRight) (runs : t.RunsRight)
    (source : ∀ x ∈ t.plans.table, ∃ y ∈ w.plans.table, y.id = x.id ∧ y.source = x.source) {i : SlotNo} {r : Run} {x : PlanRecord}
    (queued : r ∈ (t.plans.slots.get i).runs) (found : w.planOf r.plan = some x) :
    ∃ y, t.planOf r.plan = some y ∧ y.source = x.source := by
  obtain ⟨p, record, named, -, -⟩ := (runs.queued i).2 r queued
  cases at_ : t.planOf r.plan with
  | none => exact absurd named (by simpa using List.find?_eq_none.mp at_ p record)
  | some y =>
    obtain ⟨member, id⟩ := planOf_mem at_
    obtain ⟨z, before, same, from_⟩ := source y member
    obtain ⟨first, is⟩ := planOf_mem found
    exact ⟨y, rfl, by rw [← from_, right.planOf before first (by rw [same, id, is])]⟩

/-! ## The slots of the scope -/

/-- The slot is among those judged, and was busy (R93). -/
def State.taken (w : State) (kind : PermitKind) (done : List SlotNo) (i : SlotNo) : Bool :=
  decide (i ∈ done ∧ w.releaseAnswer kind 3 i = .busy)

/-- Once the slots done have been judged: those that were busy have been taken away from provisioning. -/
structure Seized (w : State) (kind : PermitKind) (done : List SlotNo) (t : State) : Prop where
  slots : ∀ k, t.plans.slots.get k = if w.taken kind done k then { w.plans.slots.get k with
      runs := (w.plans.slots.get k).runs.tail, floor := if (w.headRun k).isSome then 0 else (w.plans.slots.get k).floor }
    else w.plans.slots.get k
  table : t.plans.table =
    (done.filter (fun k => decide (w.releaseAnswer kind 3 k = .busy))).foldl (fun T k => closeHead (w.headRun k) T) w.plans.table
  source : ∀ x ∈ t.plans.table, ∃ y ∈ w.plans.table, y.id = x.id ∧ y.source = x.source
  told : ∀ k r x, w.taken kind done k = true → w.headRun k = some r → w.planOf r.plan = some x →
    Handed (.result x.source r.plan (byteOf k.val) .forced r.step) w t
  waitList : t.lanes.waitList = w.lanes.waitList.filter (fun e => !w.taken kind done e.1)
  faults : ∀ l, (t.lanes.table.get l).faults = (w.lanes.table.get l).faults
  states : ∀ l, (t.lanes.table.get l).state =
    (w.lanes.table.get l).state.freedFrom (w.taken kind done) (momentAfter w.clock w.cfg.scrubTime)
  path : ∀ k, w.taken kind done k = true → (w.laneOf k).isSome = true → (t.charge.get k).path = .cable
  follows : ∀ k, w.taken kind done k = false ∨ w.laneOf k = none → (w.charge.get k).Follows (t.charge.get k)
  runs : t.RunsRight
  lanes : t.LanesRight
  orderly : Orderly w t
  keeps : Keeps [.charge, .share, .latch, .requests, .permits, .runs, .lanes, .free, .queue] w t

section
variable {w t u : State} {kind : PermitKind} {done : List SlotNo} {i : SlotNo}

theorem taken_fresh (fresh : i ∉ done) : w.taken kind done i = false := decide_eq_false fun m => fresh m.1

theorem taken_busy (busy : w.releaseAnswer kind 3 i = .busy) (k : SlotNo) :
    w.taken kind (done ++ [i]) k = if k = i then true else w.taken kind done k := by
  unfold State.taken
  by_cases mine : k = i
  · subst mine
    simp [busy]
  · simp [mine]

theorem taken_idle (idle : w.releaseAnswer kind 3 i ≠ .busy) : w.taken kind (done ++ [i]) = w.taken kind done := by
  funext k
  unfold State.taken
  refine decide_eq_decide.mpr ⟨fun m => ?_, fun m => ⟨List.mem_append_left _ m.1, m.2⟩⟩
  rcases List.mem_append.mp m.1 with before | last
  · exact ⟨before, m.2⟩
  · exact absurd (List.mem_singleton.mp last ▸ m.2) idle

theorem Seized.start (runs : w.RunsRight) (lanes : w.LanesRight) : Seized w kind [] w where
  slots _ := rfl
  table := rfl
  source x m := ⟨x, m, rfl, rfl⟩
  told _ _ _ := nofun
  waitList := (List.filter_eq_self.mpr fun _ _ => rfl).symm
  faults _ := rfl
  states l := by cases (w.lanes.table.get l).state <;> rfl
  path _ := nofun
  follows _ _ := .refl _
  runs := runs
  lanes := lanes
  orderly := .refl _
  keeps := .refl _ _

theorem Seized.later (h : Seized w kind done t) (keeps : Keeps [.latch, .requests, .permits, .queue] t u) (orderly : Orderly t u)
    (grows : Grows t u) : Seized w kind done u := by
  obtain ⟨slots, table⟩ := keeps .runs (by decide)
  have lanes : u.lanes = t.lanes := keeps .lanes (by decide)
  have charge : u.charge = t.charge := keeps .charge (by decide)
  exact {
    slots := fun k => by rw [slots, h.slots]
    table := by rw [table, h.table]
    source := by rw [table]; exact h.source
    told := fun k r x isTaken head found => (h.told k r x isTaken head found).later h.orderly orderly grows rfl rfl
    waitList := by rw [lanes, h.waitList]
    faults := fun l => by rw [lanes, h.faults]
    states := fun l => by rw [lanes, h.states]
    path := fun k isTaken held => by rw [charge]; exact h.path k isTaken held
    follows := fun k free => by rw [charge]; exact h.follows k free
    runs := h.runs.of_keeps keeps (by decide)
    lanes := lanesRight_of_keeps h.lanes keeps (by decide) (by decide)
    orderly := h.orderly.trans orderly
    keeps := h.keeps.trans (keeps.mono (by decide)) }

theorem Seized.spare (h : Seized w kind done t) (idle : w.releaseAnswer kind 3 i ≠ .busy) : Seized w kind (done ++ [i]) t := by
  have same := taken_idle (done := done) idle
  exact {
    slots := fun k => by rw [same, h.slots]
    table := by
      rw [h.table, List.filter_append]
      simp [idle]
    source := h.source
    told := by rw [same]; exact h.told
    waitList := by rw [same, h.waitList]
    faults := h.faults
    states := fun l => by rw [same, h.states]
    path := by rw [same]; exact h.path
    follows := by rw [same]; exact h.follows
    runs := h.runs
    lanes := h.lanes
    orderly := h.orderly
    keeps := h.keeps }

theorem Seized.headRun_fresh (h : Seized w kind done t) (fresh : i ∉ done) : t.headRun i = w.headRun i := by
  unfold State.headRun
  rw [h.slots, taken_fresh fresh]
  rfl

theorem Seized.laneOf_fresh (h : Seized w kind done t) (lanes : w.LanesRight) (fresh : i ∉ done) : t.laneOf i = w.laneOf i := by
  refine Option.ext fun x => ?_
  obtain ⟨l, q⟩ := x
  rw [h.lanes.laneOf_eq_some_iff, lanes.laneOf_eq_some_iff, h.states, freedFrom_attached]
  exact and_iff_left (taken_fresh fresh)

theorem Seized.planOf (h : Seized w kind done t) (right : w.RunsRight) {r : Run} {x : PlanRecord}
    (queued : r ∈ (t.plans.slots.get i).runs) (found : w.planOf r.plan = some x) :
    ∃ y, t.planOf r.plan = some y ∧ y.source = x.source := planOf_of_sources right h.runs h.source queued found

theorem source_closeHead {head : Option Run} {table : List PlanRecord} {x : PlanRecord} (member : x ∈ closeHead head table) :
    ∃ y ∈ table, y.id = x.id ∧ y.source = x.source := by
  cases head with
  | none => exact ⟨x, member, rfl, rfl⟩
  | some r => exact source_closeRun member

/-- One busy slot more is taken away. -/
theorem Seized.take (h : Seized w kind done t) (right : w.RunsRight) (lanes : w.LanesRight) (fresh : i ∉ done)
    (busy : w.releaseAnswer kind 3 i = .busy) : Seized w kind (done ++ [i]) (t.forceSlot i) := by
  have more := taken_busy (done := done) busy
  have free := taken_fresh (w := w) (kind := kind) fresh
  have head := h.headRun_fresh fresh
  have lane := h.laneOf_fresh lanes fresh
  have own : t.plans.slots.get i = w.plans.slots.get i := by rw [h.slots, free]; rfl
  have parts := forceSlot_parts (i := i) h.lanes
  exact {
    slots := fun k => by
      rw [forceSlot_slots h.lanes, more]
      split
      next mine => rw [mine, if_pos rfl, head, own]
      next => exact h.slots k
    table := by
      rw [forceSlot_table h.lanes, head, h.table, List.filter_append, List.foldl_append]
      simp [busy]
    source := fun x m => by
      rw [forceSlot_table h.lanes] at m
      obtain ⟨y, before, same, source⟩ := source_closeHead m
      obtain ⟨z, first, id, from_⟩ := h.source y before
      exact ⟨z, first, id.trans same, from_.trans source⟩
    told := fun k r x isTaken hasRun found => by
      rw [more] at isTaken
      split at isTaken
      next mine =>
        subst mine
        have run : t.headRun k = some r := head.trans hasRun
        obtain ⟨y, at_, source⟩ := h.planOf right (List.mem_of_mem_head? run) found
        rw [forceSlot_of_head h.lanes run, ← source]
        exact finishHead_handed .forced .force run at_ h.orderly (.refl _) (.refl _)
      next => exact (h.told k r x isTaken hasRun found).later h.orderly (forceSlot_orderly i t) (forceSlot_grows i t) rfl rfl
    waitList := by
      rw [forceSlot_waitList h.lanes, h.waitList, List.filter_filter]
      refine List.filter_congr fun e _ => ?_
      rw [more]
      by_cases mine : e.1 = i <;> simp [mine]
    faults := fun l => by rw [parts.faults, h.faults]
    states := fun l => by
      have clock : t.clock = w.clock := h.keeps .clock (by decide)
      have cfg : t.cfg = w.cfg := h.keeps .cfg (by decide)
      rw [parts.state, freedFrom_more free more, ← h.states, clock, cfg]
      exact if_congr h.lanes.laneTaken_iff rfl rfl
    path := fun k isTaken held => by
      rw [more] at isTaken
      split at isTaken
      next mine =>
        subst mine
        exact parts.path (by rw [laneTaken_force_isSome, lane, held])
      next other => exact (parts.others k other).path.trans (h.path k isTaken held)
    follows := fun k kept => by
      rw [more] at kept
      split at kept
      next mine =>
        subst mine
        have none_ : w.laneOf k = none := kept.resolve_left nofun
        exact (h.follows k (.inr none_)).trans (parts.kept (laneTaken_force_none_iff.mpr (lane.trans none_)) k)
      next other => exact (h.follows k kept).trans (parts.others k other)
    runs := forceSlot_runsRight i h.runs
    lanes := h.lanes.of_eases (forceSlot_eases i t)
    orderly := h.orderly.trans (forceSlot_orderly i t)
    keeps := h.keeps.trans ((forceSlot_keeps i t).mono (by decide)) }

end

/-- The slots of the scope are judged by a FORCE one after another. -/
def Forced (w : State) (kind : PermitKind) (done : List SlotNo) (t : State) : Prop :=
  Grants w (w.forceAnswer kind) done t ∧ Seized w kind done t

theorem Seized.answer_fresh {w t : State} {kind : PermitKind} {done : List SlotNo} (h : Seized w kind done t) (lanes : w.LanesRight)
    (grants : Grants w (w.forceAnswer kind) done t) {i : SlotNo} (fresh : i ∉ done) :
    t.releaseAnswer kind 3 i = w.releaseAnswer kind 3 i := by
  have custody : t.custody.slots = w.custody.slots := h.keeps .custody (by decide)
  exact topAnswer_congr (h.keeps .monitor (by decide)) (by rw [grants.latch, if_neg fun m => fresh m.1]) (by rw [custody])
    (h.headRun_fresh fresh) (h.laneOf_fresh lanes fresh)

theorem forced_once {p : Permit} {kind : PermitKind} {w : State} (release : kind = .openSlot ∨ kind = .return_) (top : p.level = 3)
    (force : p.force = true) (runs : w.RunsRight) (lanes : w.LanesRight) :
    JudgedOnce p kind (w.forceAnswer kind) (Forced w kind) where
  slot done i t fresh := by
    rintro ⟨grants, seized⟩
    have judged : t.judgeSlot p kind i = t.judgeOpen kind 3 true i := by
      rw [← top, ← force]
      rcases release with rfl | rfl <;> rfl
    rw [judged, judgeOpen_force release, seized.answer_fresh lanes grants fresh]
    by_cases busy : w.releaseAnswer kind 3 i = .busy
    · have granted : w.forceAnswer kind i = .granted := if_pos busy
      rw [if_pos busy]
      have taken := seized.take runs lanes fresh busy
      have same := grants.of_keeps (forceSlot_keeps i t) (by decide) (by decide)
      obtain ⟨moves, asks⟩ := grantRelease_result i (t.forceSlot i)
      exact ⟨granted.symm, same.granted fresh (taken.keeps .clock (by decide)) granted moves asks,
        taken.later ((grantRelease_keeps i _).mono (by decide)) (grantRelease_orderly i _) (grantRelease_grows i _)⟩
    · have answer : w.forceAnswer kind i = w.releaseAnswer kind 3 i := if_neg busy
      rw [if_neg busy, answer, State.released, seized.answer_fresh lanes grants fresh]
      by_cases granted : w.releaseAnswer kind 3 i = .granted
      · rw [if_pos granted]
        obtain ⟨moves, asks⟩ := grantRelease_result i t
        exact ⟨granted.symm, grants.granted fresh (seized.keeps .clock (by decide)) (answer.trans granted) moves asks,
          (seized.spare busy).later ((grantRelease_keeps i t).mono (by decide)) (grantRelease_orderly i t) (grantRelease_grows i t)⟩
      · rw [if_neg granted]
        exact ⟨rfl, grants.refused (by rw [answer]; exact granted), seized.spare busy⟩
  told done a t h := ⟨h.1.of_keeps (addOutcome_keeps a t) (by decide) (by decide),
    h.2.later ((addOutcome_keeps a t).mono (by decide)) (Orderly.of_keeps (addOutcome_keeps a t) (by decide)) (.refl _)⟩

/-- Settles O40: a slot that a FORCE takes loses its run and its lane, and no other slot is touched by that. -/
theorem forceTakesSlotFromProvisioning : Obligations.ForceTakesSlotFromProvisioning := by
  intro s c kind src p running receives len free clear row trusts top force lanes runs
  have carries : frameOf c = some (3, src, p) := by rcases row with ⟨rfl, _⟩ | ⟨rfl, _⟩ <;> rfl
  have release : kind = .openSlot ∨ kind = .return_ := row.imp (·.2.2) (·.2.2)
  have known : permitKindOf (byteAt p 1) = some kind := by
    rcases row with ⟨_, is, rfl⟩ | ⟨_, is, rfl⟩ <;> rw [is] <;> rfl
  have low : kind.minLevel ≤ byteAt p 2 % 4 := by rw [top]; rcases release with rfl | rfl <;> decide
  have acts : kind ≠ .restart := by rcases release with rfl | rfl <;> nofun
  have watched := watched_keeps src s
  have watchedRuns := runs.of_keeps watched (by decide)
  have watchedLanes := lanesRight_of_keeps lanes watched (by decide) (by decide)
  intro w scope granted taken first head
  obtain ⟨v, u, ⟨grants, seized⟩, after, result, handed, verdict, due, waiting, orderly, grows⟩ :=
    judged_scope carries running receives len free clear (checkZero_passed (k := kind) (by rw [top]; exact trusts) known low)
      (forced_once release top (decide_eq_true force) watchedRuns watchedLanes)
      ⟨.start _ _, .start watchedRuns watchedLanes⟩ head
  have grants := grants.of_keeps after (by decide) (by decide)
  have seized := seized.later (after.mono (by decide)) orderly grows
  have clock : w.clock = s.clock := watched .clock (by decide)
  have cfg : w.cfg = s.cfg := watched .cfg (by decide)
  have latch : w.latch = s.latch := watched .latch (by decide)
  have slots : w.plans.slots = s.plans.slots := (watched .runs (by decide)).1
  have table : w.plans.table = s.plans.table := (watched .runs (by decide)).2
  have laneTable : w.lanes = s.lanes := watched .lanes (by decide)
  have heads : ∀ i, w.headRun i = s.headRun i := fun i => by unfold State.headRun; rw [slots]
  have laneOf : ∀ i, w.laneOf i = s.laneOf i := laneOf_of_lanes laneTable
  refine ⟨u, result.trans (congrArg _ (afterPermit_starts acts _ _)), work_idle, handed, verdict, due, waiting, fun i => ?_, ?_,
    fun i => ?_, ?_, fun i r x was head found => ?_, ?_, fun l => ⟨?_, ?_⟩, fun i was => ⟨?_, fun held => ?_⟩,
    fun i kept => ?_, seized.keeps⟩
  · rw [grants.latch, show (s.watched src).clock = s.clock from clock, show (s.watched src).latch = s.latch from latch,
      momentAfter_eq]
    exact if_congr (by simp only [granted, decide_eq_true_eq]; rfl) rfl rfl
  · rw [grants.asked]
    refine congrArg (fun l => _ ++ List.map _ l) (List.filter_congr fun i m => ?_)
    simp only [granted, show i ∈ scope from m, true_and]
    rfl
  · rw [seized.slots, show (s.watched src).plans.slots = s.plans.slots from slots, heads]
    rfl
  · rw [seized.table, show (s.watched src).plans.table = s.plans.table from table]
    refine (congrArg (fun l => List.foldl _ _ l) (List.filter_congr fun i m => ?_)).trans
      (congrArg (fun f => List.foldl f _ _) (funext fun T => funext fun i => ?_))
    · simp only [taken, show i ∈ scope from m, true_and]
      rfl
    · rw [heads]
      rfl
  · have found : w.planOf r.plan = some x := by rw [State.planOf, table]; exact found
    exact seized.told i r x was ((heads i).trans head) found
  · rw [seized.waitList, show (s.watched src).lanes = s.lanes from laneTable]
    rfl
  · rw [seized.faults, show (s.watched src).lanes = s.lanes from laneTable]
  · rw [seized.states, show (s.watched src).lanes = s.lanes from laneTable, show (s.watched src).clock = s.clock from clock,
      show (s.watched src).cfg = s.cfg from cfg, momentAfter_eq]
    cases (s.lanes.table.get l).state <;> rfl
  · refine laneOf_eq_none_iff.mpr fun l q attached => ?_
    rw [seized.states, freedFrom_attached] at attached
    exact Bool.false_ne_true (attached.2.symm.trans was)
  · exact seized.path i was ((laneOf i).symm ▸ held)
  · exact seized.follows i (kept.imp id (laneOf i).trans)

end Sys2Proof.Machine
end

section
/-! PROOF. The frames of class 5: PLAN (R107 to R109), GO (R117), CANCEL (R124), BUILD (R128) and UNPIN (R138). -/

namespace Sys2Proof.Machine

/-! ## Which frames of class 5 are for this station (R107) -/

section
variable {s : State} {src : Source} {p : List Byte}

theorem isProvisioner_eq_false_iff : isProvisioner src = false ↔ src.val ≠ 12 ∧ src.val ≠ 13 := by
  simp [isProvisioner]

theorem takeClass5_ignored (ignores : s.ignoresClass5 src p) (other : byteAt p 0 ≠ 4) :
    (s.watched src).takeClass5 src p = s.watched src := by
  unfold State.takeClass5
  rw [watched_address, if_neg other]
  by_cases strange : isProvisioner src = false
  · rw [if_pos strange]
  · rw [if_neg strange, if_pos (ignores.resolve_left fun h => strange (isProvisioner_eq_false_iff.mpr h))]

theorem takeClass5_heard (hears : ¬ s.ignoresClass5 src p) (other : byteAt p 0 ≠ 4) :
    (s.watched src).takeClass5 src p =
      if byteAt p 0 = 0 then (s.watched src).takePlan src p
      else if byteAt p 0 = 1 then (s.watched src).takeGo p
      else if byteAt p 0 = 2 then (s.watched src).takeCancel p
      else (s.watched src).takeUnpin src p := by
  unfold State.takeClass5
  rw [watched_address, if_neg other, if_neg fun strange => hears (.inl (isProvisioner_eq_false_iff.mp strange)),
    if_neg fun wrong => hears (.inr wrong)]

/-- BUILD is for this station or for all (R128). -/
theorem takeClass5_build (kind : byteAt p 0 = 4) :
    (s.watched src).takeClass5 src p =
      if (src.val = 12 ∨ src.val = 13) ∧ (byteAt p 1 = s.address.val ∨ byteAt p 1 = 15) then (s.watched src).takeBuild p
      else s.watched src := by
  unfold State.takeClass5
  rw [watched_address, if_pos kind]
  by_cases known : src.val = 12 ∨ src.val = 13
  · rw [if_neg fun strange => (not_or.mpr (isProvisioner_eq_false_iff.mp strange)) known]
    exact if_congr (by simp [known]) rfl rfl
  · rw [if_pos (isProvisioner_eq_false_iff.mpr (not_or.mp known)), if_neg fun h => known h.1]

end

/-! ## The steps that a PLAN carries (R108) -/

theorem stepKindOf_above (n : Nat) : stepKindOf (n + 7) = none := rfl

theorem planPhaseOf_above (n : Nat) : planPhaseOf (n + 4) = none := rfl

theorem stepKindOf_eq_none_iff {b : Nat} : stepKindOf b = none ↔ 6 < b := by
  by_cases low : b < 7
  · interval_cases b <;> simp [stepKindOf]
  · obtain ⟨n, rfl⟩ := Nat.exists_eq_add_of_le' (Nat.not_lt.mp low)
    exact iff_of_true (stepKindOf_above n) (by omega)

theorem stepKindOf_eq_mark_iff {b : Nat} : stepKindOf b = some .mark ↔ b = 6 := by
  by_cases low : b < 7
  · interval_cases b <;> simp [stepKindOf]
  · obtain ⟨n, rfl⟩ := Nat.exists_eq_add_of_le' (Nat.not_lt.mp low)
    exact iff_of_false (by rw [stepKindOf_above]; nofun) (by omega)

theorem planPhaseOf_eq_none_iff {b : Nat} : planPhaseOf b = none ↔ 3 < b := by
  by_cases low : b < 4
  · interval_cases b <;> simp [planPhaseOf]
  · obtain ⟨n, rfl⟩ := Nat.exists_eq_add_of_le' (Nat.not_lt.mp low)
    exact iff_of_true (planPhaseOf_above n) (by omega)

theorem planPhaseOf_build_iff {b : Nat} {phase : PlanPhase} (is : planPhaseOf b = some phase) :
    (phase = .initial ∨ phase = .continued) ↔ (b = 1 ∨ b = 2) := by
  by_cases low : b < 4
  · interval_cases b <;> cases is <;> simp
  · obtain ⟨n, rfl⟩ := Nat.exists_eq_add_of_le' (Nat.not_lt.mp low)
    rw [planPhaseOf_above] at is
    cases is

theorem rawSteps_get (p : List Byte) : ∀ (k n j : Nat), j < n →
    (rawSteps p k n)[j]? = some (byteAt p (k + 3 * j), wordAt p (k + 3 * j + 1))
  | k, n + 1, 0, _ => rfl
  | k, n + 1, j + 1, lt => by
    have rest := rawSteps_get p (k + 3) n j (by omega)
    rw [rawSteps, List.getElem?_cons_succ, rest, show k + 3 + 3 * j = k + 3 * (j + 1) by omega]

/-- The steps are known where each kind is. -/
theorem knownSteps_some : ∀ {xs : List (Nat × Nat)}, (∀ x ∈ xs, x.1 ≤ 6) →
    ∃ steps, knownSteps xs = some steps ∧ ∀ (j : Nat) (x : Nat × Nat), xs[j]? = some x →
      ∃ y : PlanStep, steps[j]? = some y ∧ stepKindOf x.1 = some y.kind ∧ y.arg = x.2
  | [], _ => ⟨[], rfl, fun _ _ h => by cases h⟩
  | (kind, arg) :: rest, known => by
    obtain ⟨more, rec, reads⟩ := knownSteps_some fun x m => known x (List.mem_cons_of_mem _ m)
    have low : kind ≤ 6 := known _ List.mem_cons_self
    cases is : stepKindOf kind with
    | none => exact absurd (stepKindOf_eq_none_iff.mp is) (by omega)
    | some k =>
      refine ⟨⟨k, arg⟩ :: more, by rw [knownSteps, is, rec], fun j x at_ => ?_⟩
      cases j with
      | zero => cases at_; exact ⟨_, rfl, is, rfl⟩
      | succ j => exact reads j x at_

theorem knownSteps_none : ∀ {xs : List (Nat × Nat)}, (∃ x ∈ xs, 6 < x.1) → knownSteps xs = none
  | [], h => by obtain ⟨_, m, _⟩ := h; cases m
  | (kind, arg) :: rest, h => by
    obtain ⟨x, m, above⟩ := h
    unfold knownSteps
    rcases List.mem_cons.mp m with rfl | m
    · rw [stepKindOf_eq_none_iff.mpr above]
    · rw [knownSteps_none ⟨x, m, above⟩]
      cases stepKindOf kind <;> rfl

theorem mem_rawSteps {p : List Byte} {k n : Nat} {x : Nat × Nat} (member : x ∈ rawSteps p k n) :
    ∃ j < n, x = (byteAt p (k + 3 * j), wordAt p (k + 3 * j + 1)) := by
  obtain ⟨j, at_⟩ := List.mem_iff_getElem?.mp member
  obtain ⟨lt, -⟩ := List.getElem?_eq_some_iff.mp at_
  rw [rawSteps_length] at lt
  rw [rawSteps_get p k n j lt, Option.some.injEq] at at_
  exact ⟨j, lt, at_.symm⟩

/-- What check 4 of R108 refuses. -/
def BadPlan (p : List Byte) : Prop :=
  byteAt p 11 = 0 ∨ 8 < byteAt p 11 ∨ (∃ k < byteAt p 11, 6 < byteAt p (12 + 3 * k)) ∨ 3 < byteAt p 5 ∨
    1 < byteAt p 6 ∨ ((byteAt p 5 = 1 ∨ byteAt p 5 = 2) ∧ ∃ k < byteAt p 11, byteAt p (12 + 3 * k) = 6)

/-- The steps of a payload, where every kind is known. -/
theorem stepsRead {p : List Byte} (known : ¬ ∃ k < byteAt p 11, 6 < byteAt p (12 + 3 * k)) :
    ∃ steps, knownSteps (rawSteps p 12 (byteAt p 11)) = some steps ∧ steps.length = byteAt p 11 ∧
      (∀ k < byteAt p 11, ∃ x, steps[k]? = some x ∧ stepKindOf (byteAt p (12 + 3 * k)) = some x.kind ∧
        x.arg = wordAt p (13 + 3 * k)) ∧
      (steps.any (fun st => decide (st.kind = .mark)) = true ↔ ∃ k < byteAt p 11, byteAt p (12 + 3 * k) = 6) := by
  obtain ⟨steps, read, reads⟩ := knownSteps_some (xs := rawSteps p 12 (byteAt p 11)) fun x m => by
    obtain ⟨j, lt, rfl⟩ := mem_rawSteps m
    exact Nat.not_lt.mp fun above => known ⟨j, lt, above⟩
  have length : steps.length = byteAt p 11 := (knownSteps_length _ read).trans (rawSteps_length p 12 _)
  have each : ∀ k < byteAt p 11, ∃ x, steps[k]? = some x ∧ stepKindOf (byteAt p (12 + 3 * k)) = some x.kind ∧
      x.arg = wordAt p (13 + 3 * k) := fun k lt => by
    obtain ⟨y, at_, kind, arg⟩ := reads k _ (rawSteps_get p 12 _ k lt)
    exact ⟨y, at_, kind, arg.trans (by rw [show 12 + 3 * k + 1 = 13 + 3 * k by omega])⟩
  refine ⟨steps, read, length, each, ?_⟩
  rw [List.any_eq_true]
  constructor
  · rintro ⟨x, m, mark⟩
    obtain ⟨k, isX⟩ := List.mem_iff_getElem?.mp m
    obtain ⟨lt, -⟩ := List.getElem?_eq_some_iff.mp isX
    rw [length] at lt
    obtain ⟨y, at_, kind, -⟩ := each k lt
    rw [isX, Option.some.injEq] at at_
    rw [← at_, of_decide_eq_true mark] at kind
    exact ⟨k, lt, stepKindOf_eq_mark_iff.mp kind⟩
  · rintro ⟨k, lt, is⟩
    obtain ⟨y, at_, kind, -⟩ := each k lt
    rw [stepKindOf_eq_mark_iff.mpr is, Option.some.injEq] at kind
    exact ⟨y, List.mem_of_getElem? at_, decide_eq_true kind.symm⟩

theorem planFields_bad {src : Source} {p : List Byte} (bad : BadPlan p) : planFields src p = none := by
  unfold planFields
  dsimp only
  by_cases count : byteAt p 11 = 0 ∨ 8 < byteAt p 11
  · exact if_pos count
  rw [if_neg count]
  by_cases strange : ∃ k < byteAt p 11, 6 < byteAt p (12 + 3 * k)
  · obtain ⟨k, lt, above⟩ := strange
    rw [knownSteps_none ⟨_, List.mem_of_getElem? (rawSteps_get p 12 _ k lt), above⟩]
  obtain ⟨steps, read, -, -, marks⟩ := stepsRead strange
  rw [read]
  cases is : planPhaseOf (byteAt p 5) with
  | none => rfl
  | some phase =>
    have low : ¬ 3 < byteAt p 5 := fun above => by rw [planPhaseOf_eq_none_iff.mpr above] at is; cases is
    dsimp only
    by_cases pin : 1 < byteAt p 6
    · exact if_pos pin
    rw [if_neg pin]
    refine if_pos ⟨?_, ?_⟩
    · rw [planPhaseOf_build_iff is]
      rcases bad with h | h | h | h | h | h
      · exact absurd (.inl h) count
      · exact absurd (.inr h) count
      · exact absurd h strange
      · exact absurd h low
      · exact absurd h pin
      · exact h.1
    · rw [marks]
      rcases bad with h | h | h | h | h | h
      · exact absurd (.inl h) count
      · exact absurd (.inr h) count
      · exact absurd h strange
      · exact absurd h low
      · exact absurd h pin
      · exact h.2

theorem planFields_good {p : List Byte} (good : ¬ BadPlan p) (src : Source) :
    ∃ r, planFields src p = some r ∧ r.id = planIdAt p 2 ∧ r.source = src ∧ r.mask = maskSlots (byteAt p 4) ∧
      r.runsOpen = (maskSlots (byteAt p 4)).length ∧ planPhaseOf (byteAt p 5) = some r.phase ∧
      (r.pinned = true ↔ byteAt p 6 = 1) ∧ r.tag = tagAt p 7 ∧ r.steps.length = byteAt p 11 ∧
      ∀ k < byteAt p 11, ∃ x, r.steps[k]? = some x ∧ stepKindOf (byteAt p (12 + 3 * k)) = some x.kind ∧
        x.arg = wordAt p (13 + 3 * k) := by
  simp only [BadPlan, not_or] at good
  obtain ⟨some_, few, known, low, pin, marks⟩ := good
  obtain ⟨steps, read, length, each, marked⟩ := stepsRead known
  cases is : planPhaseOf (byteAt p 5) with
  | none => exact absurd (planPhaseOf_eq_none_iff.mp is) low
  | some phase =>
    unfold planFields
    dsimp only
    rw [if_neg (not_or.mpr ⟨some_, few⟩), read, is]
    dsimp only
    rw [if_neg pin, if_neg fun h => marks ⟨(planPhaseOf_build_iff is).mp h.1, marked.mp h.2⟩]
    exact ⟨_, rfl, rfl, rfl, rfl, rfl, rfl, decide_eq_true_iff, rfl, length, each⟩

/-! ## PLAN (R108, R109) -/

section
variable {s : State} {src : Source} {p : List Byte}

/-- Check 3 of R108. -/
def State.BadSlots (s : State) (p : List Byte) : Prop :=
  maskSlots (byteAt p 4) = [] ∨ ∃ i ∈ maskSlots (byteAt p 4), s.fitted i = false

/-- The four checks of R108 in order. -/
theorem judgePlan_refuses {answer : Answer} (refused : ((s.planOf (planIdAt p 2)).isSome = true ∧ answer = .duplicate) ∨
    (s.planOf (planIdAt p 2) = none ∧ 8 ≤ s.plans.table.length ∧ answer = .tableFull) ∨
    (s.planOf (planIdAt p 2) = none ∧ s.plans.table.length < 8 ∧ s.BadSlots p ∧ answer = .badSlots) ∨
    (s.planOf (planIdAt p 2) = none ∧ s.plans.table.length < 8 ∧ ¬ s.BadSlots p ∧ BadPlan p ∧ answer = .badPlan)) :
    s.judgePlan src p = .inl answer := by
  have badSlots : ((maskSlots (byteAt p 4)).isEmpty = true ∨ (maskSlots (byteAt p 4)).any (fun i => !s.fitted i) = true) ↔
      s.BadSlots p := by
    simp [State.BadSlots]
  unfold State.judgePlan planPlaces
  dsimp only
  rcases refused with ⟨double, rfl⟩ | ⟨new, full, rfl⟩ | ⟨new, place, bad, rfl⟩ | ⟨new, place, fits, bad, rfl⟩
  · exact if_pos double
  · rw [new, if_neg (by simp)]
    exact if_pos full
  · rw [new, if_neg (by simp), if_neg (Nat.not_le.mpr place)]
    exact if_pos (badSlots.mpr bad)
  · rw [new, if_neg (by simp), if_neg (Nat.not_le.mpr place), if_neg (mt badSlots.mp fits), planFields_bad bad]

theorem judgePlan_takes {r : PlanRecord} (new : s.planOf (planIdAt p 2) = none) (place : s.plans.table.length < 8)
    (fits : ¬ s.BadSlots p) (fields : planFields src p = some r) : s.judgePlan src p = .inr r := by
  have badSlots : ((maskSlots (byteAt p 4)).isEmpty = true ∨ (maskSlots (byteAt p 4)).any (fun i => !s.fitted i) = true) ↔
      s.BadSlots p := by
    simp [State.BadSlots]
  unfold State.judgePlan planPlaces
  dsimp only
  rw [new, if_neg (by simp), if_neg (Nat.not_le.mpr place), if_neg (mt badSlots.mp fits), fields]

theorem takePlan_of_refused {answer : Answer} (refused : s.judgePlan src p = .inl answer) :
    s.takePlan src p = s.result src (planIdAt p 2) 255 answer 0 := by
  unfold State.takePlan
  rw [refused]

theorem takePlan_of_taken {r : PlanRecord} (taken : s.judgePlan src p = .inr r) : s.takePlan src p =
    (forSlots r.mask (State.appendRun r.id) (s.planTaken src r)).work
      ((r.mask.filter (fun i => (s.plans.slots.get i).runs.isEmpty)).map Work.start) := by
  unfold State.takePlan
  rw [taken]
  rfl

theorem appendRuns_slot (id : PlanId) : ∀ (is : List SlotNo) (s : State), is.Nodup → ∀ k,
    (forSlots is (State.appendRun id) s).plans.slots.get k = if k ∈ is then { s.plans.slots.get k with
      runs := (s.plans.slots.get k).runs ++ [{ plan := id, state := .queued, step := 1, usingLane := false }] }
    else s.plans.slots.get k
  | [], s, _, k => rfl
  | i :: is, s, once, k => by
    obtain ⟨absent, once⟩ := List.nodup_cons.mp once
    have rest := appendRuns_slot id is (s.appendRun id i) once k
    refine rest.trans ?_
    rw [State.appendRun, setPlan_slot]
    by_cases mine : k = i
    · rw [if_pos mine, mine, if_neg absent, if_pos List.mem_cons_self]
    · rw [if_neg mine]
      exact if_congr (by simp [mine]) rfl rfl

theorem maskSlots_nodup (mask : Nat) : (maskSlots mask).Nodup := (by decide : allSlots.Nodup).filter _

/-- A plan taken: its record, a run in each queue of its mask, and the answer ACCEPTED (R109). -/
theorem planTaken_result {r : PlanRecord} (mask : r.mask = maskSlots (byteAt p 4)) {u : State}
    (is : u = forSlots r.mask (State.appendRun r.id) (s.planTaken src r)) :
    Handed (.result src r.id 255 .accepted 0) s u ∧ u.plans.table = s.plans.table ++ [r] ∧
      (∀ i, u.plans.slots.get i = if i ∈ r.mask then { s.plans.slots.get i with
        runs := (s.plans.slots.get i).runs ++ [{ plan := r.id, state := .queued, step := 1, usingLane := false }] }
        else s.plans.slots.get i) ∧ Keeps [.runs, .queue] s u := by
  have runs : Keeps [.runs] (s.planTaken src r) u := by
    rw [is]
    exact keeps_forSlots _ (fun i t => appendRun_keeps _ i t) _ _
  refine ⟨handed_of (u := { s with plans := { s.plans with table := s.plans.table ++ [r] } })
    (orderly_of_line (.refl _) rfl rfl) (v := s.planTaken src r) rfl (Orderly.of_keeps runs (by decide))
    (Grows.of_keeps runs (by decide)) rfl rfl, ?_, fun i => ?_, (planTaken_keeps src r s).trans (runs.mono (by decide))⟩
  · rw [is, appendRuns_table]
    rfl
  · rw [is, appendRuns_slot _ _ _ (by rw [mask]; exact maskSlots_nodup _), planTaken_slots]

/-- A RESULT that answers a frame. -/
theorem result_handed (s : State) (src : Source) (id : PlanId) (slot : Byte) (answer : Answer) (n : Nat) :
    Handed (.result src id slot answer n) s (s.result src id slot answer n) := handed_of_line rfl

theorem watched_planOf (src : Source) (s : State) (id : PlanId) : (s.watched src).planOf id = s.planOf id := by
  unfold State.planOf
  rw [(watched_keeps src s .runs (by decide)).2]

end

/-- Settles O43: the acceptance checks in their order, and what a plan that passes them takes. -/
theorem planFrameIsJudged : Obligations.PlanFrameIsJudged := by
  intro s src p running receives short formed kind w id slots badSlots badPlan
  have other : byteAt p 0 ≠ 4 := by rw [kind]; decide
  have taken := exec_taken (c := .plan src p) rfl running receives short formed
  have planned : ¬ s.ignoresClass5 src p → exec (.plan src p) s = .next (w.takePlan src p) := fun hears =>
    taken.trans (congrArg _ ((takeClass5_heard hears other).trans (if_pos kind)))
  have watched := watched_keeps src s
  have table : w.plans.table = s.plans.table := (watched .runs (by decide)).2
  have queues : w.plans.slots = s.plans.slots := (watched .runs (by decide)).1
  have found : w.planOf id = s.planOf id := watched_planOf src s id
  have fits : w.BadSlots p ↔ badSlots := by
    unfold State.BadSlots
    simp only [fitted_of_keeps (t := w) watched (by decide)]
    exact Iff.rfl
  refine ⟨fun ignores => taken.trans (congrArg _ (takeClass5_ignored ignores other)), fun hears => ⟨fun answer refused => ?_,
    fun new place good fine => ?_⟩⟩
  · rw [← found, ← table, ← fits] at refused
    rw [planned hears, takePlan_of_refused (judgePlan_refuses refused)]
    exact ⟨_, rfl, result_handed _ _ _ _ _ _, hand_keeps _ _⟩
  · obtain ⟨r, fields, named, source, mask, opened, phase, pinned, tag, length, steps⟩ := planFields_good (p := p) fine src
    have accepted := judgePlan_takes (s := w) (found.trans new) (by rw [table]; exact place) (mt fits.mp good) fields
    have result := (planned hears).trans (congrArg _ (takePlan_of_taken accepted))
    obtain ⟨u, is⟩ : ∃ u, u = forSlots r.mask (State.appendRun r.id) (w.planTaken src r) := ⟨_, rfl⟩
    rw [← is, queues, mask] at result
    obtain ⟨handed, records, runs, keeps⟩ := planTaken_result mask is
    rw [named] at handed runs
    rw [mask] at runs
    refine ⟨u, r, result, handed, by rw [records, table], named, source, mask, opened, phase, pinned, tag, length, steps, fun i => ?_,
      keeps⟩
    rw [runs, queues]

end Sys2Proof.Machine
end

section
/-! PROOF. GO (R117), CANCEL (R124), BUILD (R128) and UNPIN (R138). -/

namespace Sys2Proof.Machine

section
variable {s : State} {src : Source} {p : List Byte} {i : SlotNo} {id : PlanId}

theorem slotOfByte_above {b : Nat} (above : 5 < b) : slotOfByte b = none := dif_neg (by omega)

theorem val_of_slotOfByte {b : Nat} (h : slotOfByte b = some i) : b = i.val := by
  unfold slotOfByte at h
  split at h
  · cases h; rfl
  · cases h

/-! ## GO (R117) -/

/-- The GO names the run that waits for it. -/
def State.goNames (s : State) (p : List Byte) (i : SlotNo) : Prop :=
  byteAt p 4 = i.val ∧ ∃ r u, s.headRun i = some r ∧ r.state = .goWait u ∧ r.plan = planIdAt p 2

theorem takeGo_named (named : s.goNames p i) : s.takeGo p = s.work [.advance i] := by
  obtain ⟨at_, r, u, head, waits, plan⟩ := named
  unfold State.takeGo
  rw [slotOfByte_some at_]
  simp only [head, waits, plan, if_true]

theorem takeGo_unnamed (unnamed : ∀ i, ¬ s.goNames p i) : s.takeGo p = s := by
  unfold State.takeGo
  split
  · rfl
  next i slot =>
    split
    · rfl
    next r head =>
      split
      next u waits => exact if_neg fun plan => unnamed i ⟨val_of_slotOfByte slot, r, u, head, waits, plan⟩
      · rfl

/-! ## CANCEL (R124) -/

theorem cancelSlot_absent (absent : ∀ r ∈ (s.plans.slots.get i).runs, r.plan ≠ id) : s.cancelSlot id i = s := by
  unfold State.cancelSlot
  split
  · rfl
  next r rest queue =>
    rw [queue] at absent
    rw [if_neg (absent r List.mem_cons_self), List.find?_eq_none.mpr fun x m => by
      simpa using absent x (List.mem_cons_of_mem _ m)]

theorem cancelSlot_head {r : Run} (head : s.headRun i = some r) (plan : r.plan = id) :
    s.cancelSlot id i = (s.finishHead i .cancelled .release).work [.start i] := by
  have queue : (s.plans.slots.get i).runs = r :: (s.plans.slots.get i).runs.tail := headRun_queue head
  unfold State.cancelSlot
  rw [queue]
  exact if_pos plan

/-- A queued run is answered and leaves its queue. -/
theorem cancelSlot_queued {r : Run} {x : PlanRecord} (head : s.headRun i = some r) (other : r.plan ≠ id)
    (queued : ∃ y ∈ (s.plans.slots.get i).runs, y.plan = id) (found : s.planOf id = some x) :
    Handed (.result x.source id (byteOf i.val) .cancelled 0) s (s.cancelSlot id i) ∧
      (s.cancelSlot id i).plans.table = tableWithout x s.plans.table ∧
      (s.cancelSlot id i).plans.slots.get i =
        { s.plans.slots.get i with runs := (s.plans.slots.get i).runs.filter (fun y => y.plan ≠ id) } ∧
      OthersSame i s.plans.slots (s.cancelSlot id i).plans.slots ∧ Keeps [.runs, .queue] s (s.cancelSlot id i) := by
  obtain ⟨rest, queue⟩ : ∃ rest, (s.plans.slots.get i).runs = r :: rest := ⟨_, headRun_queue head⟩
  obtain ⟨y, first, plan⟩ : ∃ y, rest.find? (fun y => y.plan = id) = some y ∧ y.plan = id := by
    obtain ⟨y, member, plan⟩ := queued
    rw [queue] at member
    have later := (List.mem_cons.mp member).resolve_left fun same => other (same ▸ plan)
    obtain ⟨z, is⟩ := Option.isSome_iff_exists.mp
      (List.find?_isSome.mpr ⟨y, later, decide_eq_true plan⟩ : (rest.find? (fun y => y.plan = id)).isSome = true)
    exact ⟨z, is, by simpa using List.find?_some is⟩
  have eq : s.cancelSlot id i = (s.reportRun i y .cancelled 0).setPlan i
      { s.plans.slots.get i with runs := (s.plans.slots.get i).runs.filter (fun y => y.plan ≠ id) } := by
    have kept : (s.plans.slots.get i).runs.filter (fun y => y.plan ≠ id) =
        r :: rest.filter (fun y => y.plan ≠ id) := by
      rw [queue, List.filter_cons_of_pos (by simpa using other)]
    rw [kept]
    unfold State.cancelSlot
    rw [queue]
    dsimp only
    rw [if_neg other, first]
  have keeps := setPlan_keeps i { s.plans.slots.get i with runs := (s.plans.slots.get i).runs.filter (fun y => y.plan ≠ id) }
    (s.reportRun i y .cancelled 0)
  have handed := reportRun_handed (i := i) (r := y) .cancelled 0 (plan ▸ found) (Orderly.refl s)
    (Orderly.of_keeps keeps (by decide)) (Grows.of_keeps keeps (by decide))
  rw [eq]
  refine ⟨plan ▸ handed, ?_, ?_, fun k ne => ?_,
    ((reportRun_keeps i y .cancelled 0 s).mono (by decide)).trans (keeps.mono (by decide))⟩
  · show (s.reportRun i y .cancelled 0).plans.table = _
    rw [reportRun_closes, plan]
    exact closeRun_eq_tableWithout found
  · rw [setPlan_slot, if_pos rfl]
  · rw [setPlan_slot, if_neg ne, reportRun_slots]

end

/-! ## UNPIN (R138) -/

section
variable {s : State} {src : Source} {p : List Byte} {i : SlotNo}

theorem holdsLane_iff {r : Run} : r.holdsLane = true ↔ r.usingLane = true ∨ r.state = .laneWait ∨ ∃ u, r.state = .enumWait u := by
  unfold Run.holdsLane
  cases r.state <;> simp

theorem takeUnpin_strange (above : 5 < byteAt p 4) :
    s.takeUnpin src p = s.result src (planIdAt p 2) (p.getD 4 0) .badSlots 0 := by
  unfold State.takeUnpin
  rw [slotOfByte_above above]

theorem takeUnpin_busy (at_ : byteAt p 4 = i.val) (busy : (s.headRun i).any Run.holdsLane = true) :
    s.takeUnpin src p = s.result src (planIdAt p 2) (p.getD 4 0) .busy 0 := by
  unfold State.takeUnpin
  rw [slotOfByte_some at_]
  exact if_pos busy

theorem takeUnpin_free (at_ : byteAt p 4 = i.val) (free : ¬ (s.headRun i).any Run.holdsLane = true) :
    s.takeUnpin src p = (s.laneSide i .force).result src (planIdAt p 2) (p.getD 4 0) .done 0 := by
  unfold State.takeUnpin
  rw [slotOfByte_some at_]
  exact if_neg free

theorem any_holdsLane_iff : (s.headRun i).any Run.holdsLane = true ↔
    ∃ r, s.headRun i = some r ∧ (r.usingLane = true ∨ r.state = .laneWait ∨ ∃ u, r.state = .enumWait u) := by
  simp only [Option.any_eq_true, holdsLane_iff]

/-- The lane of a free slot is taken from it, and the frame is answered. -/
theorem unpinned {f : TxFrame} {lane : Option LaneNo} (is : s.laneTaken i .force = lane) {t : State}
    (eq : t = (s.laneSide i .force).hand f) : LaneParts s t i lane ∧ (lane.isSome = true → Detached s t i) ∧
      t.lanes.waitList = s.lanes.waitList ∧ Keeps [.charge, .share, .lanes, .free, .queue] s t := by
  have keeps := hand_keeps f (s.laneSide i .force)
  rw [← eq] at keeps
  have charge : t.charge = (s.laneSide i .force).charge := keeps .charge (by decide)
  have lanes : t.lanes = (s.laneSide i .force).lanes := keeps .lanes (by decide)
  have parts := laneSide_parts i .force s
  rw [is] at parts
  refine ⟨parts.between rfl rfl rfl (AllFollow.refl s) lanes charge, fun taken => ?_, by rw [lanes, laneSide_waitList],
    ((laneSide_keeps i .force s).mono (by decide)).trans (keeps.mono (by decide))⟩
  have detached := laneSide_detached i .force s (by rw [is]; exact taken)
  unfold Detached
  rw [charge]
  exact detached

end

theorem formed_five {p : List Byte} (len : p.length = 5) (kind : byteAt p 0 = 1 ∨ byteAt p 0 = 2 ∨ byteAt p 0 = 3) :
    malformed 5 p = false := by
  rcases kind with kind | kind | kind <;> simp [malformed, len, kind]

/-- Settles O47: each frame by its kind, and what each does to the runs and lanes that it names. -/
theorem classFiveFramesAct : Obligations.ClassFiveFramesAct := by
  intro s src p running receives w id
  have watched := watched_keeps src s
  have queues : w.plans.slots = s.plans.slots := (watched .runs (by decide)).1
  have heads : ∀ i, w.headRun i = s.headRun i := fun i => by unfold State.headRun; rw [queues]
  have five : ∀ {c : Instr}, frameOf c = some (5, src, p) → p.length = 5 → byteAt p 0 = 1 ∨ byteAt p 0 = 2 ∨ byteAt p 0 = 3 →
      exec c s = .next (w.takeClass5 src p) := fun carries len kind =>
    exec_taken carries running receives (by omega) (formed_five len kind)
  refine ⟨fun len ignores => ⟨fun kind => ?_, fun kind => ?_, fun kind => ?_⟩, fun len kind hears => ?_,
    fun len kind hears => ?_, fun i => ⟨cancelSlot_absent, fun r head plan => cancelSlot_head head plan,
      fun r x head other queued found => cancelSlot_queued head other queued found⟩, fun len kind => ?_, fun len kind hears => ?_⟩
  · rw [five rfl len (.inl kind), takeClass5_ignored ignores (by omega)]
  · rw [five rfl len (.inr (.inl kind)), takeClass5_ignored ignores (by omega)]
  · rw [five rfl len (.inr (.inr kind)), takeClass5_ignored ignores (by omega)]
  · have go : exec (.go src p) s = .next (w.takeGo p) := by
      rw [five rfl len (.inl kind), takeClass5_heard hears (by omega), if_neg (by omega), if_pos kind]
    have same : ∀ i, w.goNames p i ↔ s.goNames p i := fun i => by
      unfold State.goNames
      rw [heads]
    exact ⟨fun i isNamed => by rw [go, takeGo_named ((same i).mpr isNamed)],
      fun unnamed => by rw [go, takeGo_unnamed fun i isNamed => unnamed i ((same i).mp isNamed)]⟩
  · rw [five rfl len (.inr (.inl kind)), takeClass5_heard hears (by omega), if_neg (by omega), if_neg (by omega), if_pos kind,
      State.takeCancel, watched_planOf]
    rfl
  · have taken := exec_taken (c := .build src p) rfl running receives (by omega) (by simp [malformed, len, kind])
    rw [State.consume, takeClass5_build kind] at taken
    have required : w.plans.required = s.plans.required := watched .required (by decide)
    refine ⟨_, taken, ?_, ?_⟩
    · split
      · exact takeBuild_keeps p w
      · exact Keeps.refl _ _
    · split
      · exact ite_not ..
      · exact required
  · have unpin : exec (.unpin src p) s = .next (w.takeUnpin src p) := by
      rw [five rfl len (.inr (.inr kind)), takeClass5_heard hears (by omega), if_neg (by omega), if_neg (by omega),
        if_neg (by omega)]
    have lane : ∀ i, w.laneTaken i .force = s.laneTaken i .force := fun i =>
      laneTaken_of_lanes (fun l => by rw [show w.lanes = s.lanes from watched .lanes (by decide)]) i .force
    have waits : w.lanes.waitList = s.lanes.waitList := congrArg Lanes.waitList (watched .lanes (by decide))
    by_cases strange : 5 < byteAt p 4
    · rw [unpin, takeUnpin_strange strange]
      exact ⟨_, .badSlots, rfl, result_handed _ _ _ _ _ _, fun _ => ⟨rfl, hand_keeps _ _⟩,
        fun i at_ => absurd strange (by omega)⟩
    · obtain ⟨i, at_⟩ : ∃ i : SlotNo, byteAt p 4 = i.val := ⟨⟨byteAt p 4, by omega⟩, rfl⟩
      have only : ∀ k : SlotNo, byteAt p 4 = k.val → k = i := fun k is => Fin.ext (is.symm.trans at_)
      by_cases busy : (w.headRun i).any Run.holdsLane = true
      · rw [unpin, takeUnpin_busy at_ busy]
        refine ⟨_, .busy, rfl, result_handed _ _ _ _ _ _, fun above => absurd above strange, fun k is => ?_⟩
        rw [only k is, ← heads]
        exact ⟨fun _ => ⟨rfl, hand_keeps _ _⟩, fun free => absurd (any_holdsLane_iff.mp busy) free⟩
      · rw [unpin, takeUnpin_free at_ busy]
        obtain ⟨t, eq⟩ : ∃ t, t = (w.laneSide i .force).result src (planIdAt p 2) (p.getD 4 0) .done 0 := ⟨_, rfl⟩
        obtain ⟨parts, detached, waitList, keeps⟩ := unpinned (lane i) eq
        rw [← eq]
        refine ⟨t, .done, rfl, ?_, fun above => absurd above strange, fun k is => ?_⟩
        · rw [eq]
          exact handed_of (laneSide_orderly i .force w) rfl (.refl _) (.refl _) rfl rfl
        · rw [only k is, ← heads]
          exact ⟨fun isBusy => absurd (any_holdsLane_iff.mpr isBusy) busy,
            fun _ => ⟨rfl, parts, detached, waitList.trans waits, keeps⟩⟩

end Sys2Proof.Machine
end

section
/-! PROOF. The Lane Switch: lanes that wake for waiting slots (R133), the enumerated line (R115, R118, R131) and lane faults
(R125, R139). -/

namespace Sys2Proof.Machine

/-! ## Lanes wake for the slots that wait (R133) -/

theorem firstLane_lowest {s : State} {f : LaneState → Bool} {l : LaneNo} (h : s.firstLane f = some l) {m : LaneNo} (below : m < l) :
    f (s.lanes.table.get m).state = false := by
  have found : allLanes.find? (fun l => s.configured l && f (s.lanes.table.get l).state) = some l := h
  have configured : s.configured m = true := by
    have here := (firstLane_state h).1
    simp only [State.configured, decide_eq_true_eq] at here ⊢
    exact lt_trans below here
  obtain ⟨-, as, bs, split, before⟩ := List.find?_eq_some_iff_append.mp found
  have inside : m ∈ as := by
    have sorted : allLanes.Pairwise (· < ·) := by decide
    rw [split] at sorted
    have member : m ∈ as ++ l :: bs := split ▸ mem_allLanes m
    rcases List.mem_append.mp member with inside | later
    · exact inside
    · rcases List.mem_cons.mp later with same | after
      · exact absurd below (same ▸ lt_irrefl l)
      · exact absurd below (lt_asymm ((List.pairwise_cons.mp (List.pairwise_append.mp sorted).2.1).1 m after))
  have not_ := before m inside
  rw [configured, Bool.true_and] at not_
  simpa using not_

theorem isDormant_iff {x : LaneState} : x.isDormant = true ↔ x = .dormant := by cases x <;> simp [LaneState.isDormant]

theorem isDormant_false_iff {x : LaneState} : x.isDormant = false ↔ x ≠ .dormant := by cases x <;> simp [LaneState.isDormant]

/-- Where no lane but one comes to serve, at most one lane more serves. -/
theorem servingLanes_le {s t : State} (cfg : t.cfg = s.cfg) (k : LaneNo)
    (others : ∀ m, m ≠ k → (t.lanes.table.get m).state = (s.lanes.table.get m).state) : t.servingLanes ≤ s.servingLanes + 1 := by
  have shorter := (List.Nodup.subperm ((by decide : allLanes.Nodup).filter (fun l =>
    t.configured l && ((t.lanes.table.get l).state.isReady || (t.lanes.table.get l).state.isWaking)))
    (l₂ := k :: allLanes.filter (fun l =>
      s.configured l && ((s.lanes.table.get l).state.isReady || (s.lanes.table.get l).state.isWaking))) fun m serves => by
      by_cases mine : m = k
      · exact mine ▸ List.mem_cons_self
      · refine List.mem_cons_of_mem _ ?_
        rw [List.mem_filter, others m mine, State.configured, cfg] at serves
        exact List.mem_filter.mpr serves).length_le
  exact shorter

/-- What waking changes, lane by lane, whether or not enough lanes serve then. -/
structure LanesWoken (s t : State) : Prop where
  moved : ∀ l, t.lanes.table.get l = s.lanes.table.get l ∨ ((s.lanes.table.get l).state = .dormant ∧
    (t.lanes.table.get l).state = .waking (momentAfter t.clock 50) ∧ (t.lanes.table.get l).sampledFrom = t.clock)
  lowest : ∀ l m, t.lanes.table.get l ≠ s.lanes.table.get l → m < l → (t.lanes.table.get m).state ≠ .dormant
  few : ∀ l, t.lanes.table.get l ≠ s.lanes.table.get l → l.val < s.cfg.laneCount ∧ t.servingLanes ≤ t.lanes.waitList.length
  waits : t.lanes.waitList = s.lanes.waitList
  keeps : Keeps [.lanes] s t

/-- Enough lanes serve, or none that is configured stays DORMANT. -/
def State.Served (t : State) : Prop :=
  t.servingLanes < t.lanes.waitList.length → ∀ l, l.val < t.cfg.laneCount → (t.lanes.table.get l).state ≠ .dormant

theorem LanesWoken.refl (s : State) : LanesWoken s s :=
  ⟨fun _ => .inl rfl, fun _ _ changed => absurd rfl changed, fun _ changed => absurd rfl changed, rfl, .refl _ s⟩

section
variable {s t : State}

theorem wakeOne_served (served : t.Served) : t.wakeOne = t := by
  unfold State.wakeOne
  split
  next short =>
    split
    next l first =>
      obtain ⟨configured, dormant⟩ := firstLane_state first
      exact absurd (isDormant_iff.mp dormant) (served short l (of_decide_eq_true configured))
    next => rfl
  next => rfl

/-- A comparison finds enough, or wakes the lowest DORMANT lane. -/
theorem wakeOne_cases (t : State) : t.Served ∨ ∃ k, t.firstLane LaneState.isDormant = some k ∧
    t.servingLanes < t.lanes.waitList.length ∧ t.wakeOne = t.moveLane k (.waking (momentAfter t.clock laneWakeMs)) := by
  by_cases short : t.servingLanes < t.lanes.waitList.length
  · cases first : t.firstLane LaneState.isDormant with
    | none => exact .inl fun _ l configured => isDormant_false_iff.mp (firstLane_none first l (decide_eq_true configured))
    | some k => exact .inr ⟨k, rfl, short, by rw [State.wakeOne, if_pos short, first]⟩
  · exact .inl fun is => absurd is short

theorem LanesWoken.wakeOne (h : LanesWoken s t) : LanesWoken s t.wakeOne := by
  rcases wakeOne_cases t with served | ⟨k, first, short, wakes⟩
  · rw [wakeOne_served served]
    exact h
  · obtain ⟨configured, dormant⟩ := firstLane_state first
    have cfg : t.cfg = s.cfg := h.keeps .cfg (by decide)
    have keeps := h.keeps.trans (moveLane_keeps k (.waking (momentAfter t.clock laneWakeMs)) t)
    have lane : ∀ m, m ≠ k → t.wakeOne.lanes.table.get m = t.lanes.table.get m := fun m other => by
      rw [wakes, moveLane_lane, if_neg other]
    have serving : t.wakeOne.servingLanes ≤ t.wakeOne.lanes.waitList.length := by
      have grows := servingLanes_le (s := t) (t := t.wakeOne) (by rw [wakes]; rfl) k fun m other => by rw [lane m other]
      have waits : t.wakeOne.lanes.waitList = t.lanes.waitList := by rw [wakes]; rfl
      rw [waits]
      omega
    have woken : (t.wakeOne.lanes.table.get k).state = .waking (momentAfter t.wakeOne.clock 50) ∧
        (t.wakeOne.lanes.table.get k).sampledFrom = t.wakeOne.clock := by
      rw [wakes, moveLane_lane, if_pos rfl]
      exact ⟨rfl, rfl⟩
    refine ⟨fun l => ?_, fun l m changed below => ?_, fun l changed => ?_, ?_, by rw [wakes]; exact keeps⟩
    · by_cases mine : l = k
      · subst mine
        rcases h.moved l with same | ⟨asleep, wakes, -⟩
        · exact .inr ⟨same ▸ isDormant_iff.mp dormant, woken⟩
        · rw [isDormant_iff, wakes] at dormant
          cases dormant
      · have clock : t.wakeOne.clock = t.clock := by rw [wakes]; rfl
        rw [lane l mine, clock]
        exact h.moved l
    · by_cases mine : l = k
      · subst mine
        rw [lane m (ne_of_lt below)]
        exact isDormant_false_iff.mp (firstLane_lowest first below)
      · rw [lane l mine] at changed
        by_cases same : m = k
        · rw [same, woken.1]
          nofun
        · rw [lane m same]
          exact h.lowest l m changed below
    · refine ⟨?_, serving⟩
      by_cases mine : l = k
      · rw [mine, ← cfg]
        exact of_decide_eq_true configured
      · rw [lane l mine] at changed
        exact (h.few l changed).1
    · rw [wakes]
      exact h.waits

/-- After each comparison one lane more is awake, unless enough serve. -/
theorem wakeOne_progress {n : Nat} (h : t.Served ∨ ∀ l : LaneNo, l.val < n → l.val < t.cfg.laneCount →
      (t.lanes.table.get l).state ≠ .dormant) :
    t.wakeOne.Served ∨ ∀ l : LaneNo, l.val < n + 1 → l.val < t.wakeOne.cfg.laneCount → (t.wakeOne.lanes.table.get l).state ≠ .dormant := by
  rcases wakeOne_cases t with served | ⟨k, first, short, wakes⟩
  · rw [wakeOne_served served]
    exact .inl served
  · rcases h with served | awake
    · rw [wakeOne_served served]
      exact .inl served
    · refine .inr fun l low configured => ?_
      have inside : l.val < t.cfg.laneCount := by rw [wakes] at configured; exact configured
      rw [wakes, moveLane_state]
      split
      · nofun
      next other =>
        rcases Nat.lt_or_ge l.val n with before | here
        · exact awake l before inside
        · have asleep := isDormant_iff.mp (firstLane_state first).2
          have later : ¬ k.val < n := fun before =>
            awake k before (of_decide_eq_true (firstLane_state first).1) asleep
          have differ : l.val ≠ k.val := fun same => other (Fin.ext same)
          exact isDormant_false_iff.mp (firstLane_lowest first (Fin.lt_def.mpr (by omega)))

theorem wakeLanes_served (s : State) : s.wakeLanes.Served := by
  have none_ : s.Served ∨ ∀ l : LaneNo, l.val < 0 → l.val < s.cfg.laneCount → (s.lanes.table.get l).state ≠ .dormant :=
    .inr fun _ low => absurd low (Nat.not_lt_zero _)
  rcases wakeOne_progress (wakeOne_progress (wakeOne_progress (wakeOne_progress none_))) with served | awake
  · exact served
  · exact fun _ l configured => awake l l.isLt configured

theorem wakeLanes_woken (s : State) : LanesWoken s s.wakeLanes := (LanesWoken.refl s).wakeOne.wakeOne.wakeOne.wakeOne

/-- Lanes wake after a change of the lanes excepted, which brings none of them to WAKING. -/
theorem wakeLanes_after {except : LaneNo → Prop} (same : ∀ l, ¬ except l → t.lanes.table.get l = s.lanes.table.get l)
    (cfg : t.cfg = s.cfg) (calm : ∀ l, except l → (t.lanes.table.get l).state.isWaking = false) :
    LanesWake s t.wakeLanes except := by
  have woken := wakeLanes_woken t
  have changed : ∀ l, t.wakeLanes.lanes.table.get l ≠ s.lanes.table.get l →
      (t.wakeLanes.lanes.table.get l).state = .waking (momentAfter t.wakeLanes.clock 50) →
      t.wakeLanes.lanes.table.get l ≠ t.lanes.table.get l := fun l differs wakes kept => by
    by_cases excepted : except l
    · have still := calm l excepted
      rw [← kept, wakes] at still
      cases still
    · exact differs (kept.trans (same l excepted))
  refine ⟨fun l kept => ?_, fun short l configured => ?_, fun l m differs wakes below => woken.lowest l m (changed l differs wakes) below,
    fun l differs wakes => ?_⟩
  · rw [← same l kept]
    exact woken.moved l
  · have kept : t.wakeLanes.cfg = s.cfg := Eq.trans (woken.keeps .cfg (by decide)) cfg
    exact wakeLanes_served t short l (by rw [kept]; exact configured)
  · obtain ⟨configured, few⟩ := woken.few l (changed l differs wakes)
    exact ⟨cfg ▸ configured, few⟩

end

end Sys2Proof.Machine
end

section
/-! PROOF. The sideband lines of a lane: the enumerated line (R115, R118, R131) and lane faults (R125, R139). -/

namespace Sys2Proof.Machine

section
variable {s : State} {l : LaneNo}

/-! ## The enumerated line (R115, R118, R131) -/

/-- The filtered enumerated line of the lane has taken a level. -/
def State.lineTaken (s : State) (l : LaneNo) (level : Level) : State :=
  s.setLane l { s.lanes.table.get l with enumIn := filteredOf level, enumPin := levelActive level, enumRun := {} }

theorem lineTaken_lane (level : Level) : (s.lineTaken l level).lanes.table.get l =
    { s.lanes.table.get l with enumIn := filteredOf level, enumPin := levelActive level, enumRun := {} } := get_setAt_same ..

theorem lineTaken_others (level : Level) : OthersSame l s.lanes.table (s.lineTaken l level).lanes.table :=
  fun _ other => get_setAt_ne _ _ _ _ other

theorem lineTaken_keeps (level : Level) : Keeps [.lanes] s (s.lineTaken l level) := setLane_keeps _ _ _

/-- The change is taken where the lane is sampled and the level is new. -/
theorem exec_enumerated {level : Level} (running : s.mode = .running)
    (taken : s.laneSampled l = true ∧ (s.lanes.table.get l).enumIn ≠ filteredOf level) :
    exec (.enumeratedChange l level) s = .next (s.changeEnumerated l level) :=
  show execEnumeratedChange l level s = _ from whileRunning_next running (if_pos taken)

theorem exec_enumerated_idle {level : Level} (running : s.mode = .running)
    (idle : ¬ (s.laneSampled l = true ∧ (s.lanes.table.get l).enumIn ≠ filteredOf level)) :
    exec (.enumeratedChange l level) s = .next s :=
  show execEnumeratedChange l level s = _ from whileRunning_next running (if_neg idle)

theorem changeEnumerated_asserted {i : SlotNo} {q : Bool} (attached : (s.lanes.table.get l).state = .attached i q) :
    s.changeEnumerated l .asserted = (s.lineTaken l .asserted).enumAsserted i := by
  unfold State.changeEnumerated
  dsimp only
  split <;> simp_all [State.lineTaken]

theorem changeEnumerated_released {i : SlotNo} {q : Bool} (attached : (s.lanes.table.get l).state = .attached i q) :
    s.changeEnumerated l .released = (s.lineTaken l .released).enumReleased i := by
  unfold State.changeEnumerated
  dsimp only
  split <;> simp_all [State.lineTaken]

theorem changeEnumerated_free {level : Level} (free : ∀ i q, (s.lanes.table.get l).state ≠ .attached i q) :
    s.changeEnumerated l level = s.lineTaken l level := by
  unfold State.changeEnumerated
  dsimp only
  split
  next attached => exact absurd attached (free _ _)
  next attached => exact absurd attached (free _ _)
  next => rfl

/-- The head run of the slot takes another state, the lane its level. -/
theorem lineTaken_setRun {level : Level} {i : SlotNo} {c : Instr} {t : State} (result : exec c s = .next t) (y : Run)
    (is : t = (s.lineTaken l level).setRun i y) : ∃ t, exec c s = .next t ∧
      t.plans.slots.get i = { s.plans.slots.get i with runs := y :: (s.plans.slots.get i).runs.tail } ∧
      OthersSame i s.plans.slots t.plans.slots ∧ t.lanes = (s.lineTaken l level).lanes ∧ Keeps [.lanes, .runs] s t := by
  subst is
  exact ⟨_, result, setRun_own i y _, setRun_othersSame i y _, rfl,
    ((lineTaken_keeps level).mono (by decide)).trans ((setRun_keeps i y _).mono (by decide))⟩

end

/-- Settles O51: what a change of the line does follows the state of the head run of the slot that holds the lane. -/
theorem enumeratedLineMovesRun : Obligations.EnumeratedLineMovesRun := by
  intro l level s running lane sampled
  refine ⟨fun idle => exec_enumerated_idle running fun taken => idle.elim (fun h => h (laneSampled_iff.mp taken.1)) taken.2,
    fun is new => ⟨s.lineTaken l level, by rw [lineTaken_lane], by rw [lineTaken_lane], by rw [lineTaken_lane],
      by rw [lineTaken_lane], lineTaken_others level, rfl, lineTaken_keeps level, fun free => ?_,
      fun i q attached => ⟨fun none_ => ?_, fun r head isLevel => ?_, fun r head isLevel => ?_⟩⟩⟩
  · rw [exec_enumerated running ⟨laneSampled_iff.mpr is, new⟩, changeEnumerated_free free]
  · rw [exec_enumerated running ⟨laneSampled_iff.mpr is, new⟩]
    have gone : (s.lineTaken l level).headRun i = none := none_
    cases level with
    | asserted => rw [changeEnumerated_asserted attached, State.enumAsserted, gone]
    | released => rw [changeEnumerated_released attached, State.enumReleased, gone]
  · subst isLevel
    have same : (s.lineTaken l .asserted).headRun i = some r := head
    have result := exec_enumerated running ⟨laneSampled_iff.mpr is, new⟩
    rw [changeEnumerated_asserted attached] at result
    cases state : r.state with
    | enumWait u => exact result.trans (by simp only [State.enumAsserted, same, state])
    | reenumWait held u =>
      cases held with
      | goWait left => exact lineTaken_setRun result _ (by simp only [State.enumAsserted, same, state]; rfl)
      | pause left => exact lineTaken_setRun result _ (by simp only [State.enumAsserted, same, state]; rfl)
    | _ => exact result.trans (by simp only [State.enumAsserted, same, state])
  · subst isLevel
    have same : (s.lineTaken l .released).headRun i = some r := head
    have result := exec_enumerated running ⟨laneSampled_iff.mpr is, new⟩
    rw [changeEnumerated_released attached] at result
    cases using_ : r.usingLane with
    | false =>
      have kept : (s.lineTaken l .released).enumReleased i = s.lineTaken l .released := by
        simp only [State.enumReleased, same, using_, if_neg Bool.false_ne_true]
      exact result.trans (congrArg _ kept)
    | true =>
      cases state : r.state with
      | goWait u =>
        exact lineTaken_setRun result _ (by simp only [State.enumReleased, same, using_, state, if_true, momentAfter_eq]; rfl)
      | pause u =>
        exact lineTaken_setRun result _ (by simp only [State.enumReleased, same, using_, state, if_true, momentAfter_eq]; rfl)
      | _ => exact result.trans (by simp only [State.enumReleased, same, using_, state, if_true])

/-! ## Lane faults (R125, R139) -/

section
variable {s : State} {l : LaneNo}

/-- The lane has faulted, or retired at its third fault. -/
def State.broke (s : State) (l : LaneNo) : State :=
  s.setLane l ({ s.lanes.table.get l with
    faults := (s.lanes.table.get l).faults + 1, faultIn := .asserted, faultPin := true, faultRun := {} }.move s.clock
      (if 3 ≤ (s.lanes.table.get l).faults + 1 then .retired else .faulted none))

/-- The notice of a fault. -/
def Lane.faultKind (x : Lane) : NoticeKind := if 3 ≤ x.faults + 1 then .laneRetired else .laneFault

/-- A lane out of service, with its fault counted. -/
structure Broken (s t : State) (l : LaneNo) : Prop where
  faults : (t.lanes.table.get l).faults = (s.lanes.table.get l).faults + 1
  state : (t.lanes.table.get l).state = if 3 ≤ (s.lanes.table.get l).faults + 1 then .retired else .faulted none
  faultIn : (t.lanes.table.get l).faultIn = if 3 ≤ (s.lanes.table.get l).faults + 1 then .unknown else .asserted
  waits : t.lanes.waitList = s.lanes.waitList

theorem broke_broken (s : State) (l : LaneNo) : Broken s (s.broke l) l := by
  have lane : (s.broke l).lanes.table.get l = _ := get_setAt_same _ _ _
  by_cases third : 3 ≤ (s.lanes.table.get l).faults + 1
  · rw [if_pos third] at lane
    exact ⟨by rw [lane]; rfl, by rw [lane, if_pos third]; rfl, by rw [lane, if_pos third]; rfl, rfl⟩
  · rw [if_neg third] at lane
    exact ⟨by rw [lane]; rfl, by rw [lane, if_neg third]; rfl, by rw [lane, if_neg third]; rfl, rfl⟩

theorem Broken.of_lanes {t u : State} (h : Broken s t l) (lanes : u.lanes = t.lanes) : Broken s u l :=
  ⟨by rw [lanes, h.faults], by rw [lanes, h.state], by rw [lanes, h.faultIn], by rw [lanes, h.waits]⟩

theorem broke_others (s : State) (l : LaneNo) : OthersSame l s.lanes.table (s.broke l).lanes.table :=
  fun _ other => get_setAt_ne _ _ _ _ other

theorem broke_keeps (s : State) (l : LaneNo) : Keeps [.lanes] s (s.broke l) := setLane_keeps _ _ _

theorem faultLane_eq (s : State) (l : LaneNo) : s.faultLane l =
    (let t := ((s.lanes.table.get l).state.slot.elim (s.broke l) fun i => ((s.broke l).laneDetached i).planLaneFault i).notice
      (s.lanes.table.get l).faultKind (s.lanes.table.get l).state.slot l.val
    if (s.lanes.table.get l).state.isReady || (s.lanes.table.get l).state.isWaking then t.wakeLanes else t) := by
  unfold State.faultLane State.broke Lane.faultKind faultLimit
  simp only [decide_eq_true_eq]
  cases (s.lanes.table.get l).state.slot <;> rfl

theorem exec_laneFault (running : s.mode = .running)
    (taken : s.laneSampled l = true ∧ (s.lanes.table.get l).faultIn ≠ .asserted)
    (serves : ∀ x, (s.lanes.table.get l).state ≠ .faulted x) : exec (.laneFault l) s = .next (s.faultLane l) := by
  refine show execLaneFault l s = _ from whileRunning_next running ?_
  dsimp only
  rw [if_pos taken]
  split
  next x state => exact absurd state (serves x)
  next => rfl

theorem broke_noticed (i : Option SlotNo) {t : State} (keeps : Keeps [.lanes] ((s.broke l).notice (s.lanes.table.get l).faultKind i l.val) t) :
    NoticeHanded s t (s.lanes.table.get l).faultKind i l.val :=
  noticeHanded_of (Orderly.of_keeps (broke_keeps s l) (by decide)) rfl (Orderly.of_keeps keeps (by decide))
    (Grows.of_keeps keeps (by decide))

theorem broke_notice_lanes (k : NoticeKind) (i : Option SlotNo) (d : Nat) (t : State) : (t.notice k i d).lanes = t.lanes :=
  notice_keeps k i d t .lanes (by decide)

/-- A lane out of service does not wake. -/
theorem Broken.asleep {t : State} (h : Broken s t l) :
    (t.lanes.table.get l).state.isWaking = false ∧ (t.lanes.table.get l).state ≠ .dormant := by
  rw [h.state]
  split
  · exact ⟨rfl, nofun⟩
  · exact ⟨rfl, nofun⟩

/-- A serving lane that faults may wake another. -/
theorem faultLane_serving (serving : ((s.lanes.table.get l).state.isReady || (s.lanes.table.get l).state.isWaking) = true)
    (free : (s.lanes.table.get l).state.slot = none) : ∃ t, s.faultLane l = t ∧ Broken s t l ∧ LanesWake s t (fun m => m = l) ∧
      NoticeHanded s t (s.lanes.table.get l).faultKind none l.val ∧ Keeps [.lanes, .queue] s t := by
  have eq := faultLane_eq s l
  rw [free] at eq
  dsimp only at eq
  rw [if_pos serving] at eq
  change s.faultLane l = ((s.broke l).notice (s.lanes.table.get l).faultKind none l.val).wakeLanes at eq
  have noticed := broke_noticed (s := s) (l := l) none (wakeLanes_keeps _)
  have keeps := notice_keeps (s.lanes.table.get l).faultKind none l.val (s.broke l)
  have broken := (broke_broken s l).of_lanes (broke_notice_lanes (s.lanes.table.get l).faultKind none l.val (s.broke l))
  have others : OthersSame l s.lanes.table ((s.broke l).notice (s.lanes.table.get l).faultKind none l.val).lanes.table :=
    (broke_notice_lanes (s.lanes.table.get l).faultKind none l.val (s.broke l)).symm ▸ broke_others s l
  generalize (s.broke l).notice (s.lanes.table.get l).faultKind none l.val = v at eq noticed keeps broken others
  have woken := wakeLanes_woken v
  have cfg : v.cfg = s.cfg := keeps .cfg (by decide)
  have still : v.wakeLanes.lanes.table.get l = v.lanes.table.get l :=
    (woken.moved l).resolve_right fun h => broken.asleep.2 h.1
  refine ⟨_, eq, ⟨by rw [still, broken.faults], by rw [still, broken.state], by rw [still, broken.faultIn],
    by rw [woken.waits, broken.waits]⟩, wakeLanes_after (fun m other => others m other) cfg fun m is => ?_, noticed, ?_⟩
  · rw [is]
    exact broken.asleep.1
  · exact ((broke_keeps s l).mono (by decide)).trans ((keeps.mono (by decide)).trans ((wakeLanes_keeps v).mono (by decide)))

end

/-- Settles O52: what a fault takes with it follows the state that the lane was in. -/
theorem laneFaultTakesLaneOutOfService : Obligations.LaneFaultTakesLaneOutOfService := by
  intro l s running lane sampled third kind broken
  have known : ∀ {t}, Broken s t l → broken t := fun h => ⟨h.faults, h.state, h.faultIn, h.waits⟩
  refine ⟨fun idle => ?_, fun is new => ⟨fun x state => ?_, fun x state => ?_, fun serving => ?_, fun i q attached => ?_⟩⟩
  · refine show execLaneFault l s = _ from whileRunning_next running (if_neg fun taken => ?_)
    exact idle.elim (fun h => h (laneSampled_iff.mp taken.1)) taken.2
  · have result : exec (.laneFault l) s = .next (s.setLane l
        { lane with state := .faulted none, faultIn := .asserted, faultPin := true, faultRun := {} }) := by
      refine show execLaneFault l s = _ from whileRunning_next running ?_
      dsimp only
      rw [if_pos ⟨laneSampled_iff.mpr is, new⟩]
      split
      next => rfl
      next other => exact absurd state (other x)
    have own : ∀ y, (s.setLane l y).lanes.table.get l = y := fun y => get_setAt_same _ _ _
    exact ⟨_, result, by rw [own], by rw [own], by rw [own], fun m other => get_setAt_ne _ _ _ _ other, rfl,
      setLane_keeps _ _ _⟩
  · have result := exec_laneFault running ⟨laneSampled_iff.mpr is, new⟩ (fun y => by rw [show _ = _ from state]; nofun)
    rw [faultLane_eq, show (s.lanes.table.get l).state = .scrubbing x from state] at result
    exact ⟨_, result, known ((broke_broken s l).of_lanes (broke_notice_lanes _ _ _ _)),
      (broke_notice_lanes _ none _ (s.broke l)) ▸ broke_others s l, broke_noticed none (.refl _ _),
      ((broke_keeps s l).mono (by decide)).trans ((notice_keeps _ _ _ _).mono (by decide))⟩
  · have serves : ((s.lanes.table.get l).state.isReady || (s.lanes.table.get l).state.isWaking) = true ∧
        (s.lanes.table.get l).state.slot = none ∧ ∀ y, (s.lanes.table.get l).state ≠ .faulted y := by
      rcases serving with ⟨x, state⟩ | ⟨x, state⟩ <;> rw [show (s.lanes.table.get l).state = _ from state] <;>
        exact ⟨rfl, rfl, nofun⟩
    obtain ⟨t, eq, broken_, wakes, noticed, keeps⟩ := faultLane_serving serves.1 serves.2.1
    exact ⟨t, (exec_laneFault running ⟨laneSampled_iff.mpr is, new⟩ serves.2.2).trans (congrArg _ eq), known broken_, wakes, noticed,
      keeps⟩
  · have state : (s.lanes.table.get l).state = .attached i q := attached
    have result := exec_laneFault running ⟨laneSampled_iff.mpr is, new⟩ (fun y => by rw [state]; nofun)
    rw [faultLane_eq, state] at result
    have lanes := laneDetached_lanes i (s.broke l)
    have keeps := ((broke_keeps s l).mono (by decide)).trans ((laneDetached_keeps i (s.broke l)).mono (by decide) :
      Keeps [.lanes, .charge, .share, .free, .queue] _ _)
    refine ⟨(s.broke l).laneDetached i, known ((broke_broken s l).of_lanes lanes), lanes ▸ broke_others s l, laneDetached_path i _,
      laneDetached_detached i (s.broke l), fun k other => laneDetached_others i (s.broke l) k other, keeps, ?_⟩
    have head : ((s.broke l).laneDetached i).headRun i = s.headRun i := by
      unfold State.headRun
      rw [(keeps .runs (by decide)).1]
    have cfg : ((s.broke l).laneDetached i).cfg = s.cfg := keeps .cfg (by decide)
    have orderly : Orderly s ((s.broke l).laneDetached i) :=
      (Orderly.of_keeps (broke_keeps s l) (by decide)).trans (laneDetached_orderly i _)
    change exec (.laneFault l) s = .next ((((s.broke l).laneDetached i).planLaneFault i).notice (s.lanes.table.get l).faultKind
      (some i) l.val) at result
    generalize (s.broke l).laneDetached i = u at result head cfg orderly
    refine ⟨fun free => ?_, fun r hasRun uses => ?_⟩
    · have kept : u.planLaneFault i = u := if_neg fun any => by
        obtain ⟨r, hasRun, uses⟩ := (Option.any_eq_true _ _).mp any
        rw [free r (head ▸ hasRun)] at uses
        cases uses
      rw [kept] at result
      exact ⟨_, result, noticeHanded_of orderly cfg (.refl _) (.refl _), notice_keeps _ _ _ _⟩
    · have ends : u.planLaneFault i = (u.finishHead i .laneFault .keep).work [.start i] :=
        if_pos ((Option.any_eq_true _ _).mpr ⟨r, head.trans hasRun, uses⟩)
      rw [ends] at result
      exact result

end Sys2Proof.Machine
end

section
/-! PROOF. The timers of the lanes and the clearing fault line (R131, R133 to R136, R140). -/

namespace Sys2Proof.Machine

/-! ## Lane by lane -/

/-- A change that is made to each lane in turn, each by its own rule. -/
theorem foldl_lanes {f : State → LaneNo → State} {g : Lane → Lane} {P : State → Prop}
    (own : ∀ t l, P t → (f t l).lanes.table.get l = g (t.lanes.table.get l))
    (others : ∀ t l m, m ≠ l → (f t l).lanes.table.get m = t.lanes.table.get m) (kept : ∀ t l, P t → P (f t l)) :
    ∀ (ls : List LaneNo), ls.Nodup → ∀ t, P t → ∀ m,
      (ls.foldl f t).lanes.table.get m = if m ∈ ls then g (t.lanes.table.get m) else t.lanes.table.get m
  | [], _, _, _, _ => rfl
  | l :: ls, once, t, holds, m => by
    obtain ⟨absent, once⟩ := List.nodup_cons.mp once
    rw [List.foldl_cons, foldl_lanes own others kept ls once _ (kept t l holds) m]
    by_cases mine : m = l
    · rw [mine, if_neg absent, if_pos List.mem_cons_self, own t l holds]
    · rw [others t l m mine]
      exact if_congr (by simp [mine]) rfl rfl

theorem foldl_kept {α : Type} {f : State → LaneNo → State} (part : State → α) (kept : ∀ t l, part (f t l) = part t) :
    ∀ (ls : List LaneNo) (t : State), part (ls.foldl f t) = part t
  | [], _ => rfl
  | l :: ls, t => (foldl_kept part kept ls (f t l)).trans (kept t l)

theorem moveLane_own (l : LaneNo) (x : LaneState) (s : State) :
    (s.moveLane l x).lanes.table.get l = (s.lanes.table.get l).move s.clock x := by rw [moveLane_lane, if_pos rfl]

theorem moveLane_others (l : LaneNo) (x : LaneState) (s : State) : OthersSame l s.lanes.table (s.moveLane l x).lanes.table :=
  fun m other => by rw [moveLane_lane, if_neg other]

theorem endWake_lane (u : Nat) (s : State) (m : LaneNo) : (s.endWake u).lanes.table.get m =
    if (s.lanes.table.get m).state = .waking u then { s.lanes.table.get m with state := .ready none }
    else s.lanes.table.get m := by
  refine (foldl_lanes (g := fun x => if x.state = .waking u then { x with state := .ready none } else x) (P := fun _ => True)
    (fun t l _ => ?_) (fun t l m other => ?_) (fun _ _ => id) allLanes (by decide) s trivial m).trans (if_pos (mem_allLanes m))
  · split
    next v waking =>
      by_cases due : v = u
      · rw [if_pos due, if_pos (by rw [waking, due]), moveLane_own]
        rfl
      · rw [if_neg due, if_neg fun is => due (by rw [waking] at is; cases is; rfl)]
    next awake => rw [if_neg fun is => awake u is]
  · split
    · split
      · exact moveLane_others _ _ _ m other
      · rfl
    · rfl

theorem endWake_waitList (u : Nat) (s : State) : (s.endWake u).lanes.waitList = s.lanes.waitList := by
  refine foldl_kept (fun t => t.lanes.waitList) (fun t l => ?_) allLanes s
  split
  · split <;> rfl
  · rfl

/-! ## Waking -/

theorem wakeOne_faults (s : State) (l : LaneNo) : (s.wakeOne.lanes.table.get l).faults = (s.lanes.table.get l).faults := by
  rcases wakeOne_cases s with served | ⟨k, _, _, wakes⟩
  · rw [wakeOne_served served]
  · rw [wakes, moveLane_faults]

theorem wakeLanes_faults (s : State) (l : LaneNo) : (s.wakeLanes.lanes.table.get l).faults = (s.lanes.table.get l).faults := by
  unfold State.wakeLanes
  rw [wakeOne_faults, wakeOne_faults, wakeOne_faults, wakeOne_faults]

/-- Where no slot waits, no lane wakes. -/
theorem wakeLanes_unasked {s : State} (none_ : s.lanes.waitList = []) : s.wakeLanes = s := by
  have served : s.Served := fun short => absurd short (by rw [none_]; exact Nat.not_lt_zero _)
  unfold State.wakeLanes
  rw [wakeOne_served served, wakeOne_served served, wakeOne_served served, wakeOne_served served]

/-! ## The clearing fault line (R131, R140) -/

/-- A FAULTED lane starts its fault clear timer. -/
def LaneState.cleared (u : Nat) : LaneState → LaneState
  | .faulted _ => .faulted (some u)
  | x => x

section
variable {s : State} {l : LaneNo}

theorem exec_faultLineReleased (running : s.mode = .running)
    (taken : s.laneSampled l = true ∧ (s.lanes.table.get l).faultIn ≠ .released) :
    exec (.faultLineReleased l) s = .next (s.setLane l { s.lanes.table.get l with
      faultIn := .released, faultPin := false, faultRun := {}
      state := (s.lanes.table.get l).state.cleared (momentAfter s.clock faultClearMs) }) := by
  refine show execFaultLineReleased l s = _ from whileRunning_next running ?_
  dsimp only
  rw [if_pos taken]
  split
  next x state => rw [state]; rfl
  next other =>
    have same : (s.lanes.table.get l).state.cleared (momentAfter s.clock faultClearMs) = (s.lanes.table.get l).state := by
      cases state : (s.lanes.table.get l).state with
      | faulted x => exact absurd state (other x)
      | _ => rfl
    rw [same]

end

/-- Settles O53: each timer and the clearing line move their lane, and then the lanes are judged for grants. -/
theorem laneTimersServeSlots : Obligations.LaneTimersServeSlots := by
  refine ⟨fun l s running => ?_, fun l s u running => ⟨fun wakes => ?_, fun scrubs => ?_, fun idles => ?_⟩⟩
  · intro lane sampled
    refine ⟨fun idle => ?_, fun is new => ?_, fun u state => ?_⟩
    · refine show execFaultLineReleased l s = _ from whileRunning_next running (if_neg fun taken => ?_)
      exact idle.elim (fun h => h (laneSampled_iff.mp taken.1)) taken.2
    · have own : ∀ y, (s.setLane l y).lanes.table.get l = y := fun y => get_setAt_same _ _ _
      refine ⟨_, exec_faultLineReleased running ⟨laneSampled_iff.mpr is, new⟩, by rw [own], ?_, by rw [own], by rw [own],
        fun m other => get_setAt_ne _ _ _ _ other, rfl, setLane_keeps _ _ _⟩
      rw [own, momentAfter_eq]
      show (s.lanes.table.get l).state.cleared _ = _
      cases (s.lanes.table.get l).state <;> rfl
    · have result : exec (.faultClearExpiry l) s =
          .next ((s.reach u).moveLane l (.scrubbing (momentAfter (s.reach u).clock s.cfg.scrubTime))) :=
        show execFaultClearExpiry l s = _ from whileRunning_next running (by
          rw [show (s.lanes.table.get l).state = .faulted (some u) from state])
      refine ⟨_, result, rfl, ?_, moveLane_others l _ (s.reach u), rfl,
        ((reach_keeps u s).mono (by decide)).trans ((moveLane_keeps l _ (s.reach u)).mono (by decide))⟩
      rw [moveLane_own, momentAfter_eq]
      show (s.lanes.table.get l).move _ _ = _
      have live : (s.lanes.table.get l).state ≠ .retired := by rw [show (s.lanes.table.get l).state = _ from state]; nofun
      simp only [Lane.move, if_neg live]
      rfl
  · have result : exec .wakeTimerExpiry s = .next (((s.reach u).endWake u).work [.grant]) :=
      show execWakeTimerExpiry s = _ from whileRunning_next running (by rw [wakes])
    refine ⟨_, result, ?_, fun m => endWake_lane u (s.reach u) m, endWake_waitList u (s.reach u),
      ((reach_keeps u s).mono (by decide)).trans ((endWake_keeps u (s.reach u)).mono (by decide))⟩
    exact endWake_keeps u (s.reach u) .clock (by decide)
  · have result : exec (.scrubTimerExpiry l) s = .next (((s.reach u).moveLane l (.ready none)).work [.grant]) :=
      show execScrubTimerExpiry l s = _ from whileRunning_next running (by rw [scrubs])
    exact ⟨_, result, rfl, moveLane_own l (.ready none) (s.reach u), moveLane_others l _ (s.reach u), rfl,
      ((reach_keeps u s).mono (by decide)).trans ((moveLane_keeps l _ (s.reach u)).mono (by decide))⟩
  · have result : exec (.idleTimerExpiry l) s = .next ((s.reach u).moveLane l .dormant).wakeLanes :=
      show execIdleTimerExpiry l s = _ from whileRunning_next running (by rw [idles])
    have own := moveLane_own l .dormant (s.reach u)
    have others := moveLane_others l .dormant (s.reach u)
    have keeps : Keeps [.clock, .lanes] s ((s.reach u).moveLane l .dormant) :=
      ((reach_keeps u s).mono (by decide)).trans ((moveLane_keeps l _ (s.reach u)).mono (by decide))
    have clock : ((s.reach u).moveLane l .dormant).clock = max s.clock u := rfl
    have waits : ((s.reach u).moveLane l .dormant).lanes.waitList = s.lanes.waitList := rfl
    generalize (s.reach u).moveLane l .dormant = v at result own others keeps clock waits
    have woken := wakeLanes_woken v
    refine ⟨_, result, Eq.trans (woken.keeps .clock (by decide)) clock, fun none_ => ?_, ?_,
      wakeLanes_after others (keeps .cfg (by decide)) fun m is => ?_, woken.waits.trans waits,
      keeps.trans (woken.keeps.mono (by decide))⟩
    · rw [wakeLanes_unasked (waits.trans none_), own]
      exact ⟨rfl, rfl, rfl, others⟩
    · rw [wakeLanes_faults, own]
      rfl
    · rw [is, own]
      rfl

end Sys2Proof.Machine
end

section
/-! PROOF. The grant of a lane (R20, R30, R32, R114, R115, R131 to R135). -/

namespace Sys2Proof.Machine

theorem firstLane_eq {s : State} {f : LaneState → Bool} {l : LaneNo} (configured : l.val < s.cfg.laneCount)
    (is : f (s.lanes.table.get l).state = true) (lowest : ∀ m, m < l → f (s.lanes.table.get m).state = false) :
    s.firstLane f = some l := by
  cases first : s.firstLane f with
  | none =>
    have not_ := firstLane_none first l (decide_eq_true configured)
    rw [is] at not_
    cases not_
  | some m =>
    rcases lt_trichotomy m l with below | same | above
    · have found := (firstLane_state first).2
      rw [lowest m below] at found
      cases found
    · rw [same]
    · have not_ := firstLane_lowest first above
      rw [is] at not_
      cases not_

theorem grantStep_granted {s : State} {i : SlotNo} {pinned : Bool} {rest : List (SlotNo × Bool)} {l : LaneNo}
    (waits : s.lanes.waitList = (i, pinned) :: rest) (first : s.firstLane LaneState.isReady = some l) :
    s.grantStep = (((s.grantLane l i pinned rest).takeGrant i).1, ((s.grantLane l i pinned rest).takeGrant i).2 ++ [.grant]) := by
  unfold State.grantStep
  rw [waits, first]
  rfl

theorem grantStep_idle {s : State} (idle : s.lanes.waitList = [] ∨ s.firstLane LaneState.isReady = none) :
    s.grantStep = (s.wakeLanes.startIdle, []) := by
  unfold State.grantStep
  rcases idle with none_ | none_
  · rw [none_]
  · rw [none_]
    cases s.lanes.waitList <;> rfl

/-! ## The lane and the charge record of the slot -/

section
variable (s : State) (l : LaneNo) (i : SlotNo) (pinned : Bool) (rest : List (SlotNo × Bool))

theorem grantLane_state (m : LaneNo) : (s.grantLane l i pinned rest).lanes.table.get m =
    if m = l then { s.lanes.table.get l with state := .attached i pinned } else s.lanes.table.get m := by
  rw [grantLane_lanes, moveLane_lane]
  rfl

theorem grantLane_laneOf (free : s.laneOf i = none) : (s.grantLane l i pinned rest).laneOf i = some (l, pinned) := by
  have own := grantLane_state s l i pinned rest
  cases found : (s.grantLane l i pinned rest).laneOf i with
  | none =>
    refine absurd ?_ (laneOf_eq_none_iff.mp found l pinned)
    rw [own, if_pos rfl]
  | some x =>
    obtain ⟨m, q⟩ := x
    have attached := laneOf_attached found
    rw [own] at attached
    split at attached
    next mine => cases attached; rw [mine]
    next => exact absurd attached (laneOf_eq_none_iff.mp free m q)

theorem grantLane_charge : ∃ d, (s.grantLane l i pinned rest).charge.get i =
    { (s.charge.get i).onLane s.cfg s.clock (s.monitor.get i) .lane .five with demand := d } :=
  laneEvent_record i .lane .five (({ s with lanes := { s.lanes with waitList := rest } } : State).moveLane l (.attached i pinned))

theorem grantLane_restarts : (s.charge.get i).Restarts s.cfg s.clock (s.monitor.get i).amps .lane .five
    ((s.grantLane l i pinned rest).charge.get i) := by
  obtain ⟨d, record⟩ := grantLane_charge s l i pinned rest
  rw [record]
  exact onLane_restarts _ _ _ _ _ _ d

theorem grantLane_path : ((s.grantLane l i pinned rest).charge.get i).path = .lane := by
  obtain ⟨d, record⟩ := grantLane_charge s l i pinned rest
  rw [record]
  exact onLane_path _ _ _ _ _ _

theorem grantLane_others : OthersFollow i s (s.grantLane l i pinned rest) := fun k other =>
  (chargeEvent_follows i _ (({ s with lanes := { s.lanes with waitList := rest } } : State).moveLane l (.attached i pinned))).2 k other

end

/-- A slot that is neither OFF nor FAULTED restarts on its lane (R32). -/
theorem restarts_dark {cfg : Record} {now amps : Nat} {v : Volts} {c d : ChargeSlot} (restarts : c.Restarts cfg now amps .lane v d)
    (sound : ∀ k x, c.phase ≠ .faulted k x) (on : c.phase ≠ .off) :
    (∃ back held, d.phase = .restart back (now + cfg.restartHold * 250) held) ∧ d.outputOn = false ∧ d.setPoint = 0 ∧ d.working = v := by
  unfold ChargeSlot.Restarts at restarts
  dsimp only at restarts
  cases phase : c.phase with
  | off => exact absurd phase on
  | faulted k x => exact absurd phase (sound k x)
  | detect x => rw [phase] at restarts; rw [restarts]; exact ⟨⟨_, _, rfl⟩, rfl, rfl, rfl⟩
  | charging ph => rw [phase] at restarts; rw [restarts]; exact ⟨⟨_, _, rfl⟩, rfl, rfl, rfl⟩
  | deferred back => rw [phase] at restarts; rw [restarts]; exact ⟨⟨_, _, rfl⟩, rfl, rfl, rfl⟩
  | restart back x held => rw [phase] at restarts; rw [restarts]; exact ⟨⟨_, _, rfl⟩, rfl, rfl, rfl⟩

/-! ## The head run of the slot (R114, R115) -/

section
variable (i : SlotNo) (s : State)

theorem takeGrant_keeps_runs : Keeps [.runs] s (s.takeGrant i).1 := by
  unfold State.takeGrant
  split
  · exact .refl _ _
  · split
    · exact setRun_keeps _ _ _
    · exact .refl _ _

theorem takeGrant_others : OthersSame i s.plans.slots (s.takeGrant i).1.plans.slots := by
  unfold State.takeGrant
  split
  · exact fun _ _ => rfl
  · split
    · exact setRun_othersSame _ _ _
    · exact fun _ _ => rfl

variable {i s}

theorem takeGrant_waiting {r : Run} {p : PlanRecord} {x : PlanStep} (head : s.headRun i = some r) (waits : r.state = .laneWait)
    (found : s.planOf r.plan = some p) (step : p.steps[r.step - 1]? = some x) :
    s.takeGrant i = (s.setRun i { r with
      usingLane := true
      state := .enumWait (s.clock + (if x.arg = 0 then s.cfg.enumTimeout * 1000 else x.arg * 100) * 250) },
      if s.enumerated i then [.advance i] else []) := by
  unfold State.takeGrant
  rw [head]
  dsimp only
  rw [if_pos waits, momentAfter_eq, State.enumTimeoutMs, found]
  dsimp only
  rw [step]

end

/-! ## Idle timers (R135) -/

theorem startIdle_waiting {s : State} (waits : s.lanes.waitList ≠ []) : s.startIdle = s :=
  if_neg fun empty => waits (List.isEmpty_iff.mp empty)

theorem startIdle_lane {s : State} (none_ : s.lanes.waitList = []) (l : LaneNo) : s.startIdle.lanes.table.get l =
    if (s.lanes.table.get l).state = .ready none then
      { s.lanes.table.get l with state := .ready (some (s.clock + s.cfg.laneIdle * 1000 * 250)) }
    else s.lanes.table.get l := by
  unfold State.startIdle
  rw [if_pos (List.isEmpty_iff.mpr none_)]
  refine (foldl_lanes (g := fun x => if x.state = .ready none then
      { x with state := .ready (some (s.clock + s.cfg.laneIdle * 1000 * 250)) } else x)
    (P := fun t => t.clock = s.clock ∧ t.cfg = s.cfg) (fun t l same => ?_) (fun t l m other => ?_) (fun t l same => ?_)
    allLanes (by decide) s ⟨rfl, rfl⟩ l).trans (if_pos (mem_allLanes l))
  · split
    next ready =>
      rw [if_pos ready, moveLane_own, momentAfter_eq, same.1, same.2]
      rfl
    next other => rw [if_neg other]
  · split
    · exact moveLane_others _ _ _ m other
    · rfl
  · split
    · exact same
    · exact same

/-- Settles O54: the lowest READY lane goes to the slot at the front of the wait list; with none to give, lanes wake or idle. -/
theorem grantGoesToOldestSlot : Obligations.GrantGoesToOldestSlot := by
  intro s t more
  refine ⟨fun i pinned rest l waits free configured ready lowest => ?_, fun idle => ?_⟩
  · have granted := grantStep_granted waits (firstLane_eq configured ready lowest)
    have isT : t = ((s.grantLane l i pinned rest).takeGrant i).1 := by
      show s.grantStep.1 = _
      rw [granted]
    have isMore : more = ((s.grantLane l i pinned rest).takeGrant i).2 ++ [.grant] := by
      show s.grantStep.2 = _
      rw [granted]
    have own := grantLane_state s l i pinned rest
    have laneOf := grantLane_laneOf s l i pinned rest free
    have restarts := grantLane_restarts s l i pinned rest
    have path := grantLane_path s l i pinned rest
    have follow := grantLane_others s l i pinned rest
    have before := grantLane_keeps s l i pinned rest
    have list : (s.grantLane l i pinned rest).lanes.waitList = rest := by rw [grantLane_lanes]; rfl
    generalize s.grantLane l i pinned rest = v at isT isMore own laneOf restarts path follow before list
    have after := takeGrant_keeps_runs i v
    have same := takeGrant_others i v
    rw [← isT] at after same
    have lanes : t.lanes = v.lanes := after .lanes (by decide)
    have charge : t.charge = v.charge := after .charge (by decide)
    have slots : v.plans.slots = s.plans.slots := (before .runs (by decide)).1
    refine ⟨by rw [lanes, own, if_pos rfl], (laneOf_of_lanes lanes i).trans laneOf, fun m other => by rw [lanes, own, if_neg other],
      by rw [lanes, list], by rw [charge, path], by rw [charge]; exact restarts, fun sound on => ?_,
      fun r p x head asks found step => ?_, fun k other => by rw [charge]; exact follow k other, by rw [← slots]; exact same,
      (before.mono (by decide)).trans (after.mono (by decide))⟩
    · rw [charge]
      exact restarts_dark restarts sound on
    · have head : v.headRun i = some r := by unfold State.headRun; rw [slots]; exact head
      have found : v.planOf r.plan = some p := by unfold State.planOf; rw [(before .runs (by decide)).2]; exact found
      have clock : v.clock = s.clock := before .clock (by decide)
      have cfg : v.cfg = s.cfg := before .cfg (by decide)
      have enumerated : v.enumerated i = decide ((s.lanes.table.get l).enumIn = .asserted) := by
        unfold State.enumerated
        rw [laneOf]
        dsimp only
        rw [own, if_pos rfl]
      have taken := takeGrant_waiting head asks found step
      rw [clock, cfg, enumerated] at taken
      rw [taken] at isT isMore
      refine ⟨by rw [isT, setRun_own, slots], ?_⟩
      rw [isMore]
      simp only [decide_eq_true_eq]
  · have none_ : s.lanes.waitList = [] ∨ s.firstLane LaneState.isReady = none := idle.imp id fun unready => by
      cases first : s.firstLane LaneState.isReady with
      | none => rfl
      | some l =>
        obtain ⟨configured, ready⟩ := firstLane_state first
        rw [unready l (of_decide_eq_true configured)] at ready
        cases ready
    have idles := grantStep_idle none_
    have isT : t = s.wakeLanes.startIdle := by
      show s.grantStep.1 = _
      rw [idles]
    have isMore : more = [] := by
      show s.grantStep.2 = _
      rw [idles]
    refine ⟨isMore, ?_, ?_, fun waits => ?_, fun unasked l => ?_⟩
    · rw [isT, (startIdle_rests _).1, (wakeLanes_rests s).1]
    · rw [isT]
      exact (wakeLanes_keeps s).trans (startIdle_keeps _)
    · rw [isT, startIdle_waiting (by rw [(wakeLanes_rests s).1]; exact waits)]
      exact wakeLanes_after (fun _ _ => rfl) rfl fun _ => nofun
    · rw [isT, wakeLanes_unasked unasked, startIdle_lane unasked]

end Sys2Proof.Machine
end

section
namespace Sys2Proof.Machine

/-! ## Attempts and their ends (R83, R143, R145, R149 to R151) -/

variable {s t u : State} {e : TxEntry} {front : Bool}

/-! ### The claim record of a CLAIM that left the queue undecided -/

/-- The record of a CLAIM frame that left the queue undecided has ended, and no frame has been handed since (R83). -/
def State.claimClosed (front : Bool) (f : TxFrame) (s : State) : State :=
  match f with
  | .claim tag op slot _ _ => s.endOwnClaim front tag op slot
  | _ => s

theorem claimGone_closed (front : Bool) (f : TxFrame) (s : State) :
    s.claimGone front f = if f.isClaim then (s.claimClosed front f).handClaims else s.claimClosed front f := by
  cases f <;> simp [State.claimGone, State.claimClosed, TxFrame.isClaim]

theorem endOwnClaim_line (tag : Nat) (op : LatchOp) (i : SlotNo) : (s.endOwnClaim front tag op i).line = s.line := by
  unfold State.endOwnClaim; split <;> rfl

theorem claimClosed_line (f : TxFrame) : (s.claimClosed front f).line = s.line := by
  unfold State.claimClosed
  split
  · exact endOwnClaim_line _ _ _
  · rfl

theorem claimClosed_keeps (f : TxFrame) : Keeps [.requests] s (s.claimClosed front f) := by
  unfold State.claimClosed
  split
  · exact endOwnClaim_keeps _ _ _ _ _
  · exact Keeps.refl _ _

/-- What becomes of the claims where an entry leaves the queue undecided: only the record of its own CLAIM ends, and a request
that the record still has becomes unclaimed, at the front after a line drop (R83). -/
def ClaimEnded (front : Bool) (e : TxEntry) (s v : State) : Prop :=
  v.claims.tagCounter = s.claims.tagCounter ∧ v.claims.retryHold = s.claims.retryHold ∧
  (e.frame.isClaim = false → v.claims = s.claims) ∧
  ∀ tag op slot amount duration, e.frame = .claim tag op slot amount duration →
    v.claims.own = s.claims.own.filter (fun c => !OwnClaim.matches tag op slot c) ∧
    v.claims.requests =
      if (s.claims.own.find? (OwnClaim.matches tag op slot)).any (fun c => c.hasRequest) then
        if front then requestToFront slot s.claims.requests else unclaimRequest slot s.claims.requests
      else s.claims.requests

theorem endOwnClaim_own (tag : Nat) (op : LatchOp) (i : SlotNo) :
    (s.endOwnClaim front tag op i).claims.own = s.claims.own.filter (fun c => !OwnClaim.matches tag op i c) := by
  unfold State.endOwnClaim
  split
  next none_ =>
    refine (List.filter_eq_self.mpr fun c held => ?_).symm
    rw [Bool.eq_false_iff.mpr (List.find?_eq_none.mp none_ c held)]; rfl
  next => rfl

theorem endOwnClaim_requests (tag : Nat) (op : LatchOp) (i : SlotNo) :
    (s.endOwnClaim front tag op i).claims.requests =
      if (s.claims.own.find? (OwnClaim.matches tag op i)).any (fun c => c.hasRequest) then
        if front then requestToFront i s.claims.requests else unclaimRequest i s.claims.requests
      else s.claims.requests := by
  unfold State.endOwnClaim
  split <;> rename_i found <;> simp [found]

theorem endOwnClaim_kept (tag : Nat) (op : LatchOp) (i : SlotNo) :
    (s.endOwnClaim front tag op i).claims.tagCounter = s.claims.tagCounter ∧
      (s.endOwnClaim front tag op i).claims.retryHold = s.claims.retryHold := by
  unfold State.endOwnClaim
  split <;> exact ⟨rfl, rfl⟩

theorem claimClosed_other (other : e.frame.isClaim = false) : s.claimClosed front e.frame = s := by
  unfold State.claimClosed
  split
  next is => rw [is] at other; cases other
  next => rfl

theorem claimClosed_claim {tag amount duration : Nat} {op : LatchOp} {slot : SlotNo}
    (is : e.frame = .claim tag op slot amount duration) :
    s.claimClosed front e.frame = s.endOwnClaim front tag op slot := by
  rw [is]; rfl

theorem claimClosed_kept (f : TxFrame) :
    (s.claimClosed front f).claims.tagCounter = s.claims.tagCounter ∧
      (s.claimClosed front f).claims.retryHold = s.claims.retryHold := by
  unfold State.claimClosed
  split
  · exact endOwnClaim_kept _ _ _
  · exact ⟨rfl, rfl⟩

theorem claimClosed_ended (same : u.claims = s.claims) : ClaimEnded front e s (u.claimClosed front e.frame) := by
  rw [ClaimEnded, ← same]
  obtain ⟨tags, hold⟩ := claimClosed_kept (s := u) (front := front) e.frame
  refine ⟨tags, hold, fun other => by rw [claimClosed_other other], fun tag op slot amount duration is => ?_⟩
  rw [claimClosed_claim is]
  exact ⟨endOwnClaim_own tag op slot, endOwnClaim_requests tag op slot⟩

/-! ### The three ways in which an attempt is given up -/

/-- The line as it stands once an attempt has ended: its queue, its phase and its count of lost frames. -/
def State.lineAt (queue : List TxEntry) (phase : LinePhase) (lost : Nat) (s : State) : State :=
  s.setLine { s.line with queue := queue, phase := phase, lost := lost }

theorem lineAt_keeps (queue : List TxEntry) (phase : LinePhase) (lost : Nat) (s : State) :
    Keeps [.queue, .linePhase] s (s.lineAt queue phase lost) := by
  intro p hp; cases p <;> simp_all [same, State.lineAt]

/-- An entry that leaves the queue undecided: its claim record ends, and CLAIM frames are handed again (R83). -/
theorem givenUp (front : Bool) (e : TxEntry) (phase : LinePhase) (lost : Nat) (s : State) :
    ∃ v, (s.lineAt (removeEntry e s.line.queue) phase lost).claimGone front e.frame =
        (if e.frame.isClaim then v.handClaims else v) ∧
      (v.line.queue = removeEntry e s.line.queue ∧ ClaimEnded front e s v) ∧ v.line.phase = phase ∧ v.line.lost = lost ∧
      Keeps [.queue, .linePhase, .requests] s v := by
  obtain ⟨u, is⟩ : ∃ u, u = s.lineAt (removeEntry e s.line.queue) phase lost := ⟨_, rfl⟩
  have line : (u.claimClosed front e.frame).line = u.line := claimClosed_line e.frame
  have set : u.line = { s.line with queue := removeEntry e s.line.queue, phase := phase, lost := lost } := by rw [is]; rfl
  have kept : Keeps [.queue, .linePhase] s u := by rw [is]; exact lineAt_keeps _ _ _ s
  rw [← is]
  refine ⟨u.claimClosed front e.frame, claimGone_closed front e.frame u, ⟨?_, claimClosed_ended (by rw [is]; rfl)⟩, ?_, ?_,
    (kept.mono (by decide)).trans ((claimClosed_keeps e.frame).mono (by decide))⟩ <;> rw [line, set]

theorem arbitrationLost_eq {x : Nat} {read : List Bool} (run : s.mode = .running) (sends : s.line.phase = .sending x read)
    (sent : sentEntry s.line.queue = some e) :
    exec .arbitrationLost s = .next ((s.setLine { s.line with phase := .receiving read }).backToWaiting e) := by
  show execArbitrationLost s = _
  refine whileRunning_next run ?_
  simp only [sends, sent]

theorem bitError_eq {x : Nat} {read : List Bool} (run : s.mode = .running) (sends : s.line.phase = .sending x read)
    (sent : sentEntry s.line.queue = some e) : exec .bitError s = .next (s.breakAttempt e) := by
  show execBitError s = _
  refine whileRunning_next run ?_
  simp only [sends, sent]

theorem backToWaiting_waits (stays : e.withdraw = false) :
    s.backToWaiting e = s.setLine { s.line with queue := replaceEntry { e with sending := false } s.line.queue } := by
  rw [State.backToWaiting, stays]; rfl

theorem backToWaiting_leaves (goes : e.withdraw = true) :
    s.backToWaiting e = (s.setLine { s.line with queue := removeEntry e s.line.queue }).claimGone false e.frame := by
  rw [State.backToWaiting, goes]; rfl

theorem breakAttempt_again (few : e.failed < 7) :
    s.breakAttempt e = (s.setLine { s.line with phase := .breaking 6 }).backToWaiting { e with failed := e.failed + 1 } := by
  have early : ¬ failedLimit ≤ e.failed + 1 := by simp only [failedLimit]; omega
  exact if_neg early

theorem breakAttempt_drops (many : 7 ≤ e.failed) :
    s.breakAttempt e = (s.lineAt (removeEntry e s.line.queue) (.breaking 6)
      (min (s.line.lost + 1) 65535)).claimGone true e.frame := by
  have late : failedLimit ≤ e.failed + 1 := by simp only [failedLimit]; omega
  exact if_pos late

/-! ### The start of an attempt -/

theorem freshFrame_eq (f : TxFrame) : s.freshFrame f = if f.isNeed then .need s.share.state s.share.own else f := by
  cases f <;> rfl

/-- The first waiting entry of a queue in order stands before every other that waits (R148, R150). -/
theorem firstWaiting_least {q : List TxEntry}
    (order : q.Pairwise fun x y => x.frame.cls < y.frame.cls ∨ (x.frame.cls = y.frame.cls ∧ x.order < y.order))
    (first : q.find? (fun x => !x.sending) = some e) :
    ∀ x ∈ q, x.sending = false → e.frame.cls < x.frame.cls ∨ (e.frame.cls = x.frame.cls ∧ e.order ≤ x.order) := by
  obtain ⟨_, before, after, split, sendingBefore⟩ := List.find?_eq_some_iff_append.mp first
  intro x held waits
  rw [split] at held order
  rcases List.mem_append.mp held with early | late
  · have := sendingBefore x early
    rw [waits] at this; cases this
  · rcases List.mem_cons.mp late with rfl | later
    · exact .inr ⟨rfl, le_refl _⟩
    · have less := List.rel_of_pairwise_cons (List.pairwise_append.mp order).2.1 later
      exact less.imp_right fun ⟨cls, before⟩ => ⟨cls, before.le⟩

theorem transmitAttempt_eq (run : s.mode = .running) (idle : s.line.phase = .idle)
    (first : s.line.queue.find? (fun x => !x.sending) = some e) : exec .transmitAttempt s = .next (s.attempt e) := by
  show execTransmitAttempt s = _
  refine whileRunning_next run ?_
  have waits : firstWaiting s.line.queue = some e := first
  simp only [idle, waits]

theorem transmitAttempt_none (run : s.mode = .running)
    (no : s.line.phase ≠ .idle ∨ ∀ x ∈ s.line.queue, x.sending = true) : exec .transmitAttempt s = .next s := by
  show execTransmitAttempt s = _
  refine whileRunning_next run ?_
  split
  next e idle waits =>
    have waiting : (!e.sending) = true := List.find?_some (p := fun x : TxEntry => !x.sending) waits
    rcases no with busy | allSent
    · exact absurd idle busy
    · rw [allSent e (List.mem_of_find?_eq_some waits)] at waiting
      cases waiting
  next => rfl

/-! ### Idle again -/

theorem lineIdle_eq (run : s.mode = .running) (quiet : ∀ u read, s.line.phase ≠ .sending u read) :
    exec .lineIdle s = .next s.becomeIdle := by
  show execLineIdle s = _
  refine whileRunning_next run ?_
  split
  next u read sends => exact absurd sends (quiet u read)
  next => rfl

theorem lineIdle_sending {x : Nat} {read : List Bool} (run : s.mode = .running) (sends : s.line.phase = .sending x read) :
    exec .lineIdle s = .next s := by
  show execLineIdle s = _
  refine whileRunning_next run ?_
  rw [sends]

theorem becomeIdle_clock : s.becomeIdle.clock = s.clock + s.line.phase.untilIdle :=
  Nat.max_eq_right (Nat.le_add_right _ _)

theorem frameAbandoned_eq (run : s.mode = .running) :
    exec .frameAbandoned s = .next (if s.line.phase.receives then s.abandonFrame else s) := whileRunning_next run rfl

theorem crcError_eq (run : s.mode = .running) :
    exec .crcError s = .next (if s.line.phase.receives then s.setLine s.line.countError.frameEnds else s) :=
  whileRunning_next run rfl

/-! ### The events of the line, one by one -/

/-- Settles O57: each event has its own equation, and the three ways in which an entry leaves the queue undecided are one. -/
theorem attemptsRunByTheLine : Obligations.AttemptsRunByTheLine := by
  intro s run
  refine ⟨fun e idle first => ⟨s.attempt e, _, transmitAttempt_eq run idle first, freshFrame_eq e.frame, rfl, rfl,
      fun right => firstWaiting_least right.1 first, rfl, attempt_keeps e s⟩,
    transmitAttempt_none run, fun e x read sends sent => ?_, fun quiet => ?_,
    fun x read sends => lineIdle_sending run sends, fun receives => ?_, fun closed => ?_⟩
  · rw [arbitrationLost_eq run sends sent, bitError_eq run sends sent]
    refine ⟨fun stays => ⟨_, rfl, ?_⟩, fun goes => ?_, fun few stays => ⟨_, rfl, ?_⟩, fun few goes => ?_, fun many => ?_⟩
    · rw [backToWaiting_waits stays]
      exact ⟨rfl, rfl, rfl, lineAt_keeps _ _ _ s⟩
    · rw [backToWaiting_leaves goes]
      obtain ⟨v, is, left⟩ := givenUp false e (.receiving read) s.line.lost s
      exact ⟨v, congrArg _ is, left⟩
    · rw [breakAttempt_again few, backToWaiting_waits (e := { e with failed := e.failed + 1 }) stays]
      exact ⟨rfl, rfl, rfl, lineAt_keeps _ _ _ s⟩
    · rw [breakAttempt_again few, backToWaiting_leaves (e := { e with failed := e.failed + 1 }) goes]
      obtain ⟨v, is, left⟩ := givenUp false e (.breaking 6) s.line.lost s
      exact ⟨v, congrArg _ is, left⟩
    · rw [breakAttempt_drops many]
      obtain ⟨v, is, left⟩ := givenUp true e (.breaking 6) (min (s.line.lost + 1) 65535) s
      exact ⟨v, congrArg _ is, left⟩
  · refine ⟨_, lineIdle_eq run quiet, rfl, becomeIdle_keeps s, ?_⟩
    rw [becomeIdle_clock]
    cases s.line.phase <;> rfl
  · have failed := crcError_eq run
    rw [if_pos receives] at failed
    rw [frameAbandoned_eq run, failed, if_pos receives]
    exact ⟨⟨_, rfl, abandonFrame_keeps s, fun read => abandonFrame_awaits, abandonFrame_phase receives⟩,
      ⟨_, rfl, rfl, execCrcError_keeps s _ failed⟩⟩
  · rw [frameAbandoned_eq run, crcError_eq run, if_neg (Bool.eq_false_iff.mp closed), if_neg (Bool.eq_false_iff.mp closed)]
    exact ⟨rfl, rfl⟩

end Sys2Proof.Machine
end

section
namespace Sys2Proof.Machine

/-! ## The line bit by bit (R143 to R145, R150 to R152, R156) -/

variable {s : State} {c : Instr} {e : TxEntry} {read : List Bool}

/-! ### The line's events that are due -/

theorem line_due (running : s.mode = .running) (group : dueGroup c = 1) : c ∈ s.dueNow ↔ c ∈ s.lineDue := by
  rw [mem_dueNow_iff running, group]; rfl

theorem frameOf_frameCommand (cls : Nat) (src : Source) (p : List Byte) :
    frameOf (frameCommand cls src p) = some (cls % 8, src, p) := by
  unfold frameCommand
  repeat' split
  all_goals rfl

theorem mem_receptionDue : c ∈ receptionDue read ↔
    (c = .frameAbandoned ∧ receive read = .abandoned) ∨ (c = .crcError ∧ receive read = .badCrc) ∨
      ∃ cls src p, receive read = .good cls src p ∧ c = frameCommand cls (Fin.ofNat 16 src) p := by
  unfold receptionDue
  cases is : receive read <;> simp

/-- A command that is no frame comes of a reception only where the bits are given up or their CRC fails. -/
theorem mem_receptionDue_bare (bare : frameOf c = none) : c ∈ receptionDue read ↔
    (c = .frameAbandoned ∧ receive read = .abandoned) ∨ (c = .crcError ∧ receive read = .badCrc) := by
  rw [mem_receptionDue, ← or_assoc]
  refine or_iff_left ?_
  rintro ⟨cls, src, p, _, rfl⟩
  rw [frameOf_frameCommand] at bare
  cases bare

/-- The line's own events are due by the phase that the line is in. -/
theorem lineIdle_due (running : s.mode = .running) :
    .lineIdle ∈ s.dueNow ↔ s.line.phase = .busy 0 ∨ s.line.phase = .ended 0 := by
  rw [line_due running rfl, State.lineDue]
  cases s.line.phase with
  | busy left | ended left => by_cases zero : left = 0 <;> simp [zero]
  | idle => by_cases waits : (firstWaiting s.line.queue).isSome <;> simp [waits]
  | sending u read =>
    cases sentEntry s.line.queue with
    | none => simp
    | some e =>
      simp only [State.attemptDue]
      split
      · by_cases ends : u ≤ s.clock <;> simp [ends]
      all_goals simp
  | receiving read => simp [mem_receptionDue_bare (c := .lineIdle) rfl]
  | breaking left => simp

theorem firstWaiting_isSome {q : List TxEntry} : (firstWaiting q).isSome = true ↔ ∃ e ∈ q, e.sending = false := by
  rw [firstWaiting, List.find?_isSome]
  simp

theorem transmitAttempt_due (running : s.mode = .running) :
    .transmitAttempt ∈ s.dueNow ↔ s.line.phase = .idle ∧ ∃ e ∈ s.line.queue, e.sending = false := by
  rw [line_due running rfl, State.lineDue, ← firstWaiting_isSome]
  cases s.line.phase with
  | busy left | ended left => by_cases zero : left = 0 <;> simp [zero]
  | idle => by_cases waits : (firstWaiting s.line.queue).isSome <;> simp [waits]
  | sending u read =>
    cases sentEntry s.line.queue with
    | none => simp
    | some e =>
      simp only [State.attemptDue]
      split
      · by_cases ends : u ≤ s.clock <;> simp [ends]
      all_goals simp
  | receiving read => simp [mem_receptionDue_bare (c := .transmitAttempt) rfl]
  | breaking left => simp

/-! ### The comparison of an own attempt with what is read -/

/-- The bit read last is another than the one sent, and no later than the last CRC bit. -/
def Differs (cls source : Nat) (p : List Byte) (read : List Bool) : Prop :=
  read ≠ [] ∧ read.getLast? ≠ (fill (frameBits cls source p) ++ List.replicate 8 true)[read.length - 1]? ∧
    read.length ≤ bitsThrough (frameBits cls source p).length (frameBits cls source p)

/-- The model's own test for a bit that is not compared, or agrees. -/
theorem agreeing_iff {cls source : Nat} {p : List Byte} :
    (read.length = 0 ∨ bitsThrough (frameBits cls source p).length (frameBits cls source p) < read.length ∨
      read[read.length - 1]? = (lineBits cls source p)[read.length - 1]?) ↔ ¬ Differs cls source p read := by
  rw [Differs, List.getLast?_eq_getElem?, List.length_eq_zero_iff, lineBits, endFieldBits, ne_eq, ne_eq, not_and_or, not_not,
    not_and_or, not_not, not_le, or_comm (a := bitsThrough _ _ < _)]

theorem compareLast_agrees {cls source : Nat} {p : List Byte} :
    compareLast cls source p read = .agrees ↔ ¬ Differs cls source p read := by
  rw [← agreeing_iff]
  by_cases agrees : read.length = 0 ∨ bitsThrough (frameBits cls source p).length (frameBits cls source p) < read.length ∨
      read[read.length - 1]? = (lineBits cls source p)[read.length - 1]?
  · exact iff_of_true (if_pos agrees) agrees
  · refine iff_of_false ?_ agrees
    rw [show compareLast cls source p read = _ from if_neg agrees]
    split <;> simp

theorem compareLast_of_differs {cls source : Nat} {p : List Byte} (differs : Differs cls source p read) :
    compareLast cls source p read = if read.length ≤ bitsThrough 8 (frameBits cls source p) then .lost else .bitError :=
  if_neg fun agrees => agreeing_iff.mp agrees differs

theorem attemptDue_eq {x : Nat} : s.attemptDue e x read =
    if compareLast e.frame.cls s.address.val e.frame.payload read = .agrees then
      if x ≤ s.clock then [.transmitComplete] else []
    else if read.length ≤ bitsThrough 8 (frameBits e.frame.cls s.address.val e.frame.payload) then [.arbitrationLost]
    else [.bitError] := by
  by_cases differs : Differs e.frame.cls s.address.val e.frame.payload read
  · have other : compareLast e.frame.cls s.address.val e.frame.payload read ≠ .agrees :=
      fun agrees => compareLast_agrees.mp agrees differs
    rw [if_neg other, State.attemptDue, compareLast_of_differs differs]
    by_cases early : read.length ≤ bitsThrough 8 (frameBits e.frame.cls s.address.val e.frame.payload) <;> simp [early]
  · rw [if_pos (compareLast_agrees.mpr differs), State.attemptDue, compareLast_agrees.mpr differs]

theorem attempt_due {x : Nat} (running : s.mode = .running) (sends : s.line.phase = .sending x read)
    (sent : sentEntry s.line.queue = some e) :
    let differs := Differs e.frame.cls s.address.val e.frame.payload read
    let within := read.length ≤ bitsThrough 8 (frameBits e.frame.cls s.address.val e.frame.payload)
    (.arbitrationLost ∈ s.dueNow ↔ differs ∧ within) ∧ (.bitError ∈ s.dueNow ↔ differs ∧ ¬ within) ∧
      (.transmitComplete ∈ s.dueNow ↔ ¬ differs ∧ x ≤ s.clock) := by
  intro differs within
  have due : s.lineDue = s.attemptDue e x read := by rw [State.lineDue, sends]; simp only [sent]
  rw [line_due running rfl, line_due running rfl, line_due running rfl, due, attemptDue_eq]
  by_cases agrees : compareLast e.frame.cls s.address.val e.frame.payload read = .agrees
  · have no : ¬ differs := compareLast_agrees.mp agrees
    rw [if_pos agrees]
    by_cases ends : x ≤ s.clock <;> simp [ends, no]
  · have yes : differs := not_not.mp fun no => agrees (compareLast_agrees.mpr no)
    rw [if_neg agrees]
    by_cases early : within <;> simp [yes, within, early]

/-! ### One bit time -/

theorem sampled_line : s.sampleSlots.sampleLanes.line = s.line := by
  unfold State.sampleLanes State.sampleSlots; split <;> rfl

theorem sampled_clock : s.sampleSlots.sampleLanes.clock = s.clock := by
  unfold State.sampleLanes State.sampleSlots; split <;> rfl

theorem sampled_wire : s.sampleSlots.sampleLanes.wire = s.wire := by
  unfold State.sampleLanes State.sampleSlots; split <;> rfl

theorem headD_recessive (wire : List Bool) : wire.headD true = decide (¬ wire.head? = some false) := by
  cases wire with
  | nil => rfl
  | cons b _ => cases b <;> rfl

/-- What the station reads where it drives nothing itself. -/
theorem lineLevel_passive (quiet : s.ownLevel = true) : s.lineLevel = decide (¬ s.wire.head? = some false) := by
  rw [State.lineLevel, quiet, headD_recessive, Bool.true_and]

/-- The phase that a bit time leaves, by the phase before it. -/
structure Heard (s : State) (next : LinePhase) : Prop where
  busy : ∀ left, s.line.phase = .busy left → next = .busy (if s.wire.head? = some false then 10 else left - 1)
  ended : ∀ left, s.line.phase = .ended left → next = .ended (left - 1)
  idle : s.line.phase = .idle → next = if s.wire.head? = some false then .receiving [false] else .idle
  receiving : ∀ read, s.line.phase = .receiving read → next = .receiving (read ++ [decide (¬ s.wire.head? = some false)])
  breaking : ∀ left, s.line.phase = .breaking left → next = if left ≤ 1 then .busy 10 else .breaking (left - 1)
  sending : ∀ u read e, s.line.phase = .sending u read → sentEntry s.line.queue = some e →
    ∀ b, (lineBits e.frame.cls s.address.val e.frame.payload)[read.length]? = some b →
      next = .sending u (read ++ [b && decide (¬ s.wire.head? = some false)])

theorem hear_heard : Heard s (s.line.phase.hear s.lineLevel) where
  busy left is := by
    rw [lineLevel_passive (by rw [State.ownLevel, is]), is]
    by_cases other : s.wire.head? = some false <;> simp [LinePhase.hear, other, idleAfterBreak]
  ended left is := by rw [is]; rfl
  idle is := by
    rw [lineLevel_passive (by rw [State.ownLevel, is]), is]
    by_cases other : s.wire.head? = some false <;> simp [LinePhase.hear, other]
  receiving read is := by rw [lineLevel_passive (by rw [State.ownLevel, is]), is]; rfl
  breaking left is := by rw [is]; rfl
  sending u read e is sent b bit := by
    have own : s.ownLevel = b := by rw [State.ownLevel, is]; simp only [sent, bit, Option.getD_some]
    rw [State.lineLevel, own, headD_recessive, is]; rfl

/-- Settles O58: one bit time by the phase the line is in, and the events that are due by what has been read. -/
theorem lineIsReadBitByBit : Obligations.LineIsReadBitByBit := by
  intro s running
  refine ⟨fun quiet => ?_, lineIdle_due running, transmitAttempt_due running, fun u read e sends sent => ?_,
    fun read receives => ?_⟩
  · have now : ({ s with pending := [] } : State).mode = .running := running
    have heard := hear_heard (s := { s with pending := [] })
    refine ⟨_, step_quiet quiet, ?_⟩
    rw [passBit_running now, sampled_line, sampled_clock, sampled_wire]
    exact ⟨rfl, rfl, rfl, rfl, rfl, heard.busy, heard.ended, heard.idle, heard.receiving, heard.breaking, heard.sending⟩
  · obtain ⟨lost, broken, complete⟩ := attempt_due running sends sent
    exact ⟨lost, by rw [broken, not_le]; rfl, complete⟩
  · have due : s.lineDue = receptionDue read := by rw [State.lineDue, receives]
    rw [line_due running rfl, line_due running rfl, due, mem_receptionDue_bare rfl, mem_receptionDue_bare rfl]
    refine ⟨by simp, by simp, fun cls src p good => ⟨frameCommand cls (Fin.ofNat 16 src) p, ?_, Fin.ofNat 16 src, rfl,
      frameOf_frameCommand _ _ _⟩⟩
    rw [line_due running (frameCommand_group _ _ _), due, mem_receptionDue]
    exact .inr (.inr ⟨cls, src, p, good, rfl⟩)

end Sys2Proof.Machine
end

section
namespace Sys2Proof.Machine

/-! ## A frame on the line and its reading (R143 to R145) -/

/-! ### Numbers as bits -/

theorem bitsOf_length (n v : Nat) : (bitsOf n v).length = n := by
  induction n with
  | zero => rfl
  | succ n ih => rw [bitsOf, List.length_cons, ih]

theorem foldl_bitsOf (n v a : Nat) :
    (bitsOf n v).foldl (fun x b => 2 * x + yesNo b) a = a * 2 ^ n + v % 2 ^ n := by
  induction n generalizing a with
  | zero => simp [bitsOf, Nat.mod_one]
  | succ n ih =>
    have bit : yesNo (v.testBit n) = (v.testBit n).toNat := by cases v.testBit n <;> rfl
    rw [bitsOf, List.foldl_cons, ih, Nat.mod_pow_succ, bit, Nat.toNat_testBit]
    ring

theorem valueOf_bitsOf {n v : Nat} (fits : v < 2 ^ n) : valueOf (bitsOf n v) = v := by
  rw [valueOf, foldl_bitsOf, Nat.zero_mul, Nat.zero_add, Nat.mod_eq_of_lt fits]

theorem payloadBits_length (p : List Byte) : (p.flatMap fun b => bitsOf 8 b.toNat).length = 8 * p.length := by
  induction p with
  | nil => rfl
  | cons b bs ih => rw [List.flatMap_cons, List.length_append, bitsOf_length, ih, List.length_cons]; omega

theorem bytesOfBits_payload (p : List Byte) (more : List Bool) :
    bytesOfBits p.length ((p.flatMap fun b => bitsOf 8 b.toNat) ++ more) = p := by
  induction p with
  | nil => rfl
  | cons b bs ih =>
    have eight : (bitsOf 8 b.toNat).length = 8 := bitsOf_length 8 _
    rw [List.length_cons, bytesOfBits, List.flatMap_cons, List.append_assoc, List.take_left' eight, List.drop_left' eight, ih,
      valueOf_bitsOf b.isLt, byteOf, BitVec.ofNat_toNat, BitVec.setWidth_eq]

theorem crcOf_lt (bits : List Bool) : crcOf bits < 2 ^ 16 := BitVec.isLt _

/-! ### Fill bits -/

/-- What the line shows of the bits still to come after a run of equal bits of this level and length; after five, the fill bit
that they call for comes first. -/
def stuffed (last : Bool) (run : Nat) (bits : List Bool) : List Bool :=
  if run = 5 then (!last) :: fillFrom (!last) 1 bits else fillFrom last run bits

/-- The length of the run of equal bits that a bit ends. -/
def runWith (last : Bool) (run : Nat) (b : Bool) : Nat := if b = last then run + 1 else 1

theorem stuffed_five (last : Bool) (bits : List Bool) : stuffed last 5 bits = (!last) :: stuffed (!last) 1 bits := rfl

theorem stuffed_cons {run : Nat} (short : run < 5) (last b : Bool) (bits : List Bool) :
    stuffed last run (b :: bits) = b :: stuffed b (runWith last run b) bits := by
  rw [stuffed, if_neg (by omega), fillFrom]
  by_cases equal : b = last
  · rw [runWith, if_pos equal, if_pos equal, equal]
    by_cases four : run = 4
    · rw [if_pos four, four, stuffed_five]; rfl
    · rw [if_neg four, stuffed, if_neg (by omega)]
  · rw [runWith, if_neg equal, if_neg equal]; rfl

theorem stuffed_nil {run : Nat} (short : run ≠ 5) (last : Bool) : stuffed last run [] = [] := by
  rw [stuffed, if_neg short, fillFrom]

theorem runWith_le {run : Nat} (short : run < 5) (last b : Bool) : runWith last run b ≤ 5 := by
  unfold runWith; split <;> omega

/-! ### No six equal bits -/

/-- A run of at most five equal bits before a bit of the other level makes no six. -/
theorem noSix_run {last b : Bool} {n : Nat} {bits : List Bool} (other : b ≠ last) (short : n ≤ 5)
    (none_ : NoSixEqual (b :: bits)) : NoSixEqual (List.replicate n last ++ b :: bits) := by
  induction n with
  | zero => exact none_
  | succ n ih =>
    intro c six
    rw [List.replicate_succ (n := n), List.cons_append] at six
    rcases List.infix_cons_iff.mp six with ⟨after, is⟩ | later
    · have first : c = last := by
        have := congrArg (·[0]?) is
        simpa using this
      have second : c = b := by
        have stands := congrArg (·[n + 1]?) is
        rw [← List.cons_append, ← List.replicate_succ,
          List.getElem?_append_left (by rw [List.length_replicate]; omega),
          List.getElem?_append_right (by rw [List.length_replicate]), List.getElem?_replicate, if_pos (by omega),
          List.length_replicate, Nat.sub_self] at stands
        exact Option.some.inj stands
      exact other (second.symm.trans first)
    · exact ih (by omega) c later

theorem noSix_short {last : Bool} {n : Nat} (short : n ≤ 5) : NoSixEqual (List.replicate n last) := fun _ six => by
  have longer := six.length_le
  rw [List.length_replicate, List.length_replicate] at longer
  omega

theorem noSix_stuffed {last : Bool} {run : Nat} {bits : List Bool} (short : run ≤ 5) :
    NoSixEqual (List.replicate run last ++ stuffed last run bits) := by
  have filled : ∀ {l : Bool} {bs : List Bool}, NoSixEqual (List.replicate 1 (!l) ++ stuffed (!l) 1 bs) →
      NoSixEqual (List.replicate 5 l ++ stuffed l 5 bs) := fun {l _} next =>
    noSix_run (Bool.not_ne_self l) (le_refl 5) next
  induction bits generalizing last run with
  | nil =>
    rcases Nat.lt_or_eq_of_le short with few | rfl
    · rw [stuffed_nil (by omega), List.append_nil]
      exact noSix_short short
    · refine filled ?_
      rw [stuffed_nil (by omega), List.append_nil]
      exact noSix_short (by omega)
  | cons b bs ih =>
    have next : ∀ {l : Bool} {n : Nat}, n < 5 → NoSixEqual (List.replicate n l ++ stuffed l n (b :: bs)) := by
      intro l n few
      rw [stuffed_cons few]
      by_cases equal : b = l
      · have joined := ih (last := l) (run := n + 1) (by omega)
        rw [List.replicate_succ', List.append_assoc] at joined
        rw [equal, runWith, if_pos rfl]
        exact joined
      · rw [runWith, if_neg equal]
        exact noSix_run equal few.le (ih (run := 1) (by omega))
    rcases Nat.lt_or_eq_of_le short with few | rfl
    · exact next few
    · exact filled (next (by omega))

theorem fill_cons (b : Bool) (bits : List Bool) : fill (b :: bits) = b :: stuffed b 1 bits := rfl

theorem noSix_fill (b : Bool) (bits : List Bool) : NoSixEqual (fill (b :: bits)) := noSix_stuffed (run := 1) (by omega)

/-! ### Reading through the fill bits -/

/-- What a reader has once it has read some bits: the run that they end with, and the rest of the line with the fill bit that
the run calls for still on it. -/
theorem readBits_stuffed (bits more tail : List Bool) {last : Bool} {run : Nat} (short : run ≤ 5) :
    ∃ l r, r ≤ 5 ∧ readBits (stuffed last run (bits ++ more) ++ tail) bits.length last run =
      .ok (bits, l, r, stuffed l r more ++ tail) := by
  induction bits generalizing last run with
  | nil => exact ⟨last, run, short, by rw [List.length_nil, readBits, List.nil_append]⟩
  | cons b bs ih =>
    have next : ∀ {l : Bool} {n : Nat}, n < 5 → ∃ l' r, r ≤ 5 ∧
        readBits (stuffed l n ((b :: bs) ++ more) ++ tail) (bs.length + 1) l n =
          .ok (b :: bs, l', r, stuffed l' r more ++ tail) := by
      intro l n few
      obtain ⟨l', r, within, reads⟩ := ih (last := b) (run := runWith l n b) (runWith_le few l b)
      refine ⟨l', r, within, ?_⟩
      rw [List.cons_append, stuffed_cons few, List.cons_append, readBits, if_neg (by omega), ← runWith, reads]
    rcases Nat.lt_or_eq_of_le short with few | rfl
    · exact next few
    · obtain ⟨l', r, within, reads⟩ := next (l := !last) (n := 1) (by omega)
      refine ⟨l', r, within, ?_⟩
      rw [stuffed_five, List.cons_append, List.length_cons, readBits, if_pos rfl, if_neg (Bool.not_ne_self last), reads]

/-- A reading that succeeds takes a definite number of the line's bits, and waits for more until they are there. -/
theorem readBits_take {raw bits rest : List Bool} {n r : Nat} {last l : Bool} {run : Nat}
    (reads : readBits raw n last run = .ok (bits, l, r, rest)) :
    ∃ m, raw.length = m + rest.length ∧ ∀ k, readBits (raw.take k) n last run =
      if k < m then .error .short else .ok (bits, l, r, rest.take (k - m)) := by
  induction raw generalizing n last run bits with
  | nil =>
    cases n with
    | zero =>
      rw [readBits] at reads
      cases reads
      exact ⟨0, rfl, fun k => by rw [if_neg (by omega), List.take_nil, List.take_nil, readBits]⟩
    | succ n => cases reads
  | cons b raw ih =>
    cases n with
    | zero =>
      rw [readBits] at reads
      cases reads
      exact ⟨0, (Nat.zero_add _).symm, fun k => by rw [if_neg (by omega), readBits, Nat.sub_zero]⟩
    | succ n =>
      rw [readBits] at reads
      by_cases five : run = 5
      · rw [if_pos five] at reads
        split at reads
        · cases reads
        next other =>
          obtain ⟨m, length, reading⟩ := ih reads
          refine ⟨m + 1, by rw [List.length_cons, length]; omega, fun k => ?_⟩
          cases k with
          | zero => rfl
          | succ k =>
            rw [List.take_succ_cons, readBits, if_pos five, if_neg other, reading k, Nat.add_sub_add_right]
            simp only [Nat.add_lt_add_iff_right]
      · rw [if_neg five] at reads
        split at reads
        · cases reads
        next bits' l' r' rest' found =>
          cases reads
          obtain ⟨m, length, reading⟩ := ih found
          refine ⟨m + 1, by rw [List.length_cons, length]; omega, fun k => ?_⟩
          cases k with
          | zero => rfl
          | succ k =>
            rw [List.take_succ_cons, readBits, if_neg five, reading k, Nat.add_sub_add_right]
            by_cases early : k < m
            · rw [if_pos early, if_pos (by omega)]
            · rw [if_neg early, if_neg (by omega)]

/-! ### The whole frame -/

theorem head_length (cls source len : Nat) : (bitsOf 3 cls ++ bitsOf 4 source ++ bitsOf 6 len).length = 13 := by
  rw [List.length_append, List.length_append, bitsOf_length, bitsOf_length, bitsOf_length]

/-- The bits of a frame after its length: payload and CRC. -/
def bodyBits (cls source : Nat) (p : List Byte) : List Bool :=
  (p.flatMap fun b => bitsOf 8 b.toNat) ++ bitsOf 16 (crcOf (coveredBits cls source p))

theorem bodyBits_length (cls source : Nat) (p : List Byte) : (bodyBits cls source p).length = 8 * p.length + 16 := by
  rw [bodyBits, List.length_append, payloadBits_length, bitsOf_length]

/-- The bits of a frame after its start bit, up to its length. -/
def headBits (cls source : Nat) (p : List Byte) : List Bool := bitsOf 3 cls ++ bitsOf 4 source ++ bitsOf 6 p.length

theorem frameBits_split (cls source : Nat) (p : List Byte) :
    frameBits cls source p = false :: (headBits cls source p ++ bodyBits cls source p) := by
  rw [frameBits, coveredBits, headBits, bodyBits, coveredBits, List.append_assoc _ (p.flatMap _)]

/-- A sent frame as the two readings of a receiver find it: its head, then its body, then the end field with the fill bit that
a last run of five calls for. -/
structure Sent (cls source : Nat) (p : List Byte) (tail raw : List Bool) (l : Bool) (r : Nat) (rest : List Bool) (l' : Bool)
    (r' : Nat) : Prop where
  head : readBits raw 13 false 1 = .ok (headBits cls source p, l, r, rest)
  body : readBits rest (8 * p.length + 16) l r = .ok (bodyBits cls source p, l', r', stuffed l' r' [] ++ tail)

theorem lineBits_cons (cls source : Nat) (p : List Byte) : lineBits cls source p =
    false :: (stuffed false 1 (headBits cls source p ++ bodyBits cls source p) ++ List.replicate 8 true) := by
  rw [lineBits, frameBits_split, fill_cons]; rfl

theorem sent (cls source : Nat) (p : List Byte) (tail : List Bool) :
    ∃ l r rest l' r', Sent cls source p tail
      (stuffed false 1 (headBits cls source p ++ bodyBits cls source p) ++ tail) l r rest l' r' := by
  obtain ⟨l, r, within, head⟩ := readBits_stuffed (headBits cls source p) (bodyBits cls source p) tail
    (last := false) (run := 1) (by omega)
  obtain ⟨l', r', _, body⟩ := readBits_stuffed (bodyBits cls source p) [] tail (last := l) within
  rw [List.append_nil, bodyBits_length] at body
  rw [headBits, head_length, ← headBits] at head
  exact ⟨l, r, _, l', r', head, body⟩

section
variable {cls source : Nat} {p : List Byte} {raw rest rest' : List Bool} {l l' : Bool} {r r' : Nat}

theorem head_len (inLength : p.length ≤ 40) : valueOf ((headBits cls source p).drop 7) = p.length := by
  rw [headBits, List.drop_left' (by rw [List.length_append, bitsOf_length, bitsOf_length]), valueOf_bitsOf (by omega)]

theorem receive_head_short (head : readBits raw 13 false 1 = .error .short) : receive (false :: raw) = .unfinished := by
  rw [receive, head]; rfl

variable (inLength : p.length ≤ 40) (head : readBits raw 13 false 1 = .ok (headBits cls source p, l, r, rest))
include inLength head

theorem receive_body_short (body : readBits rest (8 * p.length + 16) l r = .error .short) :
    receive (false :: raw) = .unfinished := by
  rw [receive, head]
  simp only [head_len inLength, body]
  rw [if_neg (by omega)]; rfl

theorem receive_end_short (body : readBits rest (8 * p.length + 16) l r = .ok (bodyBits cls source p, l', r', rest'))
    (more : endPassed r' rest' = false) : receive (false :: raw) = .unfinished := by
  rw [receive, head]
  simp only [head_len inLength, body, more, if_true]
  rw [if_neg (by omega)]

theorem receive_complete (inClass : cls < 8) (inSource : source < 16)
    (body : readBits rest (8 * p.length + 16) l r = .ok (bodyBits cls source p, l', r', rest'))
    (passed : endPassed r' rest' = true) : receive (false :: raw) = .good cls source p := by
  have payload := payloadBits_length p
  have crc : valueOf ((bodyBits cls source p).drop (8 * p.length)) =
      crcOf (headBits cls source p ++ (bodyBits cls source p).take (8 * p.length)) := by
    rw [bodyBits, List.drop_left' payload, List.take_left' payload, valueOf_bitsOf (crcOf_lt _), headBits, coveredBits]
  have isClass : valueOf ((headBits cls source p).take 3) = cls := by
    rw [headBits, List.append_assoc, List.take_left' (bitsOf_length 3 cls), valueOf_bitsOf inClass]
  have isSource : valueOf (((headBits cls source p).drop 3).take 4) = source := by
    rw [headBits, List.append_assoc, List.drop_left' (bitsOf_length 3 cls), List.take_left' (bitsOf_length 4 source),
      valueOf_bitsOf inSource]
  have isPayload : bytesOfBits p.length (bodyBits cls source p) = p := bytesOfBits_payload p _
  rw [receive, head]
  simp only [head_len inLength, body, passed, crc, isClass, isSource, isPayload, if_true]
  rw [if_neg (by omega), if_neg (by simp)]

end

/-- The end field, with the fill bit that a last run of five calls for, is over at its last bit and not before. -/
theorem endPassed_iff {l : Bool} {r : Nat} {rest : List Bool} :
    endPassed r rest = true ↔ (stuffed l r [] ++ List.replicate 8 true).length ≤ rest.length := by
  rw [endPassed, decide_eq_true_iff, List.length_append, List.length_replicate]
  by_cases five : r = 5
  · rw [if_pos five, five]; rfl
  · rw [if_neg five, stuffed_nil five, List.length_nil, Nat.zero_add, endFieldBits]

/-- Settles O59: the receiver's reading goes through the sender's fill bits one by one; the beginning of a frame ends one of its two
readings, or its end field, too early. -/
theorem receiverReadsSentFrame : Obligations.ReceiverReadsSentFrame := by
  intro cls source p rest inClass inSource inLength
  refine ⟨?_, ?_, rfl, ?_, fun k before => ?_⟩
  · rw [frameBits_split]
    exact noSix_fill _ _
  · rw [frameBits_split, List.length_cons, List.length_append, headBits, head_length, bodyBits_length]; omega
  · obtain ⟨l, r, left, l', r', read⟩ := sent cls source p (List.replicate 8 true ++ rest)
    rw [lineBits_cons, List.cons_append, List.append_assoc]
    refine receive_complete inLength read.head inClass inSource read.body (endPassed_iff (l := l').mpr ?_)
    rw [← List.append_assoc, List.length_append (bs := rest)]
    exact Nat.le_add_right _ _
  · obtain ⟨l, r, left, l', r', read⟩ := sent cls source p (List.replicate 8 true)
    obtain ⟨m, headLength, headTake⟩ := readBits_take read.head
    obtain ⟨n, bodyLength, bodyTake⟩ := readBits_take read.body
    rw [lineBits_cons] at before ⊢
    cases k with
    | zero => rfl
    | succ k =>
      rw [List.take_succ_cons]
      have headReads := headTake k
      by_cases inHead : k < m
      · rw [if_pos inHead] at headReads
        exact receive_head_short headReads
      · rw [if_neg inHead] at headReads
        have bodyReads := bodyTake (k - m)
        by_cases inBody : k - m < n
        · rw [if_pos inBody] at bodyReads
          exact receive_body_short inLength headReads bodyReads
        · rw [if_neg inBody] at bodyReads
          refine receive_end_short inLength headReads bodyReads (Bool.eq_false_iff.mpr fun passed => ?_)
          have whole := endPassed_iff (l := l').mp passed
          rw [List.length_take] at whole
          rw [List.length_cons, headLength, bodyLength] at before
          omega

end Sys2Proof.Machine
end

section
/-! PROOF. What a restart comes of (R99, R165): a RESTART permit that passes check 0 with a slot of the station in its scope. -/

namespace Sys2Proof.Machine

/-! ## A restart comes of a RESTART permit alone (R99) -/

variable {s t : State} {src : Source} {p : List Byte}

/-- A RESTART permit that the station heeds: of the right kind and level, from a source it trusts with that level, and with a
slot of the station in its scope (R89, R91). -/
def Heeded (cfg : Record) (a : Station) (src : Source) (p : List Byte) : Prop :=
  byteAt p 1 = 6 ∧ byteAt p 2 % 4 = 3 ∧ Trusts cfg src 3 ∧ scopeSlots a p ≠ []

theorem permitKindOf_restart {n : Nat} (is : permitKindOf n = some .restart) : n = 6 := by
  unfold permitKindOf at is
  split at is <;> simp_all

theorem checkZero_restart {cfg : Record} (passes : checkZero cfg (permitOf src p) = .inr .restart) :
    byteAt p 1 = 6 ∧ byteAt p 2 % 4 = 3 ∧ Trusts cfg src 3 := by
  have trusts : Trusts cfg src (byteAt p 2 % 4) := by
    by_contra strange
    rw [checkZero_strange strange] at passes
    cases passes
  rw [checkZero_of_kind trusts rfl] at passes
  cases kind : permitKindOf (byteAt p 1) with
  | none => rw [kind] at passes; cases passes
  | some k =>
    rw [kind, Option.elim_some] at passes
    split at passes
    · cases passes
    next high =>
      obtain rfl : k = .restart := Sum.inr.inj passes
      have three : byteAt p 2 % 4 = 3 := by
        have level : PermitKind.restart.minLevel = 3 := rfl
        omega
      exact ⟨permitKindOf_restart kind, three, three ▸ trusts⟩

theorem judgeSlots_due (q : Permit) (k : PermitKind) : ∀ (slots : List SlotNo) (s : State),
    (judgeSlots q k slots s).custody.restartDue = s.custody.restartDue
  | [], _ => rfl
  | i :: rest, s => (judgeSlots_due q k rest _).trans (judgeSlot_keeps_permits q k i s .permits (by decide)).2.2

theorem handVerdict_due (n : Byte) (src : Source) (at_ : Nat) (s : State) :
    (s.handVerdict n src at_).custody.restartDue = s.custody.restartDue := rfl

/-- The judgement of a permit makes no restart due but for a RESTART permit that the station heeds. -/
theorem judgePermit_due (free : s.custody.restartDue = false) (due : (s.judgePermit (permitOf src p)).custody.restartDue = true) :
    Heeded s.cfg s.address src p := by
  unfold State.judgePermit at due
  rw [permit_slots] at due
  cases scope : scopeSlots s.address p with
  | nil =>
    rw [scope] at due
    exact absurd (free.symm.trans due) Bool.false_ne_true
  | cons first rest =>
    rw [scope] at due
    simp only at due
    cases check : checkZero s.cfg (permitOf src p) with
    | inl a =>
      rw [judgeIn_failed check, handVerdict_due, (addOutcomes_rest a _ s).2, free] at due
      cases due
    | inr k =>
      by_cases restart : k = .restart
      · obtain ⟨kind, level, trusts⟩ := checkZero_restart (restart ▸ check)
        exact ⟨kind, level, trusts, by rw [scope]; exact List.cons_ne_nil _ _⟩
      · have worked : ∀ (ws : List Work) (v : State), (v.work ws).custody.restartDue = v.custody.restartDue :=
          fun ws v => (work_keeps ws v .permits (by decide)).2.2
        rw [judgeIn_passed check, afterPermit_starts restart, worked, handVerdict_due, judgeSlots_due, free] at due
        cases due

/-! ### Through the frames -/

theorem consume_due {cls : Nat} (other : cls ≠ 3) (s : State) :
    (s.consume cls src p).custody.restartDue = s.custody.restartDue := by
  unfold State.consume
  split
  · exact (takeClaim_keeps _ _ .permits (by decide)).2.2
  · exact (takeCeiling_keeps _ _ _ .permits (by decide)).2.2
  · exact (takeClass2_keeps _ _ _ .permits (by decide)).2.2
  · exact absurd rfl other
  · exact (takeClass5_keeps _ _ _ .permits (by decide)).2.2
  · exact (takeQuery_keeps _ _ _ .permits (by decide)).2.2
  · rfl

theorem takeFrame_due {cls : Nat} (free : s.custody.restartDue = false)
    (due : (s.takeFrame cls src p).custody.restartDue = true) :
    cls = 3 ∧ p.length = 6 ∧ Heeded s.cfg s.address src p := by
  have still : (s.watched src).custody.restartDue = false := watched_permits.2.2.trans free
  unfold State.takeFrame at due
  split at due
  · rw [free] at due; cases due
  · split at due
    · have kept := (abandonFrame_keeps s .permits (by decide)).2.2
      rw [kept, free] at due; cases due
    · split at due
      · have kept := (countError_keeps (s.watched src) .permits (by decide)).2.2
        rw [State.watched] at kept still
        rw [kept, still] at due; cases due
      next formed =>
        by_cases three : cls = 3
        · subst three
          have length : p.length = 6 := by simpa [malformed] using formed
          have judged : (s.watched src).takePermit src p = (s.watched src).judgePermit (permitOf src p) :=
            takePermit_of_free free
          have heeded := judgePermit_due still (by rw [← judged]; exact due)
          rw [watched_cfg, watched_address] at heeded
          exact ⟨rfl, length, heeded⟩
        · have kept := consume_due (src := src) (p := p) three (s.watched src)
          rw [State.watched] at kept still
          rw [kept, still] at due; cases due

/-! ### Through every other command -/

theorem startBlocks_due (cfg : Record) (defaulted : Bool) : (s.startBlocks cfg defaulted).custody.restartDue = false := by
  unfold State.startBlocks
  split
  · exact (notice_keeps _ _ _ _ .permits (by decide)).2.2
  · rfl

theorem loader_due {c : Instr} (loads : isLoaderCommand c = true) (free : s.custody.restartDue = false)
    (result : exec c s = .next t) : t.custody.restartDue = false := by
  rcases loader_cases c loads with rfl | ⟨low, rfl⟩ | ⟨x, y, z, rfl⟩ | ⟨how, rfl⟩ | ⟨b, rfl⟩ <;> cases result
  · rfl
  · split
    · exact free
    · rfl
  · split
    · exact free
    · exact free
  · split
    · exact startBlocks_due _ _
    · exact startBlocks_due _ _
    · exact free
  · split
    · unfold State.endReset
      split <;> exact startBlocks_due _ _
    · exact free

theorem stationRestart_free (free : s.custody.restartDue = false) : exec .stationRestart s = .next s := by
  show whileRunning s _ = _
  rw [whileRunning, free]
  simp

theorem bare_due {c : Instr} (bare : frameOf c = none) (loads : isLoaderCommand c = false)
    (other : c ≠ .stationRestart) (h : exec c s = .next t) : t.custody.restartDue = s.custody.restartDue := by
  cases c <;> simp only [isLoaderCommand, frameOf, reduceCtorEq, ne_eq, not_true_eq_false] at loads bare other
  case filteredPresentChange => exact (execFilteredPresentChange_keeps _ _ _ _ h .permits (by decide)).2.2
  case filteredBoltSenseChange => exact (execFilteredBoltSenseChange_keeps _ _ _ _ h .permits (by decide)).2.2
  case insertion => exact (execInsertion_keeps _ _ _ _ h .permits (by decide)).2.2
  case extraction => exact (execExtraction_keeps _ _ _ h .permits (by decide)).2.2
  case measurementPublication => exact (execMeasurementPublication_keeps _ _ _ _ _ h .permits (by decide)).2.2
  case overCurrentCheck => exact (execOverCurrentCheck_keeps _ _ _ h .permits (by decide)).2.2
  case integrationPeriodEnd => exact (execIntegrationPeriodEnd_keeps _ _ _ _ h .permits (by decide)).2.2
  case detectTimerExpiry => exact (execDetectTimerExpiry_keeps _ _ _ h .permits (by decide)).2.2
  case taperDwell => exact (execTaperDwell_keeps _ _ _ h .permits (by decide)).2.2
  case toppedDwell => exact (execToppedDwell_keeps _ _ _ h .permits (by decide)).2.2
  case taperToBulkDwell => exact (execTaperToBulkDwell_keeps _ _ _ h .permits (by decide)).2.2
  case toppedToBulkDwell => exact (execToppedToBulkDwell_keeps _ _ _ h .permits (by decide)).2.2
  case restartHoldExpiry => exact (execRestartHoldExpiry_keeps _ _ _ h .permits (by decide)).2.2
  case retryWaitExpiry => exact (execRetryWaitExpiry_keeps _ _ _ h .permits (by decide)).2.2
  case dueUntilPasses => exact (execDueUntilPasses_keeps _ _ _ h .permits (by decide)).2.2
  case reportTimerExpiry => exact (execReportTimerExpiry_keeps _ _ h .permits (by decide)).2.2
  case earlyNeedSpacing => exact (execEarlyNeedSpacing_keeps _ _ h .permits (by decide)).2.2
  case silenceTimerExpiry => exact (execSilenceTimerExpiry_keeps _ _ h .permits (by decide)).2.2
  case peerAging => exact (execPeerAging_keeps _ _ _ h .permits (by decide)).2.2
  case ceilingRecordExpiry => exact (execCeilingRecordExpiry_keeps _ _ _ h .permits (by decide)).2.2
  case claimExpiry => exact (execClaimExpiry_keeps _ _ h .permits (by decide)).2.2
  case withdrawPulseEnd => exact (execWithdrawPulseEnd_keeps _ _ _ h .permits (by decide)).2.2
  case throwPulseEnd => exact (execThrowPulseEnd_keeps _ _ _ h .permits (by decide)).2.2
  case claimWaitTimeout => exact (execClaimWaitTimeout_keeps _ _ _ h .permits (by decide)).2.2
  case openTimerExpiry => exact (execOpenTimerExpiry_keeps _ _ _ h .permits (by decide)).2.2
  case enumerationTimeout => exact (execEnumerationTimeout_keeps _ _ _ h .permits (by decide)).2.2
  case awaitTimeout => exact (execAwaitTimeout_keeps _ _ _ h .permits (by decide)).2.2
  case pauseExpiry => exact (execPauseExpiry_keeps _ _ _ h .permits (by decide)).2.2
  case reenumGraceExpiry => exact (execReenumGraceExpiry_keeps _ _ _ h .permits (by decide)).2.2
  case enumeratedChange => exact (execEnumeratedChange_keeps _ _ _ _ h .permits (by decide)).2.2
  case laneFault => exact (execLaneFault_keeps _ _ _ h .permits (by decide)).2.2
  case faultLineReleased => exact (execFaultLineReleased_keeps _ _ _ h .permits (by decide)).2.2
  case faultClearExpiry => exact (execFaultClearExpiry_keeps _ _ _ h .permits (by decide)).2.2
  case wakeTimerExpiry => exact (execWakeTimerExpiry_keeps _ _ h .permits (by decide)).2.2
  case idleTimerExpiry => exact (execIdleTimerExpiry_keeps _ _ _ h .permits (by decide)).2.2
  case scrubTimerExpiry => exact (execScrubTimerExpiry_keeps _ _ _ h .permits (by decide)).2.2
  case frameAbandoned => exact (execFrameAbandoned_keeps _ _ h .permits (by decide)).2.2
  case crcError => exact (execCrcError_keeps _ _ h .permits (by decide)).2.2
  case lineIdle => exact (execLineIdle_keeps _ _ h .permits (by decide)).2.2
  case transmitAttempt => exact (execTransmitAttempt_keeps _ _ h .permits (by decide)).2.2
  case arbitrationLost => exact (execArbitrationLost_keeps _ _ h .permits (by decide)).2.2
  case bitError => exact (execBitError_keeps _ _ h .permits (by decide)).2.2
  case transmitComplete => exact (execTransmitComplete_keeps _ _ h .permits (by decide)).2.2
  case lampBlinkTick => exact (execLampBlinkTick_keeps _ _ h .permits (by decide)).2.2

theorem exec_due {c : Instr} (free : s.custody.restartDue = false) (result : exec c s = .next t)
    (due : t.custody.restartDue = true) : s.mode = .running ∧ ∃ src p, frameOf c = some (3, src, p) ∧ p.length = 6 ∧
      Heeded s.cfg s.address src p := by
  have stays : t.custody.restartDue ≠ false := by rw [due]; nofun
  cases loads : isLoaderCommand c with
  | true => exact absurd (loader_due loads free result) stays
  | false =>
    cases carries : frameOf c with
    | none =>
      by_cases restart : c = .stationRestart
      · rw [restart, stationRestart_free free] at result
        cases result
        exact absurd free stays
      · exact absurd ((bare_due carries loads restart result).trans free) stays
    | some frame =>
      obtain ⟨cls, src, p⟩ := frame
      by_cases running : s.mode = .running
      · rw [exec_running running (exec_frame carries s)] at result
        cases result
        obtain ⟨rfl, length, heeded⟩ := takeFrame_due free due
        exact ⟨running, src, p, rfl, length, heeded⟩
      · rw [nonloader_waits c s loads running] at result
        cases result
        exact absurd free stays

/-! ### Through the permits that waited -/

theorem judgePermit_cfg (q : Permit) : (s.judgePermit q).cfg = s.cfg := judgePermit_keeps q s .cfg (by decide)

theorem judgePermit_address (q : Permit) : (s.judgePermit q).address = s.address := judgePermit_keeps q s .address (by decide)

/-- The permits that waited make a restart due only by a RESTART permit among them that the station heeds (R99). -/
theorem judgeWaiting_due : ∀ (waiting : List (Source × List Byte)) (s : State), s.custody.restartDue = false →
    (judgeWaiting waiting s).custody.restartDue = true → ∃ w ∈ waiting, Heeded s.cfg s.address w.1 w.2
  | [], s, free, due => absurd (free.symm.trans due) Bool.false_ne_true
  | (src, p) :: rest, s, free, due => by
    rw [judgeWaiting, if_neg (by rw [free]; exact Bool.false_ne_true)] at due
    cases next : (s.judgePermit (permitOf src p)).custody.restartDue with
    | true => exact ⟨(src, p), List.mem_cons_self, judgePermit_due free next⟩
    | false =>
      obtain ⟨w, waits, heeded⟩ := judgeWaiting_due rest _ next due
      rw [judgePermit_cfg, judgePermit_address] at heeded
      exact ⟨w, List.mem_cons_of_mem _ waits, heeded⟩

end Sys2Proof.Machine
end

section
/-! PROOF. A restart of the station, stage by stage (R50, R66, R86, R87, R126, R142, R165). -/

namespace Sys2Proof.Machine

/-! ## Stage 4: the plans (R126) -/

section
variable {i : SlotNo} {s t b : State}

theorem reportRestarted_table (rs : List Run) (s : State) :
    (s.reportRestarted i rs).plans.table = rs.foldl (fun table r => closeRun r.plan table) s.plans.table := by
  cases rs with
  | nil => rfl
  | cons r rs => rw [State.reportRestarted, reportRuns_closes, reportRun_closes, List.foldl_cons]

theorem restartPlan_table (i : SlotNo) (s : State) : (s.restartPlan i).plans.table =
    (s.plans.slots.get i).runs.foldl (fun table r => closeRun r.plan table) s.plans.table := reportRestarted_table _ s

theorem restartPlan_slot (i : SlotNo) (s : State) (k : SlotNo) : (s.restartPlan i).plans.slots.get k =
    if k = i then { s.plans.slots.get i with runs := [], floor := 0 } else s.plans.slots.get k := by
  rw [State.restartPlan, setPlan_slot, reportRestarted_slots]

theorem restartPlan_runsRight (right : s.RunsRight) : (s.restartPlan i).RunsRight := by
  have queues : (s.restartPlan i).queues = fun k => if k = i then [] else s.queues k := funext fun k => by
    unfold State.queues
    rw [restartPlan_slot]
    split <;> rfl
  rw [runsRight_iff, restartPlan_table, queues]
  exact RunsAgree.closeAll _ (runsRight_iff.mp right) rfl

theorem source_closeRuns {x : PlanRecord} : ∀ (rs : List Run) {table : List PlanRecord},
    x ∈ rs.foldl (fun table r => closeRun r.plan table) table → ∃ y ∈ table, y.id = x.id ∧ y.source = x.source
  | [], _, member => ⟨x, member, rfl, rfl⟩
  | r :: rs, table, member => by
    obtain ⟨y, held, id, source⟩ := source_closeRuns rs member
    obtain ⟨z, before, id', source'⟩ := source_closeRun held
    exact ⟨z, before, id'.trans id, source'.trans source⟩

theorem restartPlan_setPlan (i : SlotNo) (s : State) : s.restartPlan i =
    (s.reportRestarted i (s.plans.slots.get i).runs).setPlan i { s.plans.slots.get i with runs := [], floor := 0 } := rfl

/-- The head run of a slot is answered at its step, whatever the table holds besides (R126). -/
theorem restartPlan_head {r : Run} {p : PlanRecord} (before : Orderly b s) (head : s.headRun i = some r)
    (found : s.planOf r.plan = some p) :
    Handed (.result p.source r.plan (byteOf i.val) .restarted r.step) b (s.restartPlan i) := by
  obtain ⟨rest, queue⟩ := List.head?_eq_some_iff.mp head
  have rests := orderly_foldl _ (fun u y => reportRun_orderly i y .restarted 0 u) rest (s.reportRun i r .restarted r.step)
  have grown := grows_foldl _ (fun u y => reportRun_grows i y .restarted 0 u) rest (s.reportRun i r .restarted r.step)
  rw [restartPlan_setPlan, queue, State.reportRestarted]
  exact reportRun_handed .restarted r.step found before (rests.trans (Orderly.of_keeps (setPlan_keeps _ _ _) (by decide)))
    (grown.trans (setPlan_grows _ _ _))

/-- Every queued run of a slot is answered at step 0, where no plan has two of them (R126). -/
theorem restartPlan_queued {r : Run} {p : PlanRecord} (before : Orderly b s)
    (once : ((s.plans.slots.get i).runs.map (·.plan)).Nodup) (queued : r ∈ (s.plans.slots.get i).runs.tail)
    (found : s.planOf r.plan = some p) :
    Handed (.result p.source r.plan (byteOf i.val) .restarted 0) b (s.restartPlan i) := by
  rw [restartPlan_setPlan]
  cases queue : (s.plans.slots.get i).runs with
  | nil => rw [queue] at queued; cases queued
  | cons x rest =>
    rw [queue] at queued once
    obtain ⟨fresh, restOnce⟩ := List.nodup_cons.mp once
    have differ : x.plan ≠ r.plan := fun same => fresh (List.mem_map.mpr ⟨r, queued, same.symm⟩)
    rw [State.reportRestarted]
    exact reportRuns_handed i .restarted rest (before.trans (reportRun_orderly i x _ _ s))
      (Orderly.of_keeps (setPlan_keeps _ _ _) (by decide)) (setPlan_grows _ _ _) restOnce r queued p
      ((reportRun_planOf_other differ i _ _ s).trans found)

/-! ### Slot by slot -/

theorem restartPlans_fold_slot (k : SlotNo) : ∀ (is : List SlotNo) (s : State), (forSlots is State.restartPlan s).plans.slots.get k =
    if k ∈ is then { s.plans.slots.get k with runs := [], floor := 0 } else s.plans.slots.get k
  | [], _ => rfl
  | i :: is, s => by
    show (forSlots is State.restartPlan (s.restartPlan i)).plans.slots.get k = _
    rw [restartPlans_fold_slot k is, restartPlan_slot]
    by_cases mine : k = i
    · simp [mine]
    · simp [mine]

/-- Slot i's runs are answered, each by its plan in the table of w (R126). -/
structure RunsAnswered (w b t : State) (i : SlotNo) : Prop where
  head : ∀ r p, w.headRun i = some r → w.planOf r.plan = some p →
    Handed (.result p.source r.plan (byteOf i.val) .restarted r.step) b t
  queued : ∀ r ∈ (w.plans.slots.get i).runs.tail, ∀ p, w.planOf r.plan = some p →
    Handed (.result p.source r.plan (byteOf i.val) .restarted 0) b t

theorem RunsAnswered.later {w u : State} (h : RunsAnswered w b t i) (before : Orderly b t) (after : Orderly t u) (grows : Grows t u) :
    RunsAnswered w b u i where
  head r p held found := (h.head r p held found).later before after grows rfl rfl
  queued r held p found := (h.queued r held p found).later before after grows rfl rfl

/-- The slots not yet done still have the runs they had at first, and the table their plans. -/
theorem runsAnswered_fold {w : State} (right : w.RunsRight) : ∀ (is : List SlotNo), is.Nodup → ∀ t : State, t.RunsRight →
    (∀ x ∈ t.plans.table, ∃ y ∈ w.plans.table, y.id = x.id ∧ y.source = x.source) →
    (∀ k ∈ is, t.plans.slots.get k = w.plans.slots.get k) → Orderly b t →
    ∀ k ∈ is, RunsAnswered w b (forSlots is State.restartPlan t) k
  | [], _, _, _, _, _, _ => nofun
  | i :: is, once, t, runs, source, same, before => by
    obtain ⟨fresh, once⟩ := List.nodup_cons.mp once
    have own := same i List.mem_cons_self
    have step := before.trans (restartPlan_orderly i t)
    have answered : RunsAnswered w b (t.restartPlan i) i := by
      refine ⟨fun r p head found => ?_, fun r queued p found => ?_⟩
      · have run : t.headRun i = some r := by rw [State.headRun, own]; exact head
        obtain ⟨y, at_, is⟩ := planOf_of_sources right runs source (List.mem_of_mem_head? run) found
        exact is ▸ restartPlan_head before run at_
      · rw [← own] at queued
        obtain ⟨y, at_, is⟩ := planOf_of_sources right runs source (List.mem_of_mem_tail queued) found
        exact is ▸ restartPlan_queued before (runs.queued i).1 queued at_
    have rest := runsAnswered_fold right is once (t.restartPlan i) (restartPlan_runsRight runs)
      (fun x member => by
        rw [restartPlan_table] at member
        obtain ⟨y, held, id, from_⟩ := source_closeRuns _ member
        obtain ⟨z, first, id', from'⟩ := source y held
        exact ⟨z, first, id'.trans id, from'.trans from_⟩)
      (fun k held => by
        have other : k ≠ i := fun is => fresh (is ▸ held)
        rw [restartPlan_slot, if_neg other, same k (List.mem_cons_of_mem _ held)])
      step
    intro k held
    show RunsAnswered w b (forSlots is State.restartPlan (t.restartPlan i)) k
    rcases List.mem_cons.mp held with rfl | later
    · exact answered.later step (orderly_forSlots _ restartPlan_orderly is _) (grows_forSlots _ restartPlan_grows is _)
    · exact rest k later

theorem restartPlans_slot (s : State) (k : SlotNo) :
    s.restartPlans.plans.slots.get k = { s.plans.slots.get k with runs := [], floor := 0 } := by
  unfold State.restartPlans
  rw [settled_runs]
  exact (restartPlans_fold_slot k allSlots s).trans (if_pos (mem_allSlots k))

/-- The plan table is emptied. -/
def State.tableEmptied (s : State) : State := { s with plans := { s.plans with table := [] } }

theorem restartPlans_answered (right : s.RunsRight) (before : Orderly b s) (i : SlotNo) : RunsAnswered s b s.restartPlans i := by
  obtain ⟨v, is⟩ : ∃ v, v = forSlots allSlots State.restartPlan s := ⟨_, rfl⟩
  have folded : RunsAnswered s b v i := is ▸ runsAnswered_fold right allSlots (by decide) s right (fun x m => ⟨x, m, rfl, rfl⟩)
    (fun _ _ => rfl) before i (mem_allSlots i)
  have fold : Orderly b v := is ▸ before.trans (orderly_forSlots _ restartPlan_orderly allSlots s)
  have whole : s.restartPlans = v.tableEmptied.settled := by rw [is]; rfl
  rw [whole]
  have emptied : Orderly v v.tableEmptied := orderly_of_lengths rfl (le_refl _) (le_refl _)
  have grown : Grows v v.tableEmptied := Grows.of_queue rfl
  exact folded.later fold (emptied.trans (settled_orderly _)) (grown.trans (settled_grows _))

end

/-! ## Stage 3: the latch and the claims (R86, R87) -/

/-- The latch record that a restart leaves of a slot. -/
def State.restartedLatch (s : State) (i : SlotNo) : LatchSlot :=
  match (s.latch.get i).state with
  | .withdrawWait _ => { s.latch.get i with state := s.learntState i, attempt := 1 }
  | .throwWait => { s.latch.get i with state := s.learntState i, attempt := 1 }
  | .withdrawing _ => { s.latch.get i with learnAtEnd := true }
  | .throwing _ => { s.latch.get i with learnAtEnd := true }
  | _ => s.latch.get i

theorem restartLatch_latch (i : SlotNo) (s : State) (k : SlotNo) : (s.restartLatch i).latch.get k =
    if k = i then s.restartedLatch i else s.latch.get k := by
  have still : s.latch.get k = if k = i then s.latch.get i else s.latch.get k := by
    split
    next mine => rw [mine]
    next => rfl
  unfold State.restartLatch State.restartedLatch
  cases (s.latch.get i).state <;> dsimp only
  case withdrawWait => exact learnLatch_latch i s k
  case throwWait => exact learnLatch_latch i s k
  case withdrawing => rw [setLatch_latch, get_setAt]
  case throwing => rw [setLatch_latch, get_setAt]
  all_goals exact still

theorem restartedLatch_congr {s t : State} {i : SlotNo} (latch : t.latch.get i = s.latch.get i) (monitor : t.monitor = s.monitor)
    (clock : t.clock = s.clock) (cfg : t.cfg = s.cfg) : t.restartedLatch i = s.restartedLatch i := by
  unfold State.restartedLatch
  rw [latch, learntState_congr monitor clock cfg]

theorem restartLatches_latch (k : SlotNo) : ∀ (is : List SlotNo), is.Nodup → ∀ s : State,
    (forSlots is State.restartLatch s).latch.get k = if k ∈ is then s.restartedLatch k else s.latch.get k
  | [], _, _ => rfl
  | i :: is, once, s => by
    obtain ⟨fresh, once⟩ := List.nodup_cons.mp once
    have kept := restartLatch_keeps i s
    show (forSlots is State.restartLatch (s.restartLatch i)).latch.get k = _
    rw [restartLatches_latch k is once]
    have own := restartLatch_latch i s k
    by_cases mine : k = i
    · rw [if_neg (mine ▸ fresh), own, if_pos mine, if_pos (mine ▸ List.mem_cons_self), mine]
    · rw [if_neg mine] at own
      rw [own, restartedLatch_congr own (kept .monitor (by decide)) (kept .clock (by decide)) (kept .cfg (by decide))]
      exact if_congr (by simp [mine]) rfl rfl

end Sys2Proof.Machine
end

section
namespace Sys2Proof.Machine

/-! ## The computations of a restart (R61, R62, R66) -/

section
variable {s t u : State} {a : Nat}

/-- The Share Unit's results are those of a computation, and the station allocation is at most a. -/
structure Capped (a : Nat) (t : State) : Prop extends SharesComputed 0 t t where
  below : t.share.alloc ≤ a

/-- What a computation has left stands for itself. -/
theorem SharesComputed.capped {n : Nat} (h : SharesComputed n s t) (below : t.share.alloc ≤ a) : Capped a t where
  floorShort := h.floorShort
  target := h.target
  within := h.within
  ramp := Nat.le_refl _
  slots := h.slots
  own := id
  follow := fun _ => .refl _
  below := below

theorem compute_capped (below : s.share.alloc ≤ a) : Capped a (s.compute false) := by
  have made : SharesComputed 0 s (s.compute false) := compute_sharesComputed false s
  exact made.capped (made.ramp.trans below)

theorem Capped.keeps {ps : List Part} (h : Capped a t) (k : Keeps ps t u)
    (d : ∀ p ∈ [Part.cfg, .charge, .share, .standing, .peers, .ceilings, .reserve], p ∉ ps) : Capped a u := by
  have alloc : u.share.alloc = t.share.alloc := (k .share (d _ (by simp))).2.2.2.2.2.1
  exact (h.toSharesComputed.before k d).capped (alloc ▸ h.below)

theorem Capped.settled (h : Capped a t) : Capped a t.settled := by
  have made : SharesComputed 0 t t.settled := h.toSharesComputed.settle _
  exact made.capped (made.ramp.trans h.below)

/-- The budget does not read the charge records. -/
theorem Capped.setCharge (h : Capped a t) (i : SlotNo) (c : ChargeSlot) : Capped a (t.setCharge i c) where
  floorShort := h.floorShort
  target := h.target
  within := h.within
  ramp := Nat.le_refl _
  slots := h.slots
  own := id
  follow := fun _ => .refl _
  below := h.below

theorem Capped.updateCharge (h : Capped a t) (i : SlotNo) (f : ChargeSlot → ChargeSlot) : Capped a (t.updateCharge i f) := by
  have set := h.setCharge i (f (t.charge.get i))
  unfold State.updateCharge
  dsimp only
  split
  · exact set.keeps (notice_keeps _ _ _ _) (by decide)
  · exact set

theorem Capped.laneDetached (h : Capped a t) (i : SlotNo) : Capped a (t.laneDetached i) := by
  have freed : Keeps [.free] t { t with free := t.free + 1 } := by intro p hp; cases p <;> simp_all [same]
  exact ((h.keeps freed (by decide)).updateCharge i _).settled

theorem Capped.restartLane (h : Capped a t) (l : LaneNo) : Capped a (t.restartLane l) := by
  unfold State.restartLane
  have cleared := h.keeps (setLane_keeps l { t.lanes.table.get l with faults := 0 } t) (by decide)
  generalize t.setLane l { t.lanes.table.get l with faults := 0 } = v at cleared
  dsimp only
  split
  · exact (cleared.keeps (moveLane_keeps _ _ v) (by decide)).laneDetached _
  · exact cleared.keeps (moveLane_keeps _ _ v) (by decide)
  · exact cleared

end

/-! ## The CLAIM entries of the queue (R87) -/

section
variable {Q : TxEntry → Prop} {t : State}

theorem claimEntries_of_line {u : State} (h : t.ClaimEntries Q) (line : u.line = t.line) : u.ClaimEntries Q := by
  unfold State.ClaimEntries
  rw [line]
  exact h

theorem claimEntries_hand {f : TxFrame} (other : f.isClaim = false) (h : t.ClaimEntries Q) : (t.hand f).ClaimEntries Q :=
  fun e queued claim => by
    rcases lineHand_entry queued with old | new
    · exact h e old claim
    · rw [new, other] at claim; cases claim

theorem claimEntries_reportRun (i : SlotNo) (r : Run) (o : Answer) (n : Nat) (h : t.ClaimEntries Q) :
    (t.reportRun i r o n).ClaimEntries Q := by
  cases found : t.planOf r.plan with
  | none => rw [State.reportRun, found]; exact h
  | some p =>
    exact claimEntries_of_line (claimEntries_hand (f := .result p.source r.plan (byteOf i.val) o n) rfl h)
      (reportRun_line o n found)

theorem claimEntries_restartPlan (i : SlotNo) (h : t.ClaimEntries Q) : (t.restartPlan i).ClaimEntries Q := by
  have fold : ∀ (rs : List Run) (v : State), v.ClaimEntries Q →
      (rs.foldl (fun u y => u.reportRun i y .restarted 0) v).ClaimEntries Q := by
    intro rs
    induction rs with
    | nil => exact fun _ held => held
    | cons r rs ih => exact fun v held => ih _ (claimEntries_reportRun i r _ _ held)
  rw [restartPlan_setPlan]
  refine claimEntries_of_line ?_ rfl
  cases (t.plans.slots.get i).runs with
  | nil => exact h
  | cons r rs => exact fold rs _ (claimEntries_reportRun i r _ _ h)

theorem claimEntries_laneDetached (i : SlotNo) (h : t.ClaimEntries Q) : (t.laneDetached i).ClaimEntries Q := by
  have freed : ({ t with free := t.free + 1 } : State).ClaimEntries Q := h
  unfold State.laneDetached State.chargeEvent
  generalize ({ t with free := t.free + 1 } : State) = v at freed
  refine (claimEntries_rounds Q).settled ?_
  unfold State.updateCharge
  dsimp only
  split
  · exact (claimEntries_rounds Q).notice _ _ _ _ freed
  · exact freed

theorem claimEntries_restartLane (l : LaneNo) (h : t.ClaimEntries Q) : (t.restartLane l).ClaimEntries Q := by
  have cleared : (t.setLane l { t.lanes.table.get l with faults := 0 }).ClaimEntries Q := h
  unfold State.restartLane
  generalize t.setLane l { t.lanes.table.get l with faults := 0 } = v at cleared
  dsimp only
  have moved : ∀ x, (v.moveLane l x).ClaimEntries Q := fun _ => cleared
  split
  · exact claimEntries_laneDetached _ (moved _)
  · exact moved _
  · exact cleared

end

/-! ## Stage 5: the lanes (R142) -/

/-- What a restart makes of a lane, its scrub timer ending at u. -/
def Lane.restarted (now u : Nat) (x : Lane) : Lane :=
  match x.state with
  | .attached _ _ => ({ x with faults := 0 } : Lane).move now (.scrubbing u)
  | .retired => ({ x with faults := 0 } : Lane).move now (.scrubbing u)
  | _ => { x with faults := 0 }

section
variable {now u : Nat} {x : Lane}

theorem Lane.restarted_attached {i : SlotNo} {q : Bool} (attached : x.state = .attached i q) :
    x.restarted now u = ({ x with faults := 0 } : Lane).move now (.scrubbing u) := by
  unfold Lane.restarted
  rw [attached]

theorem Lane.restarted_retired (retired : x.state = .retired) :
    x.restarted now u = ({ x with faults := 0 } : Lane).move now (.scrubbing u) := by
  unfold Lane.restarted
  rw [retired]

theorem Lane.restarted_other (free : ∀ i q, x.state ≠ .attached i q) (sound : x.state ≠ .retired) :
    x.restarted now u = { x with faults := 0 } := by
  unfold Lane.restarted
  split
  next i q held => exact absurd held (free i q)
  next held => exact absurd held sound
  next => rfl

end

theorem Lane.restarted_faults (now u : Nat) (x : Lane) : (x.restarted now u).faults = 0 := by
  unfold Lane.restarted
  split <;> simp

/-- What a restart makes of a lane's state. -/
def LaneState.restarted (u : Nat) : LaneState → LaneState
  | .attached _ _ => .scrubbing u
  | .retired => .scrubbing u
  | x => x

theorem Lane.restarted_state (now u : Nat) (x : Lane) : (x.restarted now u).state = x.state.restarted u := by
  cases state : x.state with
  | attached i q => rw [Lane.restarted_attached state, Lane.move_state]; rfl
  | retired => rw [Lane.restarted_retired state, Lane.move_state]; rfl
  | _ => rw [Lane.restarted_other (by simp [state]) (by simp [state])]; exact state

theorem Lane.restarted_sampledFrom (now u : Nat) (x : Lane) :
    (x.restarted now u).sampledFrom = if x.state = .retired then now else x.sampledFrom := by
  unfold Lane.restarted
  cases x.state <;> simp [Lane.move]

section
variable {l : LaneNo} {s : State}

theorem setLane_lane (x : Lane) (m : LaneNo) : (s.setLane l x).lanes.table.get m = if m = l then x else s.lanes.table.get m :=
  get_setAt _ _ _ _

theorem restartLane_own :
    (s.restartLane l).lanes.table.get l = (s.lanes.table.get l).restarted s.clock (momentAfter s.clock s.cfg.scrubTime) := by
  obtain ⟨v, is⟩ : ∃ v, v = s.setLane l { s.lanes.table.get l with faults := 0 } := ⟨_, rfl⟩
  have own : v.lanes.table.get l = { s.lanes.table.get l with faults := 0 } := by rw [is, setLane_lane, if_pos rfl]
  have clock : v.clock = s.clock := by rw [is]; rfl
  have cfg : v.cfg = s.cfg := by rw [is]; rfl
  have same : (v.lanes.table.get l).state = (s.lanes.table.get l).state := by rw [own]
  unfold State.restartLane
  dsimp only
  rw [← is]
  split
  next i q attached =>
    rw [detachLane_lanes, moveLane_own, own, clock, cfg, Lane.restarted_attached (same.symm.trans attached)]
  next retired => rw [moveLane_own, own, clock, cfg, Lane.restarted_retired (same.symm.trans retired)]
  next free sound =>
    rw [own, Lane.restarted_other (fun i q held => free i q (same.trans held)) fun held => sound (same.trans held)]

theorem restartLane_others (m : LaneNo) (other : m ≠ l) : (s.restartLane l).lanes.table.get m = s.lanes.table.get m := by
  have set : (s.setLane l { s.lanes.table.get l with faults := 0 }).lanes.table.get m = s.lanes.table.get m :=
    (setLane_lane _ m).trans (if_neg other)
  unfold State.restartLane
  dsimp only
  split
  · rw [detachLane_lanes, moveLane_others _ _ _ m other, set]
  · rw [moveLane_others _ _ _ m other, set]
  · exact set

theorem restartLanes_lane (s : State) (m : LaneNo) : s.restartLanes.lanes.table.get m =
    (s.lanes.table.get m).restarted s.clock (momentAfter s.clock s.cfg.scrubTime) := by
  obtain ⟨v, is⟩ : ∃ v : State, v = { s with lanes := { s.lanes with waitList := [] } } := ⟨_, rfl⟩
  have start : v.clock = s.clock ∧ v.cfg = s.cfg := by rw [is]; exact ⟨rfl, rfl⟩
  have table : v.lanes.table = s.lanes.table := by rw [is]
  have fold := foldl_lanes (f := fun t l => t.restartLane l)
    (g := Lane.restarted s.clock (momentAfter s.clock s.cfg.scrubTime)) (P := fun t => t.clock = s.clock ∧ t.cfg = s.cfg)
    (fun t l ⟨clock, cfg⟩ => by rw [restartLane_own, clock, cfg]) (fun t l m other => restartLane_others m other)
    (fun t l ⟨clock, cfg⟩ => by
      have kept := restartLane_leaves l t
      have clock' : (t.restartLane l).clock = t.clock := kept .clock (by decide)
      have cfg' : (t.restartLane l).cfg = t.cfg := kept .cfg (by decide)
      exact ⟨clock'.trans clock, cfg'.trans cfg⟩) allLanes (by decide) v start m
  rw [if_pos (mem_allLanes m), table] at fold
  rw [State.restartLanes, ← is]
  exact fold

end

end Sys2Proof.Machine
end

section
namespace Sys2Proof.Machine

/-! ## Stage 2: the Share Unit (R66) -/

section
variable {s t u b : State}

/-- The restart values of the Share Unit's own records (R66). -/
def State.shareCleared (s : State) : State :=
  { s with share := { s.share with
    peerHeard := false, listenCount := 0, silenceAt := none, reportAt := momentAfter s.clock s.cfg.reportPeriod
    peers := #v[none, none, none, none, none, none, none, none], ceilings := [], floorShort := false } }

theorem restartShare_eq (s : State) : s.restartShare = (s.shareCleared.changeShare .listen).compute false := rfl

theorem shareCleared_keeps (s : State) : Keeps [.standing, .peers, .ceilings, .share] s s.shareCleared := by
  intro p hp; cases p <;> simp_all [same, State.shareCleared]

theorem shareCleared_orderly (s : State) : Orderly s s.shareCleared := orderly_of_lengths rfl (le_refl _) (Nat.zero_le _)

/-- Unlike other shares, the restart of the Share Unit leaves the claims alone. -/
theorem restartShare_leaves (s : State) : Keeps [.standing, .peers, .ceilings, .charge, .share, .queue] s s.restartShare := by
  rw [restartShare_eq]
  exact (((shareCleared_keeps s).mono (by decide)).trans ((changeShare_keeps _ _).mono (by decide))).trans
    ((compute_keeps _ _).mono (by decide))

/-- What the restart of the Share Unit leaves in it, beside the computation. -/
structure ShareRestarted (s t : State) : Prop where
  state : t.share.state = .listen
  peerHeard : t.share.peerHeard = false
  listenCount : t.share.listenCount = 0
  silence : t.share.silenceAt = none
  report : t.share.reportAt = s.clock + s.cfg.reportPeriod * 250
  peers : ∀ a, t.share.peers.get a = none
  ceilings : t.share.ceilings = []

theorem ShareRestarted.keeps {ps : List Part} (h : ShareRestarted s t) (k : Keeps ps t u) (standing : .standing ∉ ps)
    (peers : .peers ∉ ps) (ceilings : .ceilings ∉ ps) : ShareRestarted s u := by
  obtain ⟨state, heard, silence, report, count⟩ := k .standing standing
  have table : u.share.peers = t.share.peers := k .peers peers
  have records : u.share.ceilings = t.share.ceilings := k .ceilings ceilings
  exact ⟨state.trans h.state, heard.trans h.peerHeard, count.trans h.listenCount, silence.trans h.silence,
    report.trans h.report, fun a => by rw [table]; exact h.peers a, records.trans h.ceilings⟩

theorem restartShare_restarted (s : State) : ShareRestarted s s.restartShare := by
  have set : ShareRestarted s (s.shareCleared.changeShare .listen) := by
    have share := changeShare_share .listen s.shareCleared
    generalize s.shareCleared.changeShare .listen = v at share
    constructor <;> rw [share]
    · rfl
    · rfl
    · rfl
    · rfl
    · intro a; fin_cases a <;> rfl
    · rfl
  rw [restartShare_eq]
  exact set.keeps (compute_keeps false _) (by decide) (by decide) (by decide)

theorem restartShare_capped (s : State) : Capped s.share.alloc s.restartShare := by
  rw [restartShare_eq]
  refine compute_capped ?_
  rw [changeShare_share]
  exact le_refl _

/-- A change to LISTEN is noted (R46). -/
theorem restartShare_told (other : s.share.state ≠ .listen) (before : Orderly b s) (cfg : s.cfg = b.cfg)
    (after : Orderly s.restartShare u) (grows : Grows s.restartShare u) : NoticeHanded b u .shareState none 0 := by
  have cleared := before.trans (shareCleared_orderly s)
  have made := compute_orderly false (s.shareCleared.changeShare .listen)
  have grown := compute_grows false (s.shareCleared.changeShare .listen)
  rw [restartShare_eq] at after grows
  have changed : s.shareCleared.changeShare .listen =
      ({ s.shareCleared with share := { s.shareCleared.share with state := .listen } } : State).notice .shareState none 0 :=
    changeShare_of_ne other
  have set : Orderly s.shareCleared { s.shareCleared with share := { s.shareCleared.share with state := .listen } } :=
    orderly_of_lengths rfl (le_refl _) (le_refl _)
  have own : ({ s.shareCleared with share := { s.shareCleared.share with state := .listen } } : State).cfg = b.cfg := cfg
  rw [changed] at made grown after grows
  generalize ({ s.shareCleared with share := { s.shareCleared.share with state := .listen } } : State) = v at *
  exact noticeHanded_of (cleared.trans set) own (made.trans after) (grown.trans grows)

/-! ## Stage 3: the claims (R87) -/

theorem restartLatches_keeps (s : State) : Keeps [.latch] s (forSlots allSlots State.restartLatch s) :=
  keeps_forSlots _ (fun i s => restartLatch_keeps i s) _ _

/-- The restart values of the Claim Unit: admitted own claim records and the tag counter are kept. -/
def Claims.restarted (c : Claims) : Claims :=
  { requests := [], own := c.own.filter (fun x => x.expires.isSome), tagCounter := c.tagCounter, entries := [], retryHold := none }

/-- What the restart of the Claim Unit and the Latch Driver leaves. -/
structure PulsesRestarted (s t : State) : Prop where
  claims : t.claims = s.claims.restarted
  entries : t.ClaimEntries fun e => e.sending = true ∧ e.withdraw = true
  latch : ∀ i, t.latch.get i = s.restartedLatch i
  reserve : t.share.reserve = 0

theorem restartPulses_restarted (s : State) : PulsesRestarted s s.restartPulses := by
  have cleared : s.restartClaims.ClaimEntries fun e => e.sending = true ∧ e.withdraw = true :=
    claimEntries_of_line (withdrawClaims_entries s) rfl
  have claims : s.restartClaims.claims = s.claims.restarted := rfl
  have learnt : ∀ i, (forSlots allSlots State.restartLatch s.restartClaims).latch.get i = s.restartedLatch i := fun i => by
    rw [restartLatches_latch i allSlots (by decide), if_pos (mem_allSlots i)]
    exact restartedLatch_congr rfl rfl rfl rfl
  have kept := restartLatches_keeps s.restartClaims
  unfold State.restartPulses
  generalize s.restartClaims = c at *
  generalize forSlots allSlots State.restartLatch c = v at *
  have same : v.claims = c.claims := claims_of_keeps kept (by decide)
  have line : v.ClaimEntries fun e => e.sending = true ∧ e.withdraw = true := by
    unfold State.ClaimEntries
    rw [(kept .queue (by decide)).1]
    exact cleared
  have reported := reportReserve_keeps v
  have latch : v.reportReserve.latch = v.latch := reported .latch (by decide)
  refine ⟨(claims_of_keeps reported (by decide)).trans (same.trans claims), ?_, fun i => by rw [latch, learnt], ?_⟩
  · exact (claimEntries_rounds _).compute false line
  · rw [(reportReserve_result v).1, same, claims]
    rfl

theorem restartPulses_capped {a : Nat} (below : s.share.alloc ≤ a) : Capped a s.restartPulses := by
  have claims : s.restartClaims.share = s.share := rfl
  have kept := restartLatches_keeps s.restartClaims
  unfold State.restartPulses
  generalize s.restartClaims = c at *
  generalize forSlots allSlots State.restartLatch c = v at *
  have alloc : v.share.alloc = c.share.alloc := (kept .share (by decide)).2.2.2.2.2.1
  exact compute_capped (by show v.share.alloc ≤ a; rw [alloc, claims]; exact below)

/-! ## Stages 4 and 5, for the Share Unit and the queue -/

theorem Capped.restartPlans {a : Nat} (h : Capped a s) : Capped a s.restartPlans := by
  have kept : Keeps [.runs, .queue] s (forSlots allSlots State.restartPlan s) :=
    keeps_forSlots _ (fun i s => restartPlan_keeps i s) _ _
  unfold State.restartPlans
  generalize forSlots allSlots State.restartPlan s = v at kept
  have emptied : Keeps [.runs] v v.tableEmptied := by intro p hp; cases p <;> simp_all [same, State.tableEmptied]
  exact ((h.keeps kept (by decide)).keeps emptied (by decide)).settled

theorem Capped.restartLanes {a : Nat} (h : Capped a s) : Capped a s.restartLanes := by
  have fold : ∀ (ls : List LaneNo) (v : State), Capped a v → Capped a (ls.foldl (fun t l => t.restartLane l) v) := by
    intro ls
    induction ls with
    | nil => exact fun _ held => held
    | cons l ls ih => exact fun v held => ih _ (held.restartLane l)
  have emptied : Keeps [.lanes] s { s with lanes := { s.lanes with waitList := [] } } := by intro p hp; cases p <;> simp_all [same]
  exact fold allLanes _ (h.keeps emptied (by decide))

theorem claimEntries_restartPlans {Q : TxEntry → Prop} (h : s.ClaimEntries Q) : s.restartPlans.ClaimEntries Q := by
  have fold : ∀ (is : List SlotNo) (v : State), v.ClaimEntries Q → (forSlots is State.restartPlan v).ClaimEntries Q := by
    intro is
    induction is with
    | nil => exact fun _ held => held
    | cons i is ih => exact fun v held => ih _ (claimEntries_restartPlan i held)
  have folded := fold allSlots s h
  unfold State.restartPlans
  generalize forSlots allSlots State.restartPlan s = v at folded
  exact (claimEntries_rounds Q).settled folded

theorem claimEntries_restartLanes {Q : TxEntry → Prop} (h : s.ClaimEntries Q) : s.restartLanes.ClaimEntries Q := by
  have fold : ∀ (ls : List LaneNo) (v : State), v.ClaimEntries Q → (ls.foldl (fun t l => t.restartLane l) v).ClaimEntries Q := by
    intro ls
    induction ls with
    | nil => exact fun _ held => held
    | cons l ls ih => exact fun v held => ih _ (claimEntries_restartLane l held)
  exact fold allLanes _ h

end

end Sys2Proof.Machine
end

section
namespace Sys2Proof.Machine

/-! ## The whole restart (R165) -/

section
variable {s t u b w : State} {i : SlotNo}

theorem RunsAnswered.congr (h : RunsAnswered w b t i) (slots : w.plans.slots = s.plans.slots)
    (table : w.plans.table = s.plans.table) : RunsAnswered s b t i := by
  have head : w.headRun i = s.headRun i := by unfold State.headRun; rw [slots]
  have planOf : ∀ id, w.planOf id = s.planOf id := fun id => by unfold State.planOf; rw [table]
  refine ⟨fun r p => ?_, fun r queued p => ?_⟩
  · rw [← head, ← planOf]
    exact h.head r p
  · rw [← planOf]
    exact h.queued r (by rw [slots]; exact queued) p

/-- What the five stages of a restart leave. -/
structure Restarted (s t : State) : Prop where
  share : ShareRestarted s t
  pulses : PulsesRestarted s t
  capped : Capped s.share.alloc t
  left : Handed .leave s t
  noted : s.share.state ≠ .listen → NoticeHanded s t .shareState none 0
  slots : ∀ i, t.plans.slots.get i = { s.plans.slots.get i with runs := [], floor := 0 }
  table : t.plans.table = []
  answered : s.RunsRight → ∀ i, RunsAnswered s s t i
  waitList : t.lanes.waitList = []
  lanes : ∀ l, t.lanes.table.get l = (s.lanes.table.get l).restarted s.clock (momentAfter s.clock s.cfg.scrubTime)
  orderly : Orderly s t
  keeps : Keeps (.permits :: restartParts) s t

theorem restartStages_restarted (s : State) : Restarted s s.restartStages := by
  have all := restartStages_keeps s
  have table := restartStages_table s
  have waitList := restartStages_waitList s
  unfold State.restartStages at *
  -- the LEAVE is handed
  have k0 := hand_keeps .leave s
  have o0 := hand_orderly .leave s
  have left : Handed .leave s (s.hand .leave) := handed_of_line rfl
  have share0 : (s.hand .leave).share = s.share := rfl
  generalize s.hand .leave = s0 at *
  have clock0 : s0.clock = s.clock := k0 .clock (by decide)
  have cfg0 : s0.cfg = s.cfg := k0 .cfg (by decide)
  -- the Share Unit
  have k1 := restartShare_leaves s0
  have o1 := restartShare_orderly s0
  have g1 := restartShare_grows s0
  have share1 := restartShare_restarted s0
  have capped1 := restartShare_capped s0
  have told1 := fun (other : s0.share.state ≠ .listen) (u : State) => restartShare_told (b := s) (u := u) other o0 cfg0
  generalize s0.restartShare = s1 at *
  have k01 : Keeps [.standing, .peers, .ceilings, .charge, .share, .queue] s s1 := (k0.mono (by decide)).trans k1
  -- the Claim Unit and the Latch Driver
  have k2 := restartPulses_keeps s1
  have o2 := restartPulses_orderly s1
  have g2 := restartPulses_grows s1
  have pulses2 := restartPulses_restarted s1
  have capped2 := restartPulses_capped capped1.below
  generalize s1.restartPulses = s2 at *
  have k02 : Keeps (.standing :: .peers :: .ceilings :: claimParts) s s2 := (k01.mono (by decide)).trans (k2.mono (by decide))
  have plans : s2.plans.slots = s.plans.slots ∧ s2.plans.table = s.plans.table := k02 .runs (by decide)
  -- the Plan Engine
  have k3 := restartPlans_keeps s2
  have o3 := restartPlans_orderly s2
  have g3 := restartPlans_grows s2
  have answered3 := fun right : s2.RunsRight => restartPlans_answered (b := s) right ((o0.trans o1).trans o2)
  have slots3 := restartPlans_slot s2
  have capped3 := capped2.restartPlans
  have entries3 := claimEntries_restartPlans pulses2.entries
  have lanes3 := restartPlans_lanes s2
  generalize s2.restartPlans = s3 at *
  -- the Lane Switch
  have k4 := restartLanes_leaves s3
  have o4 := restartLanes_orderly s3
  have g4 := restartLanes_grows s3
  have capped4 := capped3.restartLanes
  have entries4 := claimEntries_restartLanes entries3
  have lanes4 := restartLanes_lane s3
  generalize s3.restartLanes = s4 at *
  have k34 : Keeps planParts s2 s4 := k3.trans (k4.mono (by decide))
  have shared := ((share1.keeps k2 (by decide) (by decide) (by decide)).keeps k34 (by decide) (by decide) (by decide))
  exact {
    share := { shared with report := by rw [shared.report, clock0, cfg0] }
    pulses := {
      claims := by
        rw [claims_of_keeps k34 (by decide), pulses2.claims, claims_of_keeps k01 (by decide)]
      entries := entries4
      latch := fun i => by
        have latch : s4.latch = s2.latch := k34 .latch (by decide)
        have before : s1.latch = s.latch := k01 .latch (by decide)
        rw [latch, pulses2.latch]
        exact restartedLatch_congr (by rw [before]) (k01 .monitor (by decide)) (k01 .clock (by decide)) (k01 .cfg (by decide))
      reserve := by
        have reserve : s4.share.reserve = s2.share.reserve := k34 .reserve (by decide)
        rw [reserve, pulses2.reserve] }
    capped := share0 ▸ capped4
    left := left.later o0 (((o1.trans o2).trans o3).trans o4) (((g1.trans g2).trans g3).trans g4) rfl rfl
    noted := fun other => told1 (by rw [share0]; exact other) s4 ((o2.trans o3).trans o4) ((g2.trans g3).trans g4)
    slots := fun i => by
      have slots : s4.plans.slots = s3.plans.slots := (k4 .runs (by decide)).1
      rw [slots, slots3, plans.1]
    table := table
    answered := fun right i => ((answered3 (right.of_keeps k02 (by decide)) i).later (((o0.trans o1).trans o2).trans o3) o4 g4).congr
      plans.1 plans.2
    waitList := waitList
    lanes := fun l => by
      have lanes : s2.lanes = s.lanes := k02 .lanes (by decide)
      have clock : s3.clock = s2.clock := k3 .clock (by decide)
      have cfg : s3.cfg = s2.cfg := k3 .cfg (by decide)
      have clock2 : s2.clock = s.clock := k02 .clock (by decide)
      have cfg2 : s2.cfg = s.cfg := k02 .cfg (by decide)
      rw [lanes4, lanes3, lanes, clock, cfg, clock2, cfg2]
    orderly := (((o0.trans o1).trans o2).trans o3).trans o4
    keeps := all.mono (by decide) }

end

/-- The Custody Unit's permits are no concern of the other blocks. -/
theorem Restarted.permits (h : Restarted s t) (k : Keeps [.permits] t u) : Restarted s u := by
  have orderly : Orderly t u := Orderly.of_keeps k (by decide)
  have grows : Grows t u := Grows.of_keeps k (by decide)
  have plans : u.plans.slots = t.plans.slots ∧ u.plans.table = t.plans.table := k .runs (by decide)
  have lanes : u.lanes = t.lanes := k .lanes (by decide)
  have latch : u.latch = t.latch := k .latch (by decide)
  have queue : u.line.queue = t.line.queue := (k .queue (by decide)).1
  have reserve : u.share.reserve = t.share.reserve := k .reserve (by decide)
  exact {
    share := h.share.keeps k (by decide) (by decide) (by decide)
    pulses := {
      claims := (claims_of_keeps k (by decide)).trans h.pulses.claims
      entries := fun e queued => h.pulses.entries e (queue ▸ queued)
      latch := fun i => by rw [latch]; exact h.pulses.latch i
      reserve := reserve.trans h.pulses.reserve }
    capped := h.capped.keeps k (by decide)
    left := h.left.later h.orderly orderly grows rfl rfl
    noted := fun other reported => (h.noted other reported).later h.orderly orderly grows rfl rfl
    slots := fun i => by rw [plans.1]; exact h.slots i
    table := plans.2.trans h.table
    answered := fun right i => (h.answered right i).later h.orderly orderly grows
    waitList := by rw [lanes]; exact h.waitList
    lanes := fun l => by rw [lanes]; exact h.lanes l
    orderly := h.orderly.trans orderly
    keeps := h.keeps.trans (k.mono (by decide)) }

/-! ## The end of the restart (R99, R165) -/

section
variable {s t u : State}

/-- The Custody Unit takes permits again. -/
def State.heeding (s : State) : State := { s with custody := { s.custody with restartDue := false, waiting := [] } }

theorem heeding_keeps (s : State) : Keeps [.permits] s s.heeding := by
  intro p hp; cases p <;> simp_all [same, State.heeding]

theorem custody_of_keeps {ps : List Part} (k : Keeps ps s t) (slots : .custody ∉ ps) (permits : .permits ∉ ps) :
    t.custody = s.custody := by
  obtain ⟨verdict, waiting, due⟩ := k .permits permits
  have slots : t.custody.slots = s.custody.slots := k .custody slots
  cases new : t.custody
  cases old : s.custody
  simp_all

theorem completeRestart_eq (s : State) : s.completeRestart = judgeWaiting s.custody.waiting s.heeding := rfl

theorem stationRestart_eq (running : s.mode = .running) (due : s.custody.restartDue = true) :
    exec .stationRestart s = .next (judgeWaiting s.custody.waiting s.restartStages.heeding) := by
  have custody : s.restartStages.custody = s.custody := custody_of_keeps (restartStages_keeps s) (by decide) (by decide)
  show execStationRestart s = _
  refine whileRunning_next running ?_
  rw [if_pos due, completeRestart_eq, custody]

theorem cappedTarget_listen (listens : s.share.state = .listen) : s.cappedTarget ≤ s.cfg.entryAllowance := by
  unfold State.cappedTarget
  rw [listens]
  exact Nat.min_le_right _ _

/-- A restart that is due leads to another only by a RESTART permit that has waited (R99). -/
theorem stationRestart_due (running : s.mode = .running) (due : s.custody.restartDue = true)
    (result : exec .stationRestart s = .next t) (again : t.custody.restartDue = true) :
    ∃ w ∈ s.custody.waiting, Heeded s.cfg s.address w.1 w.2 := by
  have kept : Keeps (.permits :: restartParts) s s.restartStages.heeding :=
    ((restartStages_keeps s).mono (by decide)).trans ((heeding_keeps _).mono (by decide))
  have free : s.restartStages.heeding.custody.restartDue = false := rfl
  rw [stationRestart_eq running due] at result
  generalize s.restartStages.heeding = v at *
  cases result
  have cfg : v.cfg = s.cfg := kept .cfg (by decide)
  have address : v.address = s.address := kept .address (by decide)
  rw [← cfg, ← address]
  exact judgeWaiting_due _ v free again

end

/-- Settles O42: a restart comes of a RESTART permit that is heeded; its stages are taken one after another, and the permits
that waited are judged in the state that they leave. -/
theorem stationRestartTakesRestartValues : Obligations.StationRestartTakesRestartValues := by
  refine ⟨fun c s t free result due => exec_due free result due, fun s t running due result again =>
    stationRestart_due running due result again, fun s running => ⟨stationRestart_free, fun due => ?_, fun i r p head found =>
    restartPlan_head (.refl s) head found⟩⟩
  have h := restartStages_restarted s
  have done := heeding_keeps s.restartStages
  have result := stationRestart_eq running due
  have custody : s.restartStages.heeding.custody = { s.custody with restartDue := false, waiting := [] } := by
    have same : s.restartStages.custody = s.custody := custody_of_keeps (restartStages_keeps s) (by decide) (by decide)
    rw [State.heeding, same]
  generalize s.restartStages.heeding = u at *
  generalize s.restartStages = t at *
  have h := h.permits done
  refine ⟨u, result, custody, h.left, h.share.state, h.share.peerHeard, h.share.listenCount, h.share.silence, h.share.report,
    h.share.peers, h.share.ceilings, h.noted, h.pulses.reserve, h.capped.target, h.capped.within, h.capped.below, ?_,
    h.pulses.claims, h.pulses.entries, h.pulses.latch, h.table, h.slots, fun right i => ?_, h.waitList, fun l => ?_,
    h.keeps.mono (by decide)⟩
  · have cfg : u.cfg = s.cfg := h.keeps .cfg (by decide)
    rw [h.capped.target, ← cfg]
    exact cappedTarget_listen h.share.state
  · exact ⟨(h.answered right i).head, (h.answered right i).queued⟩
  · rw [h.lanes l]
    exact ⟨Lane.restarted_faults _ _ _, Lane.restarted_state _ _ _, Lane.restarted_sampledFrom _ _ _⟩

end Sys2Proof.Machine
end
